-- ==== Sys2Proof/Word.lean ====
section
/-! DEFINITION. The word types of the machine and keyed lists, the plain data every later file builds on. -/

namespace Sys2Proof

/-- A 64-bit word (spec/00 R4: words are 64-bit). -/
abbrev Word := BitVec 64

/-- One byte. -/
abbrev Byte := BitVec 8

/-- Sparse data by key: each key stands at most once; the order is that of first insertion. -/
abbrev KV (α β : Type) := List (α × β)

namespace KV

/-- The value stored under a key, if any. -/
def get? {α β : Type} [DecidableEq α] : KV α β → α → Option β
  | [], _ => none
  | (k, v) :: m, a => if k = a then some v else get? m a

/-- The value stored under a key, or the default. -/
def getD {α β : Type} [DecidableEq α] (m : KV α β) (a : α) (d : β) : β := (get? m a).getD d

/-- Store a value under a key, replacing the one stored there. -/
def put {α β : Type} [DecidableEq α] : KV α β → α → β → KV α β
  | [], a, b => [(a, b)]
  | (k, v) :: m, a, b => if k = a then (a, b) :: m else (k, v) :: put m a b

/-- Remove a key. -/
def del {α β : Type} [DecidableEq α] (m : KV α β) (a : α) : KV α β := m.filter (fun x => decide (x.1 ≠ a))

/-- The keys, in order. -/
def keys {α β : Type} (m : KV α β) : List α := m.map (·.1)

end KV

end Sys2Proof
end

