-- ==== Sys2Proof/Machine/Galois.lean ====
section
/-! DEFINITION. The field GF(2^8) with polynomial 0x11D, in which the codes of the memories and of the fabric compute (R215, R224,
R266). -/

namespace Sys2Proof.Machine

open Sys2Proof

/-- Multiply by x. -/
def gfX (a : Byte) : Byte := (a <<< 1) ^^^ (if a.getLsbD 7 then 0x1D else 0)

/-- Product in GF(2^8). -/
def gfMul (a b : Byte) : Byte :=
  ((List.range 8).foldl (fun (acc : Byte × Byte) i =>
    ((if b.getLsbD i then acc.1 ^^^ acc.2 else acc.1), gfX acc.2)) (0, a)).1

/-- Inverse in GF(2^8): the 254th power; 0 for 0. -/
def gfInv (a : Byte) : Byte :=
  ((List.range 7).foldl (fun (acc : Byte × Byte) _ =>
    let sq := gfMul acc.2 acc.2
    (gfMul acc.1 sq, sq)) (1, a)).1

/-- α^n, with α = 0x02 (R215). -/
def gfPow : Nat → Byte
  | 0 => 1
  | n + 1 => gfX (gfPow n)

/-- The two syndromes of a word with these errors (symbol, value): the codeword polynomial vanishes at 1 and at α (R215). -/
def syndromes (es : List (Nat × Byte)) : Byte × Byte :=
  es.foldl (fun (a : Byte × Byte) e => (a.1 ^^^ e.2, a.2 ^^^ gfMul e.2 (gfPow e.1))) (0, 0)

end Sys2Proof.Machine
end

