-- ==== Sys2Proof/Config.lean ====
section
/-! DEFINITION. What the spec leaves open: constants without a body, so that no proof can see their value, and the few
numbers an implementation fixes. Each is named in the assumption log. -/

namespace Sys2Proof.Config

/-- A free choice, keyed by the place where it is made (log 3: DESIGN CHOICE): the value is used modulo the number of alternatives. -/
opaque pick : List Nat → Nat

/-- Launch contents of a tile-store row: launch serial, row, column, window row (R15, log 4: DESIGN CHOICE). -/
opaque undefRow : Nat → Nat → Nat → Nat → BitVec 1024

/-- Launch contents of a folio unit: launch serial, row, column, unit (R15, log 4: DESIGN CHOICE). -/
opaque undefUnit : Nat → Nat → Nat → Nat → BitVec 256

/-- Launch contents of a constant-bank word: launch serial, row, column, index (R15, log 4: DESIGN CHOICE). -/
opaque undefKb : Nat → Nat → Nat → Nat → BitVec 32

/-- A word of a text bank that no load has written: launch serial, row, bank, index (R62, log 4: DESIGN CHOICE). -/
opaque undefText : Nat → Nat → Nat → Nat → BitVec 64

/-- The td0 descriptor image that the hypervisor keeps at an IOVA (R211, R300, log 84: DESIGN CHOICE). -/
opaque td0Image : BitVec 64 → BitVec 512

/-- The energy in µJ that a partition spends between two frame boundaries: partition, free counter (R254, log 25: DESIGN CHOICE). -/
opaque frameEnergy : Nat → Nat → Nat

/-- The size in bytes of an eviction layer: free counter (R292, log 26: DESIGN CHOICE). -/
opaque layerBytes : Nat → Nat

/-- Words of an eviction layer, whose layout the spec does not give: its key, index (R292, log 26: DESIGN CHOICE). -/
opaque layerWord : Nat → Nat → BitVec 64

/-- Words of the configuration record that stands in flash at a reset: free counter, index (R312, log 12: DESIGN CHOICE). -/
opaque cfgRecord : Nat → Nat → BitVec 64

/-- SHA-384 digests, by what they are digests of: the image in a slot, a configuration record, a layout (R313, log 28: DESIGN CHOICE). -/
opaque digest : Nat → List Nat → BitVec 384

/-- ECDSA P-384 signatures: a free value, the words signed (R313, log 28: DESIGN CHOICE). -/
opaque sign : Nat → List Nat → BitVec 768

/-- Sensor readings, which no rule gives: which one, free counter (R310, log 28: DESIGN CHOICE). -/
opaque report : Nat → Nat → BitVec 384

/-- The slew of fabric time at a time-sync beat: free counter; one nanosecond forward where it is positive, one back where it is
negative (R279, log 10: DESIGN CHOICE). -/
opaque slew : Nat → Int

/-- The message number of a remote access made for an AGEN item: free counter (R236, log 29: DESIGN CHOICE). -/
opaque remoteSeq : Nat → BitVec 32

/-- The operand word of a remote access made for an AGEN item: tensor id, coordinates (R236, log 29: DESIGN CHOICE). -/
opaque remoteOpnd : Nat → Nat → BitVec 64

/-- The coordinates or the byte offset that such an operand word names (R236, log 29: DESIGN CHOICE). -/
opaque itemPlace : BitVec 64 → BitVec 64

end Sys2Proof.Config
end

