-- ==== Sys2Proof/Syntax.lean ====
section
/-! DEFINITION. The instructions: one constructor for each row of the opcode table. The first 167 are the 64-bit
instruction words of the four engines (spec/02 R33–R55); the other 76 are the table's steps and events, with the
data that the outside world gives them. Idle counts belong to a word's place in the text, not to the instruction. -/

namespace Sys2Proof

/-- The four engines of a row, in text order (spec/01 R11). -/
inductive Eng where
  | seq | core | agen | xchg
  deriving DecidableEq, Repr

/-- S3 branch conditions (spec/02 R39). -/
inductive BrCond where
  | always | z | nz | neg | nneg | eq | ne | lt | ltu
  deriving DecidableEq, Repr

/-- S5 queue tests (spec/02 R39). -/
inductive QTest where
  | empty | nempty | full | pois | clean
  deriving DecidableEq, Repr

/-- A five-bit guard: negate and predicate (spec/02 R42). -/
structure Guard where
  neg : Bool
  p : BitVec 4
  deriving DecidableEq, Repr

/-- The rnd field of a C1 word (spec/02 R43). -/
inductive Rnd where
  | fpc | rne | rtz | rdn | rup | rna
  deriving DecidableEq, Repr

/-- The type field of a C1 word (spec/02 R43). -/
inductive Ty where
  | f32 | i32 | bf16 | i16
  deriving DecidableEq, Repr

/-- The floating-point lane types. -/
inductive FTy where
  | f32 | bf16
  deriving DecidableEq, Repr

/-- The integer lane types. -/
inductive ITy where
  | i32 | i16
  deriving DecidableEq, Repr

/-- Compare conditions (spec/02 R44). -/
inductive Cond where
  | eq | ne | lt | le | gt | ge | un | or
  deriving DecidableEq, Repr

/-- Compare conditions an integer compare accepts (spec/02 R44). -/
inductive ICond where
  | eq | ne | lt | le | gt | ge
  deriving DecidableEq, Repr

/-- The B operand of a C1 word (spec/05 R112). -/
inductive BSrc where
  | row (v : BitVec 10)
  | kb (n : BitVec 8)
  | lit (w : BitVec 32)
  | slot (s : BitVec 3)
  deriving DecidableEq, Repr

/-- The B operand of VFXA: a row or a slot (spec/05 R129). -/
inductive BFx where
  | row (v : BitVec 10)
  | slot (s : BitVec 3)
  deriving DecidableEq, Repr

/-- The second operand of a C3 word (spec/05 R114). -/
inductive SSrc where
  | reg (s : BitVec 4)
  | imm (i : BitVec 29)
  deriving DecidableEq, Repr

/-- The value of SLI (spec/05 R117). -/
inductive SliSrc where
  | imm (i : BitVec 29)
  | lit (w : BitVec 32)
  deriving DecidableEq, Repr

/-- The selectors of SGET (spec/05 R116). -/
inductive SgetSel where
  | col | row | strand | part | fst | fstc
  deriving DecidableEq, Repr

/-- The formats VCVT names (spec/05 R127). -/
inductive CvtFmt where
  | f32 | i32 | bf16 | i16 | m8 | i8
  deriving DecidableEq, Repr

/-- The A operand of MMA (spec/02 R43, spec/07 R139). -/
inductive MmaA where
  | lane
  | tile (m : BitVec 5)
  | folio (s : BitVec 4)
  deriving DecidableEq, Repr

/-- The element format of MMA (spec/02 R43). -/
inductive MFmt where
  | m8 | i8 | bf16
  deriving DecidableEq, Repr

/-- The accumulation mode of MMA (spec/02 R43). -/
inductive MMode where
  | acc | ovw | sub
  deriving DecidableEq, Repr

/-- The overflow choice of MMA (spec/02 R43). -/
inductive MOvr where
  | table | largest | poison
  deriving DecidableEq, Repr

/-- The cvt field of a C5 move (spec/02 R43). -/
inductive Cvt where
  | raw | m8 | bf16 | i8 | f32 | i32
  deriving DecidableEq, Repr

/-- The fields every transfer word shares: descriptor slot, coordinate register, tile count − 1, step register and
its dimension, priority, tok and wtk (spec/02 R46, A2). -/
structure Xfer where
  td : BitVec 4
  ac : BitVec 4
  nm1 : BitVec 8
  step : BitVec 4
  sdim : BitVec 2
  pri : BitVec 2
  tok : Bool
  wtk : Bool
  deriving DecidableEq, Repr

/-- Atomic widths (spec/02 R47). -/
inductive AWid where
  | w32 | w64 | w128
  deriving DecidableEq, Repr

/-- The fields of an A3 word (spec/02 R46); `rq` selects q7. -/
structure Atom where
  td : BitVec 4
  ac : BitVec 4
  aop : BitVec 4
  ad : BitVec 4
  ret : Bool
  wid : AWid
  rel : Bool
  acq : Bool
  tok : Bool
  rq : Bool
  deriving DecidableEq, Repr

/-- The fields of an X1 word (spec/02 R46, spec/09 R187); skind is the class with wtk above it. -/
structure Xmsg where
  ae : BitVec 4
  asrc : BitVec 4
  adst : BitVec 4
  crt : BitVec 3
  len64 : BitVec 8
  wtk : Bool
  cls : BitVec 3
  tok : Bool
  mc : Bool
  deriving DecidableEq, Repr

/-- Where a RECV or RCANCEL delivers (spec/02 R47): q12, q13, or a locator register. -/
inductive RDst where
  | q12
  | q13
  | loc (adst : BitVec 4)
  deriving DecidableEq, Repr

/-- An agent: one (strand, row) pair of a partition (spec/01 R8). -/
structure AgentKey where
  part : Nat
  strand : Nat
  row : Nat
  deriving DecidableEq, Repr

/-- A strand of a partition (spec/01 R7). -/
structure StrandKey where
  part : Nat
  strand : Nat
  deriving DecidableEq, Repr

/-- A fabric fragment: the header fields of spec/16 R264 and 512 payload bytes, byte b in bits [8b+7:8b]. -/
structure Frag where
  crc : BitVec 32
  opnd : BitVec 64
  mseq : BitVec 32
  src : BitVec 20
  spart : BitVec 3
  srow : BitVec 5
  sstrand : BitVec 4
  grp : Bool
  dst : BitVec 20
  dpart : BitVec 3
  drow : BitVec 5
  dstrand : BitVec 4
  k : BitVec 5
  m : BitVec 4
  fidx : BitVec 5
  ln : BitVec 7
  plane : BitVec 3
  hops : BitVec 6
  cls : BitVec 3
  op : BitVec 4
  rty : Bool
  dtime : BitVec 16
  pois : BitVec 8
  rsv : Bool
  payload : BitVec 4096
  deriving DecidableEq, Repr

/-- The agent that sent a message, with its endpoint (spec/16 R270). -/
structure Peer where
  ep : Nat
  ag : AgentKey
  deriving DecidableEq, Repr

/-- The key of a message or of a report (spec/16 R270): for ops 0–4 the last three fields are `none`. -/
structure MKey where
  src : Peer
  mseq : Nat
  rep : Option (AgentKey × Nat × Nat)
  deriving DecidableEq, Repr

/-- A protected on-chip memory (spec/12 R213). Cores are (row, column) of the mesh. -/
inductive MemId where
  | tileStore (row col : Nat)
  | folio (row col : Nat)
  | constBank (row col : Nat)
  | queuePool (row : Nat)
  | textStore (row : Nat)
  deriving DecidableEq, Repr

/-- What a host access still carries (spec/10 R197, R209): the words to come with their poison, and, of the line that its next word
lies in, how many words it has entered already and whether one of them was poisoned. -/
structure HostData where
  words : List (Word × Bool)
  before : Nat
  bad : Bool
  deriving DecidableEq, Repr

/-- A partition layout entry (spec/14 R239). -/
structure LayoutEntry where
  v : Bool
  qmask : BitVec 8
  cgmask : BitVec 8
  fcode : BitVec 3
  pshare : BitVec 5
  hrd : BitVec 16
  hwr : BitVec 16
  hats : BitVec 16
  ebud : BitVec 20
  dstall : BitVec 40
  rsv : BitVec 123
  deriving DecidableEq, Repr

/-- The registers that a REGISTER_WRITE reaches: those with no step of their own (spec/19 R298, R300; spec/16 R262,
R263, R280) and the host-owned frame map (spec/13 R230). -/
inductive RegName where
  | qbase (vcp : Nat) | qsize (vcp : Nat) | tail (vcp : Nat) | fring (vcp : Nat)
  | vcpCtl (vcp : Nat) | td0d (vcp : Nat) | fence (vcp : Nat)
  | fabid
  | group (g : Nat)
  | fdrop (plane : Nat)
  | fdelay (plane : Nat)
  | frameMap (part gfn : Nat)
  deriving DecidableEq, Repr

/-- Kinds of host-link request (spec/14 R255). -/
inductive LinkReq where
  | read | write | ats
  deriving DecidableEq, Repr

/-- The comparison of WAITMEM (spec/19 R302). -/
inductive WCond where
  | eq | ne | ge | lt
  deriving DecidableEq, Repr

/-- The scope of a CANCEL (spec/19 R302). -/
inductive CLevel where
  | launch | graph | job
  deriving DecidableEq, Repr

/-- The instructions: 167 words, then 76 steps and events. -/
inductive Instr where
  -- SEQ (spec/03)
  | nop
  | start
  | halt
  | yield (mask : BitVec 32)
  | swap (rep : Bool)
  | ovlyp (xa : BitVec 4) (imm : BitVec 35)
  | ovlys
  | br (c : BrCond) (xa xb : BitVec 4) (disp : BitVec 20)
  | call (c : BrCond) (xa xb : BitVec 4) (disp : BitVec 20)
  | ret
  | bq (q : BitVec 4) (t : QTest) (disp : BitVec 20)
  | repeat_ (xa : BitVec 4) (ip : BitVec 10) (cnt : BitVec 12) (st : BitVec 4) (len : BitVec 13)
  | leave
  | xadd (xd xa xb : BitVec 4)
  | xsub (xd xa xb : BitVec 4)
  | xmul (xd xa xb : BitVec 4)
  | xand (xd xa xb : BitVec 4)
  | xor_ (xd xa xb : BitVec 4)
  | xxor (xd xa xb : BitVec 4)
  | xshl (xd xa xb : BitVec 4)
  | xshr (xd xa xb : BitVec 4)
  | xsra (xd xa xb : BitVec 4)
  | xmin (xd xa xb : BitVec 4)
  | xmax (xd xa xb : BitVec 4)
  | xcmp (xd xa xb : BitVec 4)
  | xaddi (xd xa : BitVec 4) (imm : BitVec 35)
  | xandi (xd xa : BitVec 4) (imm : BitVec 35)
  | xori (xd xa : BitVec 4) (imm : BitVec 35)
  | xxori (xd xa : BitVec 4) (imm : BitVec 35)
  | xshli (xd xa : BitVec 4) (imm : BitVec 6)
  | xshri (xd xa : BitVec 4) (imm : BitVec 6)
  | xsrai (xd xa : BitVec 4) (imm : BitVec 6)
  | xli (xd : BitVec 4) (imm : BitVec 35)
  | xlil (xd : BitVec 4) (v : Word)
  | inj (q : BitVec 4) (stall : Bool) (xd : BitVec 4)
  | cap (q : BitVec 4) (stall : Bool) (xd : BitVec 4)
  | popt (q : BitVec 4) (stall : Bool) (xd : BitVec 4)
  | pusht (q : BitVec 4) (stall : Bool) (xd : BitVec 4)
  | qpop (q : BitVec 4) (stall : Bool) (xd : BitVec 4)
  | qstat (q : BitVec 4) (xd : BitVec 4)
  | lds (q7 : Bool) (xa : BitVec 4) (imm : BitVec 35)
  | sts (xd xa : BitVec 4) (imm : BitVec 35)
  | phase (fabric wait : Bool)
  | waittc (tcx flag : Bool) (xa xd : BitVec 4)
  | gettc (xd : BitVec 4) (sel : BitVec 2)
  | xtoa (ad xa : BitVec 4)
  | atox (xd aa : BitVec 4)
  | rotset (rowsz : BitVec 10) (tilesz : BitVec 6)
  | getsys (xd : BitVec 4) (sel : BitVec 4)
  | setfpc (xa : BitVec 4)
  | setovf (xa : BitVec 4)
  -- CORE scalar and predicate words (spec/05)
  | sadd (g : Guard) (sd sa : BitVec 4) (b : SSrc)
  | ssub (g : Guard) (sd sa : BitVec 4) (b : SSrc)
  | smul (g : Guard) (sd sa : BitVec 4) (b : SSrc)
  | sand (g : Guard) (sd sa : BitVec 4) (b : SSrc)
  | sor (g : Guard) (sd sa : BitVec 4) (b : SSrc)
  | sxor (g : Guard) (sd sa : BitVec 4) (b : SSrc)
  | sshl (g : Guard) (sd sa : BitVec 4) (b : SSrc)
  | sshr (g : Guard) (sd sa : BitVec 4) (b : SSrc)
  | ssra (g : Guard) (sd sa : BitVec 4) (b : SSrc)
  | smin (g : Guard) (sd sa : BitVec 4) (b : SSrc)
  | smax (g : Guard) (sd sa : BitVec 4) (b : SSrc)
  | smovx (g : Guard) (sd xa : BitVec 4)
  | sget (g : Guard) (sd : BitVec 4) (sel : SgetSel)
  | sli (g : Guard) (sd : BitVec 4) (v : SliSrc)
  | scmp (g : Guard) (c : ICond) (pd sa sb : BitVec 4)
  | pand (g : Guard) (pd pa pb : BitVec 4)
  | por (g : Guard) (pd pa pb : BitVec 4)
  | pxor (g : Guard) (pd pa pb : BitVec 4)
  | pnot (g : Guard) (pd pa : BitVec 4)
  | vany (g : Guard) (pd : BitVec 4) (va : BitVec 10)
  | vall (g : Guard) (pd : BitVec 4) (va : BitVec 10)
  -- CORE vector words (spec/05)
  | vadd (g : Guard) (ty : FTy) (r : Rnd) (vd va : BitVec 10) (b : BSrc)
  | vsub (g : Guard) (ty : FTy) (r : Rnd) (vd va : BitVec 10) (b : BSrc)
  | vmul (g : Guard) (ty : FTy) (r : Rnd) (vd va : BitVec 10) (b : BSrc)
  | vfma (g : Guard) (ty : FTy) (r : Rnd) (vd va : BitVec 10) (b : BSrc)
  | vfms (g : Guard) (ty : FTy) (r : Rnd) (vd va : BitVec 10) (b : BSrc)
  | vfmh (g : Guard) (ty : FTy) (r : Rnd) (vd va : BitVec 10) (b : BSrc)
  | vmin (g : Guard) (ty : FTy) (r : Rnd) (vd va : BitVec 10) (b : BSrc)
  | vmax (g : Guard) (ty : FTy) (r : Rnd) (vd va : BitVec 10) (b : BSrc)
  | vabs (g : Guard) (ty : FTy) (vd va : BitVec 10)
  | vneg (g : Guard) (ty : FTy) (vd va : BitVec 10)
  | vcmp (g : Guard) (c : Cond) (ty : FTy) (vd va : BitVec 10) (b : BSrc)
  | vsel (g : Guard) (ty : Ty) (vd va : BitVec 10) (b : BSrc)
  | vrcp (g : Guard) (ty : FTy) (r : Rnd) (vd va : BitVec 10)
  | vrsq (g : Guard) (ty : FTy) (r : Rnd) (vd va : BitVec 10)
  | vsqrt (g : Guard) (ty : FTy) (r : Rnd) (vd va : BitVec 10)
  | vexp2 (g : Guard) (ty : FTy) (r : Rnd) (vd va : BitVec 10)
  | vlog2 (g : Guard) (ty : FTy) (r : Rnd) (vd va : BitVec 10)
  | vtanh (g : Guard) (ty : FTy) (r : Rnd) (vd va : BitVec 10)
  | vsigm (g : Guard) (ty : FTy) (r : Rnd) (vd va : BitVec 10)
  | vsin (g : Guard) (ty : FTy) (r : Rnd) (vd va : BitVec 10)
  | vcos (g : Guard) (ty : FTy) (r : Rnd) (vd va : BitVec 10)
  | viadd (g : Guard) (ty : ITy) (sat : Bool) (vd va : BitVec 10) (b : BSrc)
  | visub (g : Guard) (ty : ITy) (sat : Bool) (vd va : BitVec 10) (b : BSrc)
  | vimul (g : Guard) (ty : ITy) (sat : Bool) (vd va : BitVec 10) (b : BSrc)
  | vand (g : Guard) (ty : ITy) (vd va : BitVec 10) (b : BSrc)
  | vor (g : Guard) (ty : ITy) (vd va : BitVec 10) (b : BSrc)
  | vxor (g : Guard) (ty : ITy) (vd va : BitVec 10) (b : BSrc)
  | vshl (g : Guard) (ty : ITy) (vd va : BitVec 10) (b : BSrc)
  | vshr (g : Guard) (ty : ITy) (vd va : BitVec 10) (b : BSrc)
  | vsra (g : Guard) (ty : ITy) (vd va : BitVec 10) (b : BSrc)
  | vimin (g : Guard) (ty : ITy) (vd va : BitVec 10) (b : BSrc)
  | vimax (g : Guard) (ty : ITy) (vd va : BitVec 10) (b : BSrc)
  | vicmp (g : Guard) (c : ICond) (ty : ITy) (vd va : BitVec 10) (b : BSrc)
  | vcvt (g : Guard) (dst src : CvtFmt) (r : Rnd) (h : Bool) (vd va : BitVec 10)
  | vfxc (g : Guard) (vd va : BitVec 10)
  | vfxa (g : Guard) (vd va : BitVec 10) (b : BFx)
  | vfxf (g : Guard) (r : Rnd) (vd va : BitVec 10)
  | vrsum (g : Guard) (ty : Ty) (r : Rnd) (sat : Bool) (vd va : BitVec 10)
  | vrmax (g : Guard) (ty : Ty) (vd va : BitVec 10)
  | vrmin (g : Guard) (ty : Ty) (vd va : BitVec 10)
  | vperm (g : Guard) (ty : Ty) (vd va : BitVec 10) (b : BSrc)
  | vbcast (g : Guard) (ty : Ty) (vd va : BitVec 10) (lane : BitVec 6)
  | vrot (g : Guard) (ty : Ty) (vd va : BitVec 10) (k : BitVec 6)
  | vladd (g : Guard) (ty : FTy) (r : Rnd) (vd va : BitVec 10) (slot : BitVec 3)
  | vfxl (g : Guard) (vd va : BitVec 10) (slot : BitVec 3)
  | vaddi (p : BitVec 3) (vd va : BitVec 10) (imm : BitVec 20)
  | vmuli (p : BitVec 3) (vd va : BitVec 10) (imm : BitVec 20)
  | vfmhi (p : BitVec 3) (vd va : BitVec 10) (imm : BitVec 20)
  | vmini (p : BitVec 3) (vd va : BitVec 10) (imm : BitVec 20)
  | vmaxi (p : BitVec 3) (vd va : BitVec 10) (imm : BitVec 20)
  | viaddi (p : BitVec 3) (vd va : BitVec 10) (imm : BitVec 20)
  | vandi (p : BitVec 3) (vd va : BitVec 10) (imm : BitVec 20)
  | vshli (p : BitVec 3) (vd va : BitVec 10) (imm : BitVec 5)
  | vli (p : BitVec 3) (vd : BitVec 10) (imm : BitVec 20)
  | vmov (g : Guard) (ty : Ty) (vd : BitVec 10) (b : BSrc)
  -- CORE matrix words and moves (spec/07)
  | mma (g : Guard) (fmt : MFmt) (mode : MMode) (tb : Bool) (ovr : MOvr) (md : BitVec 5) (a : MmaA) (sb : BitVec 4) (bdisp : BitVec 10)
  | mzero (g : Guard) (md : BitVec 5)
  | mtrn (g : Guard) (md ma : BitVec 5)
  | vgetl (g : Guard) (cvt : Cvt) (v : BitVec 10) (slot : BitVec 3)
  | vputl (g : Guard) (cvt : Cvt) (slot : BitVec 3) (v : BitVec 10)
  | fldv (g : Guard) (cvt : Cvt) (v : BitVec 10) (s : BitVec 4) (disp : BitVec 13)
  | fstv (g : Guard) (cvt : Cvt) (s : BitVec 4) (disp : BitVec 13) (v : BitVec 10)
  | fldm (g : Guard) (cvt : Cvt) (m : BitVec 5) (s : BitVec 4) (disp : BitVec 13)
  | fstm (g : Guard) (cvt : Cvt) (s : BitVec 4) (disp : BitVec 13) (m : BitVec 5)
  -- AGEN words (spec/09); a coordinate field of `none` is the whole register
  | amov (ad aa : BitVec 4) (fld : Option (BitVec 2))
  | aaddi (ad aa : BitVec 4) (fld : Option (BitVec 2)) (imm : BitVec 28)
  | asetf (ad : BitVec 4) (fld : Option (BitVec 2)) (imm : BitVec 28)
  | aincf (ad : BitVec 4) (fld : Option (BitVec 2)) (imm : BitVec 28)
  | aadd (ad aa ab : BitVec 4) (fld : Option (BitVec 2))
  | acol (set aa : BitVec 4) (scatter : Bool) (sdim : BitVec 2)
  | feed (q : BitVec 2) (f : Xfer)
  | drain (q5 : Bool) (f : Xfer)
  | fillf (al : BitVec 4) (set : BitVec 4) (f : Xfer)
  | spillf (al : BitVec 4) (set : BitVec 4) (f : Xfer)
  | tld (al : BitVec 4) (set : BitVec 4) (f : Xfer)
  | tst (al : BitVec 4) (set : BitVec 4) (f : Xfer)
  | kbld (n : BitVec 9) (set : BitVec 4) (f : Xfer)
  | tdesc (slot : BitVec 4) (f : Xfer)
  | pref (f : Xfer)
  | atadd (a : Atom)
  | atcas (a : Atom)
  | atxch (a : Atom)
  | atmax (a : Atom)
  | atmin (a : Atom)
  | atand (a : Atom)
  | ator (a : Atom)
  | atfadd (a : Atom)
  | arow (ad : BitVec 4) (col : BitVec 6) (v : BitVec 10) (quad : BitVec 3) (tok : Bool)
  -- XCHG words (spec/09)
  | send (m : Xmsg)
  | xwr (m : Xmsg)
  | xrd (m : Xmsg)
  | xat (m : Xmsg)
  | recv (d : RDst) (atag : BitVec 4)
  | rcancel (d : RDst) (atag : BitVec 4)
  | rate (crt : BitVec 3) (k : BitVec 5) (m : BitVec 4) (rty : Bool) (ddl : BitVec 10)
  -- steps of strands and the weaver (spec/95, spec/14)
  | strandCycle (k : StrandKey)
  | replayRestart (k : StrandKey)
  | stallRelease (k : StrandKey)
  | stallTimeout (k : StrandKey)
  | weaveFrameBoundary (part : Nat)
  | energyPeriodStart
  | rephasePoint (k : StrandKey)
  -- steps of the engines
  | agenCommandPerform (a : AgentKey)
  | xchgCommandPerform (a : AgentKey) (seq : Nat)
  | overlayLoadComplete (a : AgentKey)
  | launchEnd (k : StrandKey)
  | shadowMismatch (a : AgentKey) (e : Eng) (t : Nat)
  -- steps of the fabric (spec/16)
  | fragmentSend (part plane cls : Nat)
  | fabricQuotaWindow
  | fragmentReceive (plane : Nat) (f : Frag)
  | fragmentForward (port : Nat) (f : Frag)
  | messageDelivery (key : MKey)
  | slotDeadlineExpiry (key : MKey)
  | resendRequestReceive (f : Frag)
  | resendWaitExpiry (key : MKey)
  | reportReceive (f : Frag)
  | reportDeadlineExpiry (a : AgentKey) (seq : Nat)
  | accessionEntryExpiry (key : MKey)
  | fdelayRelease (plane : Nat)
  | timeSyncBeat (offset : BitVec 32)
  | portStateChange (port : Nat) (gen : BitVec 2)
  -- tests, eviction, engine service
  | inFieldTestFailure (quad : Nat)
  | evictGraceExpiry (k : StrandKey)
  | evictionSave (k : StrandKey)
  | readmission (k : StrandKey) (anyphase move : Bool)
  | engineResume (a : AgentKey) (xchg : Bool)
  | textStoreRewrite (a : AgentKey) (bank : Bool) (idx : BitVec 14) (w : Word)
  | engineWedge (a : AgentKey) (xchg : Bool)
  -- memories
  | scrubLine (m : MemId) (line : Nat)
  | memstatWrite (m : MemId) (v : BitVec 32)
  | bankDrop (part : Nat) (bank : BitVec 8)
  | migwmWrite (part : Nat) (v : Word)
  | migrationLineCopy (part : Nat)
  -- host access
  | hostMemoryAccess (part : Nat) (addr : Nat) (wr : Bool) (data : HostData)
  | hostBudgetRefill
  | hostLinkRequest (part : Nat) (kind : LinkReq) (bytes : Nat)
  | pgrespRetry (entry : BitVec 10)
  | pgrespRefuse (entry : BitVec 10)
  | pgrespCancel (entry : BitVec 10)
  | notify (vcp : Nat)
  | eventDispatch
  | statusRead (vcp : Nat)
  | ftailWrite (vcp : Nat) (v : Word)
  | s2inv (vcp : Nat)
  | fqWrite (part plane : Nat) (v : Word)
  | registerWrite (r : RegName) (v : Word)
  -- packets (spec/19 R302)
  | launch (rec : Word)
  | ib (iova len : Word)
  | waitmem (c : WCond) (addr val mask : Word)
  | waitmemRetry (vcp : Nat)
  | packetRepeat (iters : BitVec 16) (pkts : BitVec 8)
  | ffence
  | signal (fabric fence : Bool) (addr addend : Word)
  | cancel (level : CLevel) (id : Word)
  | rephase (strand : BitVec 4) (scode : BitVec 3) (phase : BitVec 4) (move : Bool)
  | evict (strand : BitVec 4) (grace : BitVec 16) (area size : Word)
  | resume (strand : BitVec 4) (mode : BitVec 2)
  | resync (addr size : Word)
  -- management (spec/20)
  | mgmtResync
  | layoutRead
  | layoutCommit (l : List LayoutEntry)
  | powerSet (uj : Nat)
  | test (quad : Nat)
  | reset
  | watchdogReset
  | spdmMeasurements
  | pldmSensorRead
  | overtemp100
  | tempRecover95
  | overtemp110
  | inFieldTestPass (quad : Nat)
  deriving DecidableEq, Repr

end Sys2Proof
end

