-- ==== Sys2Proof/WellFormed.lean ====
section
/-! DEFINITION. Which instructions an encoding of spec/02 R55 may carry: the limits of R38–R47 and of each instruction's
own description (R56). `Instr.check` names the illegal-word cause of spec/18 R286 kind 1. -/

namespace Sys2Proof

/-- The causes of kind 1, illegal word, in the order of their codes 0x01 to 0x0F (spec/18 R286). -/
inductive Illegal where
  | reservedEngine
  | unassignedOpcode
  | zeroRange
  | reservedValue
  | notAccepted
  | reservedQueue
  | literalMisuse
  | controlInKernel
  | startMisplaced
  | leaveOutsideKernel
  | overlayNotPrefetched
  | overlayInCall
  | arrayBusy
  | notReplayable
  | textUncorrectable
  deriving DecidableEq, Repr

/-- The cause code (spec/18 R286). -/
def Illegal.code : Illegal → Nat
  | .reservedEngine => 1 | .unassignedOpcode => 2 | .zeroRange => 3 | .reservedValue => 4 | .notAccepted => 5
  | .reservedQueue => 6 | .literalMisuse => 7 | .controlInKernel => 8 | .startMisplaced => 9
  | .leaveOutsideKernel => 10 | .overlayNotPrefetched => 11 | .overlayInCall => 12 | .arrayBusy => 13
  | .notReplayable => 14 | .textUncorrectable => 15

/-- `none` if `c` holds, else the cause. -/
def need (c : Bool) (e : Illegal) : Option Illegal := if c then none else some e

/-- A queue field: q14 and q15 are reserved, and the instruction takes the queues of `ok` (R56, R71). That
a reserved queue is named comes before any other cause of the field, also where the value is reserved there (R47, log 96: DESIGN CHOICE). -/
def needQ (q : BitVec 4) (ok : List Nat) : Option Illegal :=
  if q.toNat = 14 ∨ q.toNat = 15 then some .reservedQueue else need (ok.contains q.toNat) .notAccepted

/-- A destination predicate names p8–p15 (R45). -/
def needPd (pd : BitVec 4) : Option Illegal := need (8 ≤ pd.toNat) .notAccepted

/-- A source predicate of a C6 word names p0 or p8–p15 (R45). -/
def needPs (p : BitVec 4) : Option Illegal := need (p.toNat = 0 ∨ 8 ≤ p.toNat) .notAccepted

/-- A shift amount given as an immediate lies in 0–31 (R114). -/
def needSh : SSrc → Option Illegal
  | .reg _ => none
  | .imm i => need (i.toNat ≤ 31) .notAccepted

/-- The flag register of a queue word: x0 in stall mode (R71). -/
def needStallX0 (stall : Bool) (xd : BitVec 4) : Option Illegal := need (!stall || xd == 0) .notAccepted

/-- Lane numbers of VBCAST and VROT under a 32-bit type (R131). -/
def needLane (ty : Ty) (n : BitVec 6) : Option Illegal :=
  match ty with
  | .f32 | .i32 => need (n.toNat < 32) .notAccepted
  | .bf16 | .i16 => none

/-- The slots a move accepts (R155). -/
def needSlot (c : Cvt) (s : BitVec 3) : Option Illegal :=
  match c with
  | .raw | .f32 | .i32 => need (s.toNat % 4 = 0) .notAccepted
  | .bf16 => need (s.toNat % 2 = 0) .notAccepted
  | .m8 | .i8 => none

/-- Element width of a VCVT format in bits (R128). -/
def CvtFmt.width : CvtFmt → Nat
  | .f32 | .i32 => 32
  | .bf16 | .i16 => 16
  | .m8 | .i8 => 8

/-- Whether R128 gives a half selector for this pair of formats. -/
def cvtHalf (dst src : CvtFmt) : Bool :=
  match src.width, dst.width with
  | 32, 16 | 16, 32 | 32, 8 | 8, 32 | 8, 8 => true
  | _, _ => false

/-- The limits of an A3 word (R47, R184). -/
def Atom.check (a : Atom) (cas : Bool) : Option Illegal :=
  (need (a.wid ≠ .w128 || a.aop.toNat % 2 = 0) .reservedValue).or
    ((need (cas || a.ret || a.ad == 0) .notAccepted).or
      (need (!(cas || a.ret) || a.wid ≠ .w128 || a.ad.toNat % 2 = 0) .notAccepted))

/-- The limits of an X1 word (R47, R187). -/
def Xmsg.check (m : Xmsg) (mcOk : Bool) (one : Bool) : Option Illegal :=
  (need (1 ≤ m.len64.toNat ∧ m.len64.toNat ≤ 128) .reservedValue).or
    ((need (mcOk || !m.mc) .notAccepted).or (need (!one || m.len64 == 1) .notAccepted))

/-- The illegal-word cause of an instruction whose fields exceed its limits, `none` for a well-formed one. (log 14: DEDUCED) -/
def Instr.check : Instr → Option Illegal
  | .br c _ xb _ | .call c _ xb _ => need (c ≠ .always || xb == 0) .notAccepted
  | .bq q t _ => (needQ q (List.range 14)).or
      (match t with
        | .pois | .clean => need ([0, 1, 2, 3, 4, 5, 12, 13].contains q.toNat) .notAccepted
        | .empty | .nempty | .full => none)
  | .repeat_ xa ip cnt st len =>
      (need (ip ≠ 0 && st ≠ 0 && st.toNat ≤ 8 && len ≠ 0) .reservedValue).or
        (need (xa == 0 || cnt == 0) .reservedValue)
  | .inj q s xd => (needStallX0 s xd).or (needQ q [0, 1, 2, 3, 12, 13])
  | .cap q s xd => (needStallX0 s xd).or (needQ q [4, 5])
  | .popt q s xd => (needStallX0 s xd).or (needQ q [8, 10])
  | .pusht q s xd => (needStallX0 s xd).or (needQ q [9, 11])
  | .qpop q s xd => (need (s || (xd.toNat % 2 = 0 && 2 ≤ xd.toNat)) .notAccepted).or (needQ q [6, 7])
  | .qstat q _ => needQ q (List.range 14)
  | .waittc _ f _ xd => need (f || xd == 0) .notAccepted
  | .rotset _ t => need (t.toNat ≤ 32) .notAccepted
  | .getsys _ sel => need (sel.toNat ≤ 9) .notAccepted
  | .sshl _ _ _ b | .sshr _ _ _ b | .ssra _ _ _ b => needSh b
  | .scmp _ _ pd _ _ | .vany _ pd _ | .vall _ pd _ => needPd pd
  | .pand _ pd pa pb | .por _ pd pa pb | .pxor _ pd pa pb => (needPd pd).or ((needPs pa).or (needPs pb))
  | .pnot _ pd pa => (needPd pd).or (needPs pa)
  | .vcvt _ dst src r h _ _ =>
      (need (dst ≠ src) .notAccepted).or
        ((need (!h || cvtHalf dst src) .notAccepted).or (need (dst ≠ .m8 || r == .fpc) .notAccepted))
  | .vrsum _ ty r sat _ _ =>
      match ty with
      | .f32 | .bf16 => need (!sat) .notAccepted
      | .i32 | .i16 => need (r == .fpc) .notAccepted
  | .vbcast _ ty _ _ n | .vrot _ ty _ _ n => needLane ty n
  | .mma _ fmt _ _ ovr _ a _ _ =>
      match fmt, ovr, a with
      | .i8, .largest, .lane | .i8, .largest, .folio _ | .i8, .poison, .lane | .i8, .poison, .folio _ => some .notAccepted
      | _, _, _ => none
  | .vgetl _ c _ s | .vputl _ c s _ => needSlot c s
  | .fldv _ c _ _ _ | .fstv _ c _ _ _ => need (c ≠ .m8) .notAccepted
  | .asetf _ f imm => need (f.isNone || imm.toNat < 65536) .notAccepted
  | .tdesc slot f =>
      need (slot ≠ 0 && f.td == 0 && f.nm1 == 0 && f.step == 0 && f.sdim == 0 && f.pri == 0) .notAccepted
  | .atadd a | .atxch a | .atmax a | .atmin a | .atand a | .ator a => a.check false
  | .atcas a => a.check true
  | .atfadd a => (a.check false).or (need (a.wid == .w32) .notAccepted)
  | .arow ad col _ _ _ => need (ad.toNat % 2 = 0 && col.toNat ≤ 47) .reservedValue
  | .send m | .xwr m => m.check true false
  | .xrd m => m.check false false
  | .xat m => m.check false true
  | .rate _ k m _ ddl =>
      need (1 ≤ k.toNat && k.toNat ≤ 16 && m.toNat ≤ 8 && ddl ≠ 0) .reservedValue
  | _ => none

/-- Well-formed: no limit of spec/02 or of the instruction's description is exceeded. -/
def Instr.wf (i : Instr) : Bool := i.check.isNone

end Sys2Proof
end

