-- ==== Sys2Proof/Decode.lean ====
section
/-! DEFINITION. Decoding and encoding of instruction words (spec/02 R33–R47, R55), of the packets of a command ring
(spec/19 R302), and of layout and launch-record bit fields' helpers. Bodies are read and written by one list of field
widths for each format, from the most significant field down, as the spec's tables list them. -/

namespace Sys2Proof

/-! ### Fields -/

/-- Total width of a layout. -/
def widthSum (ws : List Nat) : Nat := ws.foldr (· + ·) 0

/-- The fields of a number under a layout, most significant first. -/
def unpack : List Nat → Nat → List Nat
  | [], _ => []
  | w :: ws, n => n / 2 ^ widthSum ws % 2 ^ w :: unpack ws n

/-- The number whose fields under a layout are given, most significant first; each value is cut to its width. -/
def pack : List (Nat × Nat) → Nat
  | [] => 0
  | (w, v) :: fs => v % 2 ^ w * 2 ^ widthSum (fs.map (·.1)) + pack fs

/-- A field as a bit vector. -/
abbrev bv (w n : Nat) : BitVec w := BitVec.ofNat w n

def layS1 : List Nat := [4, 4, 4, 31]
def layS2 : List Nat := [4, 4, 35]
def layS3 : List Nat := [4, 4, 4, 11, 20]
def layS4 : List Nat := [4, 1, 4, 34]
def layS5 : List Nat := [4, 3, 16, 20]
def layS6 : List Nat := [4, 10, 12, 4, 13]
def layS7 : List Nat := [3, 4, 4, 1, 31]
def layYield : List Nat := [3, 4, 4, 32]
def layC1 : List Nat := [1, 4, 10, 10, 10, 2, 3, 1, 2]
def layC2 : List Nat := [3, 10, 10, 20]
def layC3 : List Nat := [1, 4, 4, 4, 1, 29]
def layC4 : List Nat := [1, 4, 5, 2, 5, 4, 10, 2, 2, 1, 2, 5]
def layC5 : List Nat := [1, 4, 10, 4, 13, 3, 3, 5]
def layC6 : List Nat := [1, 4, 4, 4, 4, 4, 4, 3, 10, 5]
def layA1 : List Nat := [4, 4, 4, 3, 28]
def layA2 : List Nat := [4, 4, 4, 8, 4, 2, 13, 2, 1, 1]
def layA3 : List Nat := [4, 4, 4, 4, 1, 2, 1, 1, 1, 1, 20]
def layA4 : List Nat := [4, 6, 10, 3, 1, 19]
def layX1 : List Nat := [4, 4, 4, 3, 8, 1, 3, 1, 1, 14]
def layX2 : List Nat := [4, 4, 4, 31]
def layX3 : List Nat := [3, 5, 4, 1, 10, 20]

/-- Result of reading a word: an instruction or the cause for which it is none. -/
abbrev Dec (α : Type) := Except Illegal α

/-- Bits the format shows as 0 (R34). -/
def zero (n : Nat) : Dec Unit := if n = 0 then .ok () else .error .zeroRange

/-- A field the instruction does not use (R38, R113). -/
def unused (n : Nat) : Dec Unit := if n = 0 then .ok () else .error .notAccepted

/-- A reading of a code, or the cause. -/
def orErr {α : Type} (o : Option α) (e : Illegal) : Dec α :=
  match o with
  | some a => .ok a
  | none => .error e

/-- A one-bit field. -/
def bit (n : Nat) : Bool := n == 1

/-! ### Codes (R39, R43, R44, R47) -/

def BrCond.ofCode : Nat → Option BrCond
  | 0 => some .always | 1 => some .z | 2 => some .nz | 3 => some .neg | 4 => some .nneg
  | 5 => some .eq | 6 => some .ne | 7 => some .lt | 8 => some .ltu | _ => none

def BrCond.code : BrCond → Nat
  | .always => 0 | .z => 1 | .nz => 2 | .neg => 3 | .nneg => 4 | .eq => 5 | .ne => 6 | .lt => 7 | .ltu => 8

def QTest.ofCode : Nat → Option QTest
  | 0 => some .empty | 1 => some .nempty | 2 => some .full | 3 => some .pois | 4 => some .clean | _ => none

def QTest.code : QTest → Nat
  | .empty => 0 | .nempty => 1 | .full => 2 | .pois => 3 | .clean => 4

def Rnd.ofCode : Nat → Option Rnd
  | 0 => some .fpc | 1 => some .rne | 2 => some .rtz | 3 => some .rdn | 4 => some .rup | 5 => some .rna | _ => none

def Rnd.code : Rnd → Nat
  | .fpc => 0 | .rne => 1 | .rtz => 2 | .rdn => 3 | .rup => 4 | .rna => 5

def Ty.ofCode : Nat → Option Ty
  | 0 => some .f32 | 1 => some .i32 | 2 => some .bf16 | 3 => some .i16 | _ => none

def Ty.code : Ty → Nat
  | .f32 => 0 | .i32 => 1 | .bf16 => 2 | .i16 => 3

def FTy.ofCode : Nat → Option FTy
  | 0 => some .f32 | 2 => some .bf16 | _ => none

def FTy.code : FTy → Nat
  | .f32 => 0 | .bf16 => 2

def ITy.ofCode : Nat → Option ITy
  | 1 => some .i32 | 3 => some .i16 | _ => none

def ITy.code : ITy → Nat
  | .i32 => 1 | .i16 => 3

def Cond.ofCode : Nat → Option Cond
  | 0 => some .eq | 1 => some .ne | 2 => some .lt | 3 => some .le | 4 => some .gt | 5 => some .ge
  | 6 => some .un | 7 => some .or | _ => none

def Cond.code : Cond → Nat
  | .eq => 0 | .ne => 1 | .lt => 2 | .le => 3 | .gt => 4 | .ge => 5 | .un => 6 | .or => 7

def ICond.ofCode : Nat → Option ICond
  | 0 => some .eq | 1 => some .ne | 2 => some .lt | 3 => some .le | 4 => some .gt | 5 => some .ge | _ => none

def ICond.code : ICond → Nat
  | .eq => 0 | .ne => 1 | .lt => 2 | .le => 3 | .gt => 4 | .ge => 5

def SgetSel.ofCode : Nat → Option SgetSel
  | 0 => some .col | 1 => some .row | 2 => some .strand | 3 => some .part | 4 => some .fst | 5 => some .fstc | _ => none

def SgetSel.code : SgetSel → Nat
  | .col => 0 | .row => 1 | .strand => 2 | .part => 3 | .fst => 4 | .fstc => 5

def CvtFmt.ofCode : Nat → Option CvtFmt
  | 0 => some .f32 | 1 => some .i32 | 2 => some .bf16 | 3 => some .i16 | 4 => some .m8 | 5 => some .i8 | _ => none

def CvtFmt.code : CvtFmt → Nat
  | .f32 => 0 | .i32 => 1 | .bf16 => 2 | .i16 => 3 | .m8 => 4 | .i8 => 5

def MFmt.ofCode : Nat → Option MFmt
  | 0 => some .m8 | 1 => some .i8 | 2 => some .bf16 | _ => none

def MFmt.code : MFmt → Nat
  | .m8 => 0 | .i8 => 1 | .bf16 => 2

def MMode.ofCode : Nat → Option MMode
  | 0 => some .acc | 1 => some .ovw | 2 => some .sub | _ => none

def MMode.code : MMode → Nat
  | .acc => 0 | .ovw => 1 | .sub => 2

def MOvr.ofCode : Nat → Option MOvr
  | 0 => some .table | 1 => some .largest | 2 => some .poison | _ => none

def MOvr.code : MOvr → Nat
  | .table => 0 | .largest => 1 | .poison => 2

def Cvt.ofCode : Nat → Option Cvt
  | 0 => some .raw | 1 => some .m8 | 2 => some .bf16 | 3 => some .i8 | 4 => some .f32 | 5 => some .i32 | _ => none

def Cvt.code : Cvt → Nat
  | .raw => 0 | .m8 => 1 | .bf16 => 2 | .i8 => 3 | .f32 => 4 | .i32 => 5

def AWid.ofCode : Nat → Option AWid
  | 0 => some .w32 | 1 => some .w64 | 2 => some .w128 | _ => none

def AWid.code : AWid → Nat
  | .w32 => 0 | .w64 => 1 | .w128 => 2

/-- A1 fld: 0–3 a coordinate field, 7 the whole register, 4–6 reserved (R47). -/
def fldOfCode : Nat → Option (Option (BitVec 2))
  | 0 => some (some 0) | 1 => some (some 1) | 2 => some (some 2) | 3 => some (some 3) | 7 => some none | _ => none

def fldCode : Option (BitVec 2) → Nat
  | none => 7
  | some d => d.toNat

/-! ### SEQ bodies -/

def readS1 (op body : Nat) : Dec Instr :=
  match unpack layS1 body with
  | [xd, xa, xb, z] => do
    zero z
    let (d, a, b) := (bv 4 xd, bv 4 xa, bv 4 xb)
    match op with
    | 0x10 => return .xadd d a b
    | 0x11 => return .xsub d a b
    | 0x12 => return .xmul d a b
    | 0x13 => return .xand d a b
    | 0x14 => return .xor_ d a b
    | 0x15 => return .xxor d a b
    | 0x16 => return .xshl d a b
    | 0x17 => return .xshr d a b
    | 0x18 => return .xsra d a b
    | 0x19 => return .xmin d a b
    | 0x1A => return .xmax d a b
    | 0x1B => return .xcmp d a b
    | 0x48 => do unused xb; return .xtoa d a
    | 0x49 => do unused xb; return .atox d a
    | 0x52 => do unused xd; unused xb; return .setfpc a
    | 0x53 => do unused xd; unused xb; return .setovf a
    | _ => .error .unassignedOpcode
  | _ => .error .unassignedOpcode

def readS2 (op body : Nat) (lits : List (BitVec 32)) : Dec Instr :=
  match unpack layS2 body with
  | [xd, xa, imm] =>
    let (d, a, i) := (bv 4 xd, bv 4 xa, bv 35 imm)
    match op with
    | 0x05 => do unused xd; return .ovlyp a i
    | 0x20 => return .xaddi d a i
    | 0x21 => return .xandi d a i
    | 0x22 => return .xori d a i
    | 0x23 => return .xxori d a i
    | 0x24 => do unused (imm / 64); return .xshli d a (bv 6 imm)
    | 0x25 => do unused (imm / 64); return .xshri d a (bv 6 imm)
    | 0x26 => do unused (imm / 64); return .xsrai d a (bv 6 imm)
    | 0x27 => do unused xa; return .xli d i
    | 0x28 => do
      unused xa; unused imm
      match lits with
      | lo :: hi :: _ => return .xlil d (hi ++ lo)
      | _ => .error .literalMisuse
    | 0x38 => if xd ≤ 1 then return .lds (bit xd) a i else .error .notAccepted
    | 0x39 => return .sts d a i
    | 0x50 => do unused xd; unused xa; unused (imm / 2 ^ 16); return .rotset (bv 10 imm) (bv 6 (imm / 1024))
    | 0x51 => do unused xa; unused (imm / 16); return .getsys d (bv 4 imm)
    | _ => .error .unassignedOpcode
  | _ => .error .unassignedOpcode

def readS3 (op body : Nat) : Dec Instr :=
  match unpack layS3 body with
  | [c, xa, xb, z, disp] => do
    zero z
    let c ← orErr (BrCond.ofCode c) .reservedValue
    match op with
    | 0x08 => return .br c (bv 4 xa) (bv 4 xb) (bv 20 disp)
    | 0x09 => return .call c (bv 4 xa) (bv 4 xb) (bv 20 disp)
    | _ => .error .unassignedOpcode
  | _ => .error .unassignedOpcode

def readS4 (op body : Nat) : Dec Instr :=
  match unpack layS4 body with
  | [q, s, xd, z] => do
    zero z
    let (q, st, d) := (bv 4 q, bit s, bv 4 xd)
    match op with
    | 0x30 => return .inj q st d
    | 0x31 => return .cap q st d
    | 0x32 => return .popt q st d
    | 0x33 => return .pusht q st d
    | 0x34 => return .qpop q st d
    | 0x35 => do unused s; return .qstat q d
    | _ => .error .unassignedOpcode
  | _ => .error .unassignedOpcode

def readS5 (body : Nat) : Dec Instr :=
  match unpack layS5 body with
  | [q, t, z, disp] => do
    zero z
    let t ← orErr (QTest.ofCode t) .reservedValue
    return .bq (bv 4 q) t (bv 20 disp)
  | _ => .error .unassignedOpcode

def readS6 (body : Nat) : Dec Instr :=
  match unpack layS6 body with
  | [xa, ip, cnt, st, len] => .ok (.repeat_ (bv 4 xa) (bv 10 ip) (bv 12 cnt) (bv 4 st) (bv 13 len))
  | _ => .error .unassignedOpcode

def readS7 (op body : Nat) : Dec Instr :=
  match unpack layS7 body with
  | [sel, xa, xd, f, arg] =>
    match op with
    | 0x04 => do
      unused (sel / 2); unused xa; unused xd; unused f; unused arg
      return .swap (bit sel)
    | 0x40 => do
      if sel = 1 ∨ sel = 2 then unused xa; unused xd; unused arg; return .phase (sel == 2) (bit f)
      else .error .reservedValue
    | 0x41 => do
      if sel ≤ 1 then unused arg; return .waittc (bit sel) (bit f) (bv 4 xa) (bv 4 xd)
      else .error .reservedValue
    | 0x42 => do
      if sel ≤ 3 then unused xa; unused f; unused arg; return .gettc (bv 4 xd) (bv 2 sel)
      else .error .reservedValue
    | _ => .error .unassignedOpcode
  | _ => .error .unassignedOpcode

def readYield (body : Nat) : Dec Instr :=
  match unpack layYield body with
  | [sel, xa, xd, mask] => do unused sel; unused xa; unused xd; return .yield (bv 32 mask)
  | _ => .error .unassignedOpcode

/-- S0 words: the whole body is zero. -/
def readS0 (op body : Nat) : Dec Instr := do
  zero body
  match op with
  | 0x00 => return .nop
  | 0x01 => return .start
  | 0x02 => return .halt
  | 0x06 => return .ovlys
  | 0x0A => return .ret
  | 0x0D => return .leave
  | _ => .error .unassignedOpcode

/-- The SEQ opcode map (R55). -/
def readSeq (op body : Nat) (lits : List (BitVec 32)) : Dec Instr :=
  match op with
  | 0x00 | 0x01 | 0x02 | 0x06 | 0x0A | 0x0D => readS0 op body
  | 0x03 => readYield body
  | 0x04 | 0x40 | 0x41 | 0x42 => readS7 op body
  | 0x05 | 0x20 | 0x21 | 0x22 | 0x23 | 0x24 | 0x25 | 0x26 | 0x27 | 0x28 | 0x38 | 0x39 | 0x50 | 0x51 => readS2 op body lits
  | 0x08 | 0x09 => readS3 op body
  | 0x0B => readS5 body
  | 0x0C => readS6 body
  | 0x30 | 0x31 | 0x32 | 0x33 | 0x34 | 0x35 => readS4 op body
  | 0x10 | 0x11 | 0x12 | 0x13 | 0x14 | 0x15 | 0x16 | 0x17 | 0x18 | 0x19 | 0x1A | 0x1B | 0x48 | 0x49 | 0x52 | 0x53 => readS1 op body
  | _ => .error .unassignedOpcode

/-! ### CORE bodies -/

/-- The B operand of a C1 word (R43): the bits above the used part of vb must be 0. -/
def readB (bsrc vb : Nat) (lits : List (BitVec 32)) : Dec BSrc :=
  match bsrc with
  | 0 => .ok (.row (bv 10 vb))
  | 1 => if vb < 256 then .ok (.kb (bv 8 vb)) else .error .reservedValue
  | 2 =>
    if vb = 0 then
      match lits with
      | w :: _ => .ok (.lit w)
      | [] => .error .literalMisuse
    else .error .reservedValue
  | _ => if vb < 8 then .ok (.slot (bv 3 vb)) else .error .reservedValue

/-- Reserved values in the bsrc, vb and rnd fields of a C1 word (R43): the compares take a condition for rnd (R44), and
VCVT, VBCAST and VROT an immediate for vb (R113). -/
def reservedC1 (op bs vb rnd : Nat) : Dec Unit :=
  if op ≠ 0x2A ∧ op ≠ 0x4B ∧ 6 ≤ rnd then .error .reservedValue
  else if op = 0x50 ∨ op = 0x5C ∨ op = 0x5D then .ok ()
  else if (bs = 1 ∧ 256 ≤ vb) ∨ (bs = 2 ∧ vb ≠ 0) ∨ (bs = 3 ∧ 8 ≤ vb) then .error .reservedValue else .ok ()

/-- A field that must hold a given value for this instruction (R113). -/
def isV (n v : Nat) : Dec Unit := if n = v then .ok () else .error .notAccepted

def readC1 (op body : Nat) (lits : List (BitVec 32)) : Dec Instr :=
  match unpack layC1 body with
  | [gn, gp, vd, va, vb, bs, rnd, sat, ty] => do
    reservedC1 op bs vb rnd
    let g : Guard := ⟨bit gn, bv 4 gp⟩
    let (d, a) := (bv 10 vd, bv 10 va)
    let fty := orErr (FTy.ofCode ty) .notAccepted
    let ity := orErr (ITy.ofCode ty) .notAccepted
    let tyA := orErr (Ty.ofCode ty) .notAccepted
    let rn := orErr (Rnd.ofCode rnd) .reservedValue
    let b := readB bs vb lits
    let noB : Dec Unit := do isV bs 0; isV vb 0
    let fp (f : Guard → FTy → Rnd → BitVec 10 → BitVec 10 → BSrc → Instr) : Dec Instr := do
      let r ← rn; let b ← b; let t ← fty; isV sat 0; return f g t r d a b
    let sf (f : Guard → FTy → Rnd → BitVec 10 → BitVec 10 → Instr) : Dec Instr := do
      let r ← rn; noB; let t ← fty; isV sat 0; return f g t r d a
    let isat (f : Guard → ITy → Bool → BitVec 10 → BitVec 10 → BSrc → Instr) : Dec Instr := do
      let b ← b; let t ← ity; isV rnd 0; return f g t (bit sat) d a b
    let iop (f : Guard → ITy → BitVec 10 → BitVec 10 → BSrc → Instr) : Dec Instr := do
      let b ← b; let t ← ity; isV rnd 0; isV sat 0; return f g t d a b
    match op with
    | 0x20 => fp .vadd
    | 0x21 => fp .vsub
    | 0x22 => fp .vmul
    | 0x23 => fp .vfma
    | 0x24 => fp .vfms
    | 0x25 => fp .vfmh
    | 0x26 => fp .vmin
    | 0x27 => fp .vmax
    | 0x28 => do noB; let t ← fty; isV rnd 0; isV sat 0; return .vabs g t d a
    | 0x29 => do noB; let t ← fty; isV rnd 0; isV sat 0; return .vneg g t d a
    | 0x2A => do
      let b ← b; let t ← fty; isV sat 0
      let c ← orErr (Cond.ofCode rnd) .reservedValue
      return .vcmp g c t d a b
    | 0x2B => do let b ← b; let t ← tyA; isV rnd 0; isV sat 0; return .vsel g t d a b
    | 0x30 => sf .vrcp
    | 0x31 => sf .vrsq
    | 0x32 => sf .vsqrt
    | 0x33 => sf .vexp2
    | 0x34 => sf .vlog2
    | 0x35 => sf .vtanh
    | 0x36 => sf .vsigm
    | 0x37 => sf .vsin
    | 0x38 => sf .vcos
    | 0x40 => isat .viadd
    | 0x41 => isat .visub
    | 0x42 => isat .vimul
    | 0x43 => iop .vand
    | 0x44 => iop .vor
    | 0x45 => iop .vxor
    | 0x46 => iop .vshl
    | 0x47 => iop .vshr
    | 0x48 => iop .vsra
    | 0x49 => iop .vimin
    | 0x4A => iop .vimax
    | 0x4B => do
      let b ← b; let t ← ity; isV sat 0
      let c ← orErr (ICond.ofCode rnd) .notAccepted
      return .vicmp g c t d a b
    | 0x50 => do
      let r ← rn
      isV ty 0; isV bs 0; isV sat 0; unused (vb / 512)
      let dst ← orErr (CvtFmt.ofCode (vb % 16)) .notAccepted
      let src ← orErr (CvtFmt.ofCode (vb / 16 % 16)) .notAccepted
      return .vcvt g dst src r (bit (vb / 256 % 2)) d a
    | 0x51 => do noB; isV ty 0; isV rnd 0; isV sat 0; return .vfxc g d a
    | 0x52 => do
      isV ty 1; isV rnd 0; isV sat 0
      match bs with
      | 0 => return .vfxa g d a (.row (bv 10 vb))
      | 3 => if vb < 8 then return .vfxa g d a (.slot (bv 3 vb)) else .error .reservedValue
      | _ => .error .notAccepted
    | 0x53 => do let r ← rn; noB; isV ty 0; isV sat 0; return .vfxf g r d a
    | 0x58 => do let r ← rn; noB; let t ← tyA; return .vrsum g t r (bit sat) d a
    | 0x59 => do noB; let t ← tyA; isV rnd 0; isV sat 0; return .vrmax g t d a
    | 0x5A => do noB; let t ← tyA; isV rnd 0; isV sat 0; return .vrmin g t d a
    | 0x5B => do let b ← b; let t ← tyA; isV rnd 0; isV sat 0; return .vperm g t d a b
    | 0x5C => do isV bs 0; unused (vb / 64); let t ← tyA; isV rnd 0; isV sat 0; return .vbcast g t d a (bv 6 vb)
    | 0x5D => do isV bs 0; unused (vb / 64); let t ← tyA; isV rnd 0; isV sat 0; return .vrot g t d a (bv 6 vb)
    | 0x5E => do
      let r ← rn
      isV bs 3; unused (vb / 8)
      let t ← fty; isV sat 0
      return .vladd g t r d a (bv 3 vb)
    | 0x5F => do isV bs 3; unused (vb / 8); isV ty 1; isV rnd 0; isV sat 0; return .vfxl g d a (bv 3 vb)
    | 0x69 => do let b ← b; unused va; let t ← tyA; isV rnd 0; isV sat 0; return .vmov g t d b
    | _ => .error .unassignedOpcode
  | _ => .error .unassignedOpcode

def readC2 (op body : Nat) : Dec Instr :=
  match unpack layC2 body with
  | [p, vd, va, imm] =>
    let (p, d, a, i) := (bv 3 p, bv 10 vd, bv 10 va, bv 20 imm)
    match op with
    | 0x60 => return .vaddi p d a i
    | 0x61 => return .vmuli p d a i
    | 0x62 => return .vfmhi p d a i
    | 0x63 => return .vmini p d a i
    | 0x64 => return .vmaxi p d a i
    | 0x65 => return .viaddi p d a i
    | 0x66 => return .vandi p d a i
    | 0x67 => do unused (imm / 32); return .vshli p d a (bv 5 imm)
    | 0x68 => do unused va; return .vli p d i
    | _ => .error .unassignedOpcode
  | _ => .error .unassignedOpcode

def readC3 (op body : Nat) (lits : List (BitVec 32)) : Dec Instr :=
  match unpack layC3 body with
  | [gn, gp, sd, sa, im, low] =>
    let g : Guard := ⟨bit gn, bv 4 gp⟩
    let (d, a) := (bv 4 sd, bv 4 sa)
    let ar (f : Guard → BitVec 4 → BitVec 4 → SSrc → Instr) : Dec Instr :=
      if im = 1 then return f g d a (.imm (bv 29 low))
      else do zero (low % 2 ^ 25); return f g d a (.reg (bv 4 (low / 2 ^ 25)))
    match op with
    | 0x00 => ar .sadd
    | 0x01 => ar .ssub
    | 0x02 => ar .smul
    | 0x03 => ar .sand
    | 0x04 => ar .sor
    | 0x05 => ar .sxor
    | 0x06 => ar .sshl
    | 0x07 => ar .sshr
    | 0x08 => ar .ssra
    | 0x09 => ar .smin
    | 0x0A => ar .smax
    | 0x0B => do
      if im = 0 then zero (low % 2 ^ 25); unused (low / 2 ^ 25); return .smovx g d a
      else .error .notAccepted
    | 0x0C => do
      if im = 0 then zero (low % 2 ^ 25)
      isV im 1; unused sa
      let s ← orErr (SgetSel.ofCode low) .notAccepted
      return .sget g d s
    | 0x0D => do
      if im = 1 then unused sa; return .sli g d (.imm (bv 29 low))
      else do
        zero (low % 2 ^ 25); unused sa; unused (low / 2 ^ 25)
        match lits with
        | w :: _ => return .sli g d (.lit w)
        | [] => .error .literalMisuse
    | _ => .error .unassignedOpcode
  | _ => .error .unassignedOpcode

def readC4 (op body : Nat) : Dec Instr :=
  match unpack layC4 body with
  | [gn, gp, md, asrc, ma, sb, bd, fmt, mode, tb, ovr, z] => do
    zero z
    let g : Guard := ⟨bit gn, bv 4 gp⟩
    if fmt = 3 ∨ mode = 3 ∨ ovr = 3 ∨ asrc = 3 then .error .reservedValue
    else match op with
    | 0x80 => do
      let f ← orErr (MFmt.ofCode fmt) .reservedValue
      let mo ← orErr (MMode.ofCode mode) .reservedValue
      let o ← orErr (MOvr.ofCode ovr) .reservedValue
      let a : MmaA ← match asrc with
        | 0 => if ma = 0 then pure MmaA.lane else .error .reservedValue
        | 1 => pure (MmaA.tile (bv 5 ma))
        | 2 => if ma < 16 then pure (MmaA.folio (bv 4 ma)) else .error .reservedValue
        | _ => .error .reservedValue
      return .mma g f mo (bit tb) o (bv 5 md) a (bv 4 sb) (bv 10 bd)
    | 0x81 => do
      unused asrc; unused ma; unused sb; unused bd; unused fmt; unused mode; unused tb; unused ovr
      return .mzero g (bv 5 md)
    | 0x82 => do
      unused asrc; unused sb; unused bd; unused fmt; unused mode; unused tb; unused ovr
      return .mtrn g (bv 5 md) (bv 5 ma)
    | _ => .error .unassignedOpcode
  | _ => .error .unassignedOpcode

def readC5 (op body : Nat) : Dec Instr :=
  match unpack layC5 body with
  | [gn, gp, v, s, disp, slot, cvt, z] => do
    zero z
    zero (if op = 0x94 ∨ op = 0x95 then v % 32 else 0)
    let g : Guard := ⟨bit gn, bv 4 gp⟩
    let c ← orErr (Cvt.ofCode cvt) .reservedValue
    match op with
    | 0x90 => do unused s; unused disp; return .vgetl g c (bv 10 v) (bv 3 slot)
    | 0x91 => do unused s; unused disp; return .vputl g c (bv 3 slot) (bv 10 v)
    | 0x92 => do unused slot; return .fldv g c (bv 10 v) (bv 4 s) (bv 13 disp)
    | 0x93 => do unused slot; return .fstv g c (bv 4 s) (bv 13 disp) (bv 10 v)
    | 0x94 => do unused slot; return .fldm g c (bv 5 (v / 32)) (bv 4 s) (bv 13 disp)
    | 0x95 => do unused slot; return .fstm g c (bv 4 s) (bv 13 disp) (bv 5 (v / 32))
    | _ => .error .unassignedOpcode
  | _ => .error .unassignedOpcode

def readC6 (op body : Nat) : Dec Instr :=
  match unpack layC6 body with
  | [gn, gp, pd, pa, pb, sa, sb, c, va, z] => do
    zero z
    let g : Guard := ⟨bit gn, bv 4 gp⟩
    let d := bv 4 pd
    match op with
    | 0x10 => do
      unused pa; unused pb; unused va
      let c ← orErr (ICond.ofCode c) .notAccepted
      return .scmp g c d (bv 4 sa) (bv 4 sb)
    | 0x11 => do unused sa; unused sb; unused c; unused va; return .pand g d (bv 4 pa) (bv 4 pb)
    | 0x12 => do unused sa; unused sb; unused c; unused va; return .por g d (bv 4 pa) (bv 4 pb)
    | 0x13 => do unused sa; unused sb; unused c; unused va; return .pxor g d (bv 4 pa) (bv 4 pb)
    | 0x14 => do unused pb; unused sa; unused sb; unused c; unused va; return .pnot g d (bv 4 pa)
    | 0x15 => do unused pa; unused pb; unused sa; unused sb; unused c; return .vany g d (bv 10 va)
    | 0x16 => do unused pa; unused pb; unused sa; unused sb; unused c; return .vall g d (bv 10 va)
    | _ => .error .unassignedOpcode
  | _ => .error .unassignedOpcode

/-- The CORE opcode map (R55). -/
def readCore (op body : Nat) (lits : List (BitVec 32)) : Dec Instr :=
  if op < 0x10 then readC3 op body lits
  else if op < 0x20 then readC6 op body
  else if op < 0x60 then readC1 op body lits
  else if op < 0x69 then readC2 op body
  else if op < 0x80 then readC1 op body lits
  else if op < 0x90 then readC4 op body
  else readC5 op body

/-! ### AGEN and XCHG bodies -/

def readA1 (op body : Nat) : Dec Instr :=
  match unpack layA1 body with
  | [ad, aa, ab, fl, imm] => do
    let f ← orErr (fldOfCode fl) .reservedValue
    let (d, a, i) := (bv 4 ad, bv 4 aa, bv 28 imm)
    match op with
    | 0x00 => do unused ab; unused imm; return .amov d a f
    | 0x01 => do unused ab; return .aaddi d a f i
    | 0x02 => do unused aa; unused ab; return .asetf d f i
    | 0x03 => do unused aa; unused ab; return .aincf d f i
    | 0x04 => do unused imm; return .aadd d a (bv 4 ab) f
    | 0x05 => do
      isV fl 7; unused ab; unused (imm / 16)
      if imm % 4 ≤ 1 then return .acol d a (bit (imm % 4)) (bv 2 (imm / 4)) else .error .notAccepted
    | _ => .error .unassignedOpcode
  | _ => .error .unassignedOpcode

/-- A queue that FEED or DRAIN does not take: q14 and q15 are reserved (R56, R176). -/
def otherQ (tgt : Nat) : Dec Instr := if 14 ≤ tgt then .error .reservedQueue else .error .notAccepted

def readA2 (op body : Nat) : Dec Instr :=
  match unpack layA2 body with
  | [tgt, td, ac, nm1, as, sdim, loc, pri, tok, wtk] =>
    let f : Xfer := ⟨bv 4 td, bv 4 ac, bv 8 nm1, bv 4 as, bv 2 sdim, bv 2 pri, bit tok, bit wtk⟩
    let cs (g : BitVec 4 → BitVec 4 → Xfer → Instr) : Dec Instr := do
      unused (loc / 16); return g (bv 4 tgt) (bv 4 loc) f
    match op with
    | 0x10 => do unused loc; if tgt < 4 then return .feed (bv 2 tgt) f else otherQ tgt
    | 0x11 => do unused loc; if tgt = 4 ∨ tgt = 5 then return .drain (bit (tgt % 2)) f else otherQ tgt
    | 0x12 => cs .fillf
    | 0x13 => cs .spillf
    | 0x14 => cs .tld
    | 0x15 => cs .tst
    | 0x16 => do unused tgt; return .kbld (bv 9 (loc / 16)) (bv 4 loc) f
    | 0x17 => do unused loc; return .tdesc (bv 4 tgt) f
    | 0x18 => do unused tgt; unused loc; return .pref f
    | _ => .error .unassignedOpcode
  | _ => .error .unassignedOpcode

def readA3 (op body : Nat) : Dec Instr :=
  match unpack layA3 body with
  | [td, ac, aop, ad, ret, wid, rel, acq, tok, rq, z] => do
    zero z
    let w ← orErr (AWid.ofCode wid) .reservedValue
    let a : Atom := ⟨bv 4 td, bv 4 ac, bv 4 aop, bv 4 ad, bit ret, w, bit rel, bit acq, bit tok, bit rq⟩
    match op with
    | 0x20 => return .atadd a
    | 0x21 => return .atcas a
    | 0x22 => return .atxch a
    | 0x23 => return .atmax a
    | 0x24 => return .atmin a
    | 0x25 => return .atand a
    | 0x26 => return .ator a
    | 0x27 => return .atfadd a
    | _ => .error .unassignedOpcode
  | _ => .error .unassignedOpcode

def readA4 (body : Nat) : Dec Instr :=
  match unpack layA4 body with
  | [ad, col, v, quad, tok, z] => do
    zero z
    return .arow (bv 4 ad) (bv 6 col) (bv 10 v) (bv 3 quad) (bit tok)
  | _ => .error .unassignedOpcode

/-- The AGEN opcode map (R55). -/
def readAgen (op body : Nat) : Dec Instr :=
  if op < 0x10 then readA1 op body
  else if op < 0x20 then readA2 op body
  else if op < 0x28 then readA3 op body
  else if op = 0x28 then readA4 body
  else .error .unassignedOpcode

def readX1 (op body : Nat) : Dec Instr :=
  match unpack layX1 body with
  | [ae, asrc, adst, crt, len, wtk, cls, tok, mc, z] => do
    zero z
    let m : Xmsg := ⟨bv 4 ae, bv 4 asrc, bv 4 adst, bv 3 crt, bv 8 len, bit wtk, bv 3 cls, bit tok, bit mc⟩
    match op with
    | 0x00 => return .send m
    | 0x01 => return .xwr m
    | 0x02 => return .xrd m
    | 0x03 => return .xat m
    | _ => .error .unassignedOpcode
  | _ => .error .unassignedOpcode

/-- The q and adst fields of an X2 word (R47, R190). -/
def readRDst (q adst : Nat) : Dec RDst :=
  match q with
  | 12 => do unused adst; return .q12
  | 13 => do unused adst; return .q13
  | 15 => return .loc (bv 4 adst)
  | 14 => .error .reservedQueue
  | _ => .error .reservedValue

def readX2 (op body : Nat) : Dec Instr :=
  match unpack layX2 body with
  | [q, adst, atag, z] => do
    zero z
    let d ← readRDst q adst
    match op with
    | 0x10 => return .recv d (bv 4 atag)
    | 0x11 => return .rcancel d (bv 4 atag)
    | _ => .error .unassignedOpcode
  | _ => .error .unassignedOpcode

def readX3 (body : Nat) : Dec Instr :=
  match unpack layX3 body with
  | [crt, k, m, rty, ddl, z] => do
    zero z
    return .rate (bv 3 crt) (bv 5 k) (bv 4 m) (bit rty) (bv 10 ddl)
  | _ => .error .unassignedOpcode

/-- The XCHG opcode map (R55). -/
def readXchg (op body : Nat) : Dec Instr :=
  if op < 0x10 then readX1 op body
  else if op < 0x20 then readX2 op body
  else if op = 0x20 then readX3 body
  else .error .unassignedOpcode

/-! ### Words -/

/-- Layout of the common fields (R33). -/
def layWord : List Nat := [3, 10, 8, 43]

def wordEng (w : Word) : Nat := w.toNat / 2 ^ 61
def wordIdle (w : Word) : Nat := w.toNat / 2 ^ 51 % 1024
def wordOp (w : Word) : Nat := w.toNat / 2 ^ 43 % 256
def wordBody (w : Word) : Nat := w.toNat % 2 ^ 43

/-- The engine of a word, `none` for LIT and the reserved codes (R33). -/
def engOf (w : Word) : Option Eng :=
  match wordEng w with
  | 0 => some .seq
  | 1 => some .core
  | 2 => some .agen
  | 3 => some .xchg
  | _ => none

/-- A word with eng = 111 (R35). -/
def isLit (w : Word) : Bool := wordEng w == 7

/-- The literal of a LIT word whose other bits are as R35 wants them. -/
def litValue (w : Word) : Option (BitVec 32) :=
  if wordEng w = 7 ∧ w.toNat / 2 ^ 32 % 2 ^ 29 = 0 then some (BitVec.ofNat 32 w.toNat) else none

/-- A trailer-shaped word: LIT with bits [60:4] zero (spec/03 R86). -/
def isTrailer (w : Word) : Bool := wordEng w == 7 && w.toNat / 16 % 2 ^ 57 == 0

/-- How many LIT words an instruction word owns (R36): a C1 word with bsrc 10, SLI with im = 0, XLIL. -/
def litCount (w : Word) : Nat :=
  let op := wordOp w
  let body := wordBody w
  match wordEng w with
  | 0 => if op = 0x28 then 2 else 0
  | 1 =>
    if op = 0x0D then (if body / 2 ^ 29 % 2 = 0 then 1 else 0)
    else if (0x20 ≤ op ∧ op < 0x60) ∨ op = 0x69 then (if body / 64 % 4 = 2 then 1 else 0)
    else 0
  | _ => 0

/-- The opcodes that R55 lists for the engine codes 0 to 3; every code that no word could have is left to `readWord`. -/
def opListed (eng op : Nat) : Bool :=
  let within := fun (lo hi : Nat) => decide (lo ≤ op ∧ op ≤ hi)
  match eng with
  | 0 => within 0x00 0x06 || within 0x08 0x0D || within 0x10 0x1B || within 0x20 0x28 || within 0x30 0x35 || within 0x38 0x39 ||
      within 0x40 0x42 || within 0x48 0x49 || within 0x50 0x53
  | 1 => within 0x00 0x0D || within 0x10 0x16 || within 0x20 0x2B || within 0x30 0x38 || within 0x40 0x4B || within 0x50 0x53 ||
      within 0x58 0x5F || within 0x60 0x69 || within 0x80 0x82 || within 0x90 0x95
  | 2 => within 0x00 0x05 || within 0x10 0x18 || within 0x20 0x28
  | 3 => within 0x00 0x03 || within 0x10 0x11 || within 0x20 0x20
  | _ => true

/-- Read a word whose owned literals are `lits`, before the limits of each instruction. The causes are found in the order of
R56: the engine, the opcode, the ranges shown as 0, reserved values, values not accepted. -/
def readWord (w : Word) (lits : List (BitVec 32)) : Dec Instr :=
  if !opListed (wordEng w) (wordOp w) then .error .unassignedOpcode
  else match wordEng w with
  | 0 => readSeq (wordOp w) (wordBody w) lits
  | 1 => readCore (wordOp w) (wordBody w) lits
  | 2 => readAgen (wordOp w) (wordBody w)
  | 3 => readXchg (wordOp w) (wordBody w)
  | 7 => .error .literalMisuse
  | _ => .error .reservedEngine

/-- Decode a word: a well-formed instruction, or the cause of the illegal-word fault (R56). (log 15: DEDUCED) -/
def decodeWord (w : Word) (lits : List (BitVec 32)) : Dec Instr := do
  let i ← readWord w lits
  match i.check with
  | none => return i
  | some e => .error e

/-- The literals of the `n` words that follow, if they are LIT words in good form (R37). -/
def takeLits : Nat → List Word → Option (List (BitVec 32))
  | 0, _ => some []
  | n + 1, w :: ws => do
    let v ← litValue w
    let vs ← takeLits n ws
    return v :: vs
  | _ + 1, [] => none

/-- Decode an instruction with the literal words it owns: idle count, instruction, words used. -/
def decodeWords (ws : List Word) : Dec (Nat × Instr × Nat) :=
  match ws with
  | [] => .error .literalMisuse
  | w :: rest =>
    let lits := takeLits (litCount w) rest
    do
      let i ← decodeWord w (lits.getD [0, 0])
      if lits.isNone then .error .literalMisuse else return (wordIdle w, i, 1 + litCount w)

/-- A word from its bytes, lowest address first (R4, R33). -/
def wordOfBytes (bs : List Byte) : Word :=
  BitVec.ofNat 64 ((bs.take 8).foldr (fun b n => b.toNat + 256 * n) 0)

/-- The whole words of a list of bytes; a tail shorter than a word is dropped. -/
def wordsOfBytes : Nat → List Byte → List Word
  | 0, _ => []
  | n + 1, bs => if bs.length < 8 then [] else wordOfBytes bs :: wordsOfBytes n (bs.drop 8)

/-- Decode the instruction at the front of any bytes. -/
def decode (bs : List Byte) : Dec (Nat × Instr × Nat) := decodeWords (wordsOfBytes 3 bs)

/-! ### Encoding -/

/-- A word from engine, idle, opcode and body (R33). -/
def mkWord (eng idle op body : Nat) : Word :=
  BitVec.ofNat 64 (pack [(3, eng), (10, idle), (8, op), (43, body)])

/-- A LIT word (R35). -/
def mkLit (v : BitVec 32) : Word := mkWord 7 0 0 v.toNat

/-- Pack a body whose layout and field values are given. -/
def body (lay vals : List Nat) : Nat := pack (lay.zip vals)

/-- Fields of a B operand: vb, bsrc, literals. -/
def BSrc.enc : BSrc → Nat × Nat × List (BitVec 32)
  | .row v => (v.toNat, 0, [])
  | .kb n => (n.toNat, 1, [])
  | .lit w => (0, 2, [w])
  | .slot s => (s.toNat, 3, [])

def c1 (g : Guard) (vd va : BitVec 10) (b : Nat × Nat × List (BitVec 32)) (rnd sat ty : Nat) : Nat × List (BitVec 32) :=
  (body layC1 [g.neg.toNat, g.p.toNat, vd.toNat, va.toNat, b.1, b.2.1, rnd, sat, ty], b.2.2)

def noB : Nat × Nat × List (BitVec 32) := (0, 0, [])

def c2 (p : BitVec 3) (vd va : BitVec 10) (imm : Nat) : Nat × List (BitVec 32) :=
  (body layC2 [p.toNat, vd.toNat, va.toNat, imm], [])

def c3 (g : Guard) (sd sa : BitVec 4) (b : SSrc) : Nat × List (BitVec 32) :=
  match b with
  | .reg s => (body layC3 [g.neg.toNat, g.p.toNat, sd.toNat, sa.toNat, 0, s.toNat * 2 ^ 25], [])
  | .imm i => (body layC3 [g.neg.toNat, g.p.toNat, sd.toNat, sa.toNat, 1, i.toNat], [])

def c6 (g : Guard) (pd pa pb sa sb c va : Nat) : Nat × List (BitVec 32) :=
  (body layC6 [g.neg.toNat, g.p.toNat, pd, pa, pb, sa, sb, c, va, 0], [])

def c5 (g : Guard) (v s disp slot : Nat) (c : Cvt) : Nat × List (BitVec 32) :=
  (body layC5 [g.neg.toNat, g.p.toNat, v, s, disp, slot, c.code, 0], [])

def s1 (xd xa xb : Nat) : Nat × List (BitVec 32) := (body layS1 [xd, xa, xb, 0], [])
def s2 (xd xa imm : Nat) : Nat × List (BitVec 32) := (body layS2 [xd, xa, imm], [])
def s3 (c : BrCond) (xa xb : BitVec 4) (d : BitVec 20) : Nat × List (BitVec 32) :=
  (body layS3 [c.code, xa.toNat, xb.toNat, 0, d.toNat], [])
def s4 (q : BitVec 4) (s : Bool) (xd : BitVec 4) : Nat × List (BitVec 32) := (body layS4 [q.toNat, s.toNat, xd.toNat, 0], [])
def s7 (sel xa xd f arg : Nat) : Nat × List (BitVec 32) := (body layS7 [sel, xa, xd, f, arg], [])
def a1 (ad aa ab : Nat) (f : Option (BitVec 2)) (imm : Nat) : Nat × List (BitVec 32) :=
  (body layA1 [ad, aa, ab, fldCode f, imm], [])
def a2 (tgt loc : Nat) (f : Xfer) : Nat × List (BitVec 32) :=
  (body layA2 [tgt, f.td.toNat, f.ac.toNat, f.nm1.toNat, f.step.toNat, f.sdim.toNat, loc, f.pri.toNat, f.tok.toNat, f.wtk.toNat], [])
def a3 (a : Atom) : Nat × List (BitVec 32) :=
  (body layA3 [a.td.toNat, a.ac.toNat, a.aop.toNat, a.ad.toNat, a.ret.toNat, a.wid.code, a.rel.toNat, a.acq.toNat,
    a.tok.toNat, a.rq.toNat, 0], [])
def x1 (m : Xmsg) : Nat × List (BitVec 32) :=
  (body layX1 [m.ae.toNat, m.asrc.toNat, m.adst.toNat, m.crt.toNat, m.len64.toNat, m.wtk.toNat, m.cls.toNat, m.tok.toNat,
    m.mc.toNat, 0], [])
def x2 (d : RDst) (atag : BitVec 4) : Nat × List (BitVec 32) :=
  match d with
  | .q12 => (body layX2 [12, 0, atag.toNat, 0], [])
  | .q13 => (body layX2 [13, 0, atag.toNat, 0], [])
  | .loc a => (body layX2 [15, a.toNat, atag.toNat, 0], [])

/-- Engine, opcode, body and literals of an instruction word; `none` for the steps that no word encodes. -/
def Instr.enc : Instr → Option (Nat × Nat × Nat × List (BitVec 32))
  | .nop => some (0, 0x00, 0, []) | .start => some (0, 0x01, 0, []) | .halt => some (0, 0x02, 0, [])
  | .yield m => some (0, 0x03, body layYield [0, 0, 0, m.toNat], [])
  | .swap r => some (0, 0x04, s7 r.toNat 0 0 0 0)
  | .ovlyp xa i => some (0, 0x05, s2 0 xa.toNat i.toNat)
  | .ovlys => some (0, 0x06, 0, [])
  | .br c xa xb d => some (0, 0x08, s3 c xa xb d)
  | .call c xa xb d => some (0, 0x09, s3 c xa xb d)
  | .ret => some (0, 0x0A, 0, [])
  | .bq q t d => some (0, 0x0B, body layS5 [q.toNat, t.code, 0, d.toNat], [])
  | .repeat_ xa ip cnt st len => some (0, 0x0C, body layS6 [xa.toNat, ip.toNat, cnt.toNat, st.toNat, len.toNat], [])
  | .leave => some (0, 0x0D, 0, [])
  | .xadd d a b => some (0, 0x10, s1 d.toNat a.toNat b.toNat)
  | .xsub d a b => some (0, 0x11, s1 d.toNat a.toNat b.toNat)
  | .xmul d a b => some (0, 0x12, s1 d.toNat a.toNat b.toNat)
  | .xand d a b => some (0, 0x13, s1 d.toNat a.toNat b.toNat)
  | .xor_ d a b => some (0, 0x14, s1 d.toNat a.toNat b.toNat)
  | .xxor d a b => some (0, 0x15, s1 d.toNat a.toNat b.toNat)
  | .xshl d a b => some (0, 0x16, s1 d.toNat a.toNat b.toNat)
  | .xshr d a b => some (0, 0x17, s1 d.toNat a.toNat b.toNat)
  | .xsra d a b => some (0, 0x18, s1 d.toNat a.toNat b.toNat)
  | .xmin d a b => some (0, 0x19, s1 d.toNat a.toNat b.toNat)
  | .xmax d a b => some (0, 0x1A, s1 d.toNat a.toNat b.toNat)
  | .xcmp d a b => some (0, 0x1B, s1 d.toNat a.toNat b.toNat)
  | .xaddi d a i => some (0, 0x20, s2 d.toNat a.toNat i.toNat)
  | .xandi d a i => some (0, 0x21, s2 d.toNat a.toNat i.toNat)
  | .xori d a i => some (0, 0x22, s2 d.toNat a.toNat i.toNat)
  | .xxori d a i => some (0, 0x23, s2 d.toNat a.toNat i.toNat)
  | .xshli d a i => some (0, 0x24, s2 d.toNat a.toNat i.toNat)
  | .xshri d a i => some (0, 0x25, s2 d.toNat a.toNat i.toNat)
  | .xsrai d a i => some (0, 0x26, s2 d.toNat a.toNat i.toNat)
  | .xli d i => some (0, 0x27, s2 d.toNat 0 i.toNat)
  | .xlil d v => some (0, 0x28, body layS2 [d.toNat, 0, 0], [v.extractLsb' 0 32, v.extractLsb' 32 32])
  | .inj q s d => some (0, 0x30, s4 q s d)
  | .cap q s d => some (0, 0x31, s4 q s d)
  | .popt q s d => some (0, 0x32, s4 q s d)
  | .pusht q s d => some (0, 0x33, s4 q s d)
  | .qpop q s d => some (0, 0x34, s4 q s d)
  | .qstat q d => some (0, 0x35, s4 q false d)
  | .lds q a i => some (0, 0x38, s2 q.toNat a.toNat i.toNat)
  | .sts d a i => some (0, 0x39, s2 d.toNat a.toNat i.toNat)
  | .phase f w => some (0, 0x40, s7 (if f then 2 else 1) 0 0 w.toNat 0)
  | .waittc x f xa xd => some (0, 0x41, s7 x.toNat xa.toNat xd.toNat f.toNat 0)
  | .gettc d sel => some (0, 0x42, s7 sel.toNat 0 d.toNat 0 0)
  | .xtoa d a => some (0, 0x48, s1 d.toNat a.toNat 0)
  | .atox d a => some (0, 0x49, s1 d.toNat a.toNat 0)
  | .rotset r t => some (0, 0x50, s2 0 0 (r.toNat + 1024 * t.toNat))
  | .getsys d sel => some (0, 0x51, s2 d.toNat 0 sel.toNat)
  | .setfpc a => some (0, 0x52, s1 0 a.toNat 0)
  | .setovf a => some (0, 0x53, s1 0 a.toNat 0)
  | .sadd g d a b => some (1, 0x00, c3 g d a b)
  | .ssub g d a b => some (1, 0x01, c3 g d a b)
  | .smul g d a b => some (1, 0x02, c3 g d a b)
  | .sand g d a b => some (1, 0x03, c3 g d a b)
  | .sor g d a b => some (1, 0x04, c3 g d a b)
  | .sxor g d a b => some (1, 0x05, c3 g d a b)
  | .sshl g d a b => some (1, 0x06, c3 g d a b)
  | .sshr g d a b => some (1, 0x07, c3 g d a b)
  | .ssra g d a b => some (1, 0x08, c3 g d a b)
  | .smin g d a b => some (1, 0x09, c3 g d a b)
  | .smax g d a b => some (1, 0x0A, c3 g d a b)
  | .smovx g d a => some (1, 0x0B, c3 g d a (.reg 0))
  | .sget g d s => some (1, 0x0C, c3 g d 0 (.imm (bv 29 s.code)))
  | .sli g d v => some (1, 0x0D, match v with
      | .imm i => c3 g d 0 (.imm i)
      | .lit w => ((c3 g d 0 (.reg 0)).1, [w]))
  | .scmp g c d a b => some (1, 0x10, c6 g d.toNat 0 0 a.toNat b.toNat c.code 0)
  | .pand g d a b => some (1, 0x11, c6 g d.toNat a.toNat b.toNat 0 0 0 0)
  | .por g d a b => some (1, 0x12, c6 g d.toNat a.toNat b.toNat 0 0 0 0)
  | .pxor g d a b => some (1, 0x13, c6 g d.toNat a.toNat b.toNat 0 0 0 0)
  | .pnot g d a => some (1, 0x14, c6 g d.toNat a.toNat 0 0 0 0 0)
  | .vany g d va => some (1, 0x15, c6 g d.toNat 0 0 0 0 0 va.toNat)
  | .vall g d va => some (1, 0x16, c6 g d.toNat 0 0 0 0 0 va.toNat)
  | .vadd g t r d a b => some (1, 0x20, c1 g d a b.enc r.code 0 t.code)
  | .vsub g t r d a b => some (1, 0x21, c1 g d a b.enc r.code 0 t.code)
  | .vmul g t r d a b => some (1, 0x22, c1 g d a b.enc r.code 0 t.code)
  | .vfma g t r d a b => some (1, 0x23, c1 g d a b.enc r.code 0 t.code)
  | .vfms g t r d a b => some (1, 0x24, c1 g d a b.enc r.code 0 t.code)
  | .vfmh g t r d a b => some (1, 0x25, c1 g d a b.enc r.code 0 t.code)
  | .vmin g t r d a b => some (1, 0x26, c1 g d a b.enc r.code 0 t.code)
  | .vmax g t r d a b => some (1, 0x27, c1 g d a b.enc r.code 0 t.code)
  | .vabs g t d a => some (1, 0x28, c1 g d a noB 0 0 t.code)
  | .vneg g t d a => some (1, 0x29, c1 g d a noB 0 0 t.code)
  | .vcmp g c t d a b => some (1, 0x2A, c1 g d a b.enc c.code 0 t.code)
  | .vsel g t d a b => some (1, 0x2B, c1 g d a b.enc 0 0 t.code)
  | .vrcp g t r d a => some (1, 0x30, c1 g d a noB r.code 0 t.code)
  | .vrsq g t r d a => some (1, 0x31, c1 g d a noB r.code 0 t.code)
  | .vsqrt g t r d a => some (1, 0x32, c1 g d a noB r.code 0 t.code)
  | .vexp2 g t r d a => some (1, 0x33, c1 g d a noB r.code 0 t.code)
  | .vlog2 g t r d a => some (1, 0x34, c1 g d a noB r.code 0 t.code)
  | .vtanh g t r d a => some (1, 0x35, c1 g d a noB r.code 0 t.code)
  | .vsigm g t r d a => some (1, 0x36, c1 g d a noB r.code 0 t.code)
  | .vsin g t r d a => some (1, 0x37, c1 g d a noB r.code 0 t.code)
  | .vcos g t r d a => some (1, 0x38, c1 g d a noB r.code 0 t.code)
  | .viadd g t s d a b => some (1, 0x40, c1 g d a b.enc 0 s.toNat t.code)
  | .visub g t s d a b => some (1, 0x41, c1 g d a b.enc 0 s.toNat t.code)
  | .vimul g t s d a b => some (1, 0x42, c1 g d a b.enc 0 s.toNat t.code)
  | .vand g t d a b => some (1, 0x43, c1 g d a b.enc 0 0 t.code)
  | .vor g t d a b => some (1, 0x44, c1 g d a b.enc 0 0 t.code)
  | .vxor g t d a b => some (1, 0x45, c1 g d a b.enc 0 0 t.code)
  | .vshl g t d a b => some (1, 0x46, c1 g d a b.enc 0 0 t.code)
  | .vshr g t d a b => some (1, 0x47, c1 g d a b.enc 0 0 t.code)
  | .vsra g t d a b => some (1, 0x48, c1 g d a b.enc 0 0 t.code)
  | .vimin g t d a b => some (1, 0x49, c1 g d a b.enc 0 0 t.code)
  | .vimax g t d a b => some (1, 0x4A, c1 g d a b.enc 0 0 t.code)
  | .vicmp g c t d a b => some (1, 0x4B, c1 g d a b.enc c.code 0 t.code)
  | .vcvt g dst src r h d a => some (1, 0x50, c1 g d a (dst.code + 16 * src.code + 256 * h.toNat, 0, []) r.code 0 0)
  | .vfxc g d a => some (1, 0x51, c1 g d a noB 0 0 0)
  | .vfxa g d a b => some (1, 0x52, match b with
      | .row v => c1 g d a (v.toNat, 0, []) 0 0 1
      | .slot s => c1 g d a (s.toNat, 3, []) 0 0 1)
  | .vfxf g r d a => some (1, 0x53, c1 g d a noB r.code 0 0)
  | .vrsum g t r s d a => some (1, 0x58, c1 g d a noB r.code s.toNat t.code)
  | .vrmax g t d a => some (1, 0x59, c1 g d a noB 0 0 t.code)
  | .vrmin g t d a => some (1, 0x5A, c1 g d a noB 0 0 t.code)
  | .vperm g t d a b => some (1, 0x5B, c1 g d a b.enc 0 0 t.code)
  | .vbcast g t d a n => some (1, 0x5C, c1 g d a (n.toNat, 0, []) 0 0 t.code)
  | .vrot g t d a n => some (1, 0x5D, c1 g d a (n.toNat, 0, []) 0 0 t.code)
  | .vladd g t r d a s => some (1, 0x5E, c1 g d a (s.toNat, 3, []) r.code 0 t.code)
  | .vfxl g d a s => some (1, 0x5F, c1 g d a (s.toNat, 3, []) 0 0 1)
  | .vaddi p d a i => some (1, 0x60, c2 p d a i.toNat)
  | .vmuli p d a i => some (1, 0x61, c2 p d a i.toNat)
  | .vfmhi p d a i => some (1, 0x62, c2 p d a i.toNat)
  | .vmini p d a i => some (1, 0x63, c2 p d a i.toNat)
  | .vmaxi p d a i => some (1, 0x64, c2 p d a i.toNat)
  | .viaddi p d a i => some (1, 0x65, c2 p d a i.toNat)
  | .vandi p d a i => some (1, 0x66, c2 p d a i.toNat)
  | .vshli p d a i => some (1, 0x67, c2 p d a i.toNat)
  | .vli p d i => some (1, 0x68, c2 p d 0 i.toNat)
  | .vmov g t d b => some (1, 0x69, c1 g d 0 b.enc 0 0 t.code)
  | .mma g f mo tb o md a sb bd => some (1, 0x80,
      let (asrc, ma) := match a with
        | .lane => (0, 0)
        | .tile m => (1, m.toNat)
        | .folio s => (2, s.toNat)
      (body layC4 [g.neg.toNat, g.p.toNat, md.toNat, asrc, ma, sb.toNat, bd.toNat, f.code, mo.code, tb.toNat, o.code, 0], []))
  | .mzero g md => some (1, 0x81, body layC4 [g.neg.toNat, g.p.toNat, md.toNat, 0, 0, 0, 0, 0, 0, 0, 0, 0], [])
  | .mtrn g md ma => some (1, 0x82, body layC4 [g.neg.toNat, g.p.toNat, md.toNat, 0, ma.toNat, 0, 0, 0, 0, 0, 0, 0], [])
  | .vgetl g c v s => some (1, 0x90, c5 g v.toNat 0 0 s.toNat c)
  | .vputl g c s v => some (1, 0x91, c5 g v.toNat 0 0 s.toNat c)
  | .fldv g c v s d => some (1, 0x92, c5 g v.toNat s.toNat d.toNat 0 c)
  | .fstv g c s d v => some (1, 0x93, c5 g v.toNat s.toNat d.toNat 0 c)
  | .fldm g c m s d => some (1, 0x94, c5 g (m.toNat * 32) s.toNat d.toNat 0 c)
  | .fstm g c s d m => some (1, 0x95, c5 g (m.toNat * 32) s.toNat d.toNat 0 c)
  | .amov d a f => some (2, 0x00, a1 d.toNat a.toNat 0 f 0)
  | .aaddi d a f i => some (2, 0x01, a1 d.toNat a.toNat 0 f i.toNat)
  | .asetf d f i => some (2, 0x02, a1 d.toNat 0 0 f i.toNat)
  | .aincf d f i => some (2, 0x03, a1 d.toNat 0 0 f i.toNat)
  | .aadd d a b f => some (2, 0x04, a1 d.toNat a.toNat b.toNat f 0)
  | .acol s a sc sd => some (2, 0x05, a1 s.toNat a.toNat 0 none (sc.toNat + 4 * sd.toNat))
  | .feed q f => some (2, 0x10, a2 q.toNat 0 f)
  | .drain q f => some (2, 0x11, a2 (4 + q.toNat) 0 f)
  | .fillf al s f => some (2, 0x12, a2 al.toNat s.toNat f)
  | .spillf al s f => some (2, 0x13, a2 al.toNat s.toNat f)
  | .tld al s f => some (2, 0x14, a2 al.toNat s.toNat f)
  | .tst al s f => some (2, 0x15, a2 al.toNat s.toNat f)
  | .kbld n s f => some (2, 0x16, a2 0 (s.toNat + 16 * n.toNat) f)
  | .tdesc s f => some (2, 0x17, a2 s.toNat 0 f)
  | .pref f => some (2, 0x18, a2 0 0 f)
  | .atadd a => some (2, 0x20, a3 a)
  | .atcas a => some (2, 0x21, a3 a)
  | .atxch a => some (2, 0x22, a3 a)
  | .atmax a => some (2, 0x23, a3 a)
  | .atmin a => some (2, 0x24, a3 a)
  | .atand a => some (2, 0x25, a3 a)
  | .ator a => some (2, 0x26, a3 a)
  | .atfadd a => some (2, 0x27, a3 a)
  | .arow d c v q t => some (2, 0x28, body layA4 [d.toNat, c.toNat, v.toNat, q.toNat, t.toNat, 0], [])
  | .send m => some (3, 0x00, x1 m)
  | .xwr m => some (3, 0x01, x1 m)
  | .xrd m => some (3, 0x02, x1 m)
  | .xat m => some (3, 0x03, x1 m)
  | .recv d t => some (3, 0x10, x2 d t)
  | .rcancel d t => some (3, 0x11, x2 d t)
  | .rate c k m r ddl => some (3, 0x20, body layX3 [c.toNat, k.toNat, m.toNat, r.toNat, ddl.toNat, 0], [])
  | _ => none

/-- The words of an instruction with an idle count: the instruction word, then the LIT words it owns. -/
def encode (idle : BitVec 10) (i : Instr) : List Word :=
  match i.enc with
  | some (eng, op, b, lits) => mkWord eng idle.toNat op b :: lits.map mkLit
  | none => []

/-- The engine on which an instruction word issues; `none` for the steps. -/
def Instr.eng (i : Instr) : Option Eng :=
  match i.enc with
  | some (0, _) => some .seq
  | some (1, _) => some .core
  | some (2, _) => some .agen
  | some (_, _) => some .xchg
  | none => none

/-- Bytes of a number, lowest first. -/
def bytesOf : Nat → Nat → List Byte
  | 0, _ => []
  | k + 1, n => BitVec.ofNat 8 n :: bytesOf k (n / 256)

/-- What the decoder reads from an instruction whose bits are `w` (bit 0 the least significant of the first word);
bits from `nbits` up are zero, up to the longest instruction of three words. -/
def decodeTableWord (nbits w : Nat) : Option Instr :=
  match decode (bytesOf 24 (w % 2 ^ nbits)) with
  | .ok (_, i, _) => some i
  | .error _ => none

end Sys2Proof
end

