-- ==== Sys2Proof/Machine/State.lean ====
section
/-! DEFINITION. The state of the machine as plain data: everything the spec gives one device, the state after reset, and
the reasons a step can stop. INVENTORY.md lists every piece with its rule and its reset value. -/

namespace Sys2Proof.Machine

open Sys2Proof

/-- A tile-store row: 128 bytes, byte b in bits [8b+7:8b], and its poison bit (R15, R219). -/
structure RowV where
  data : BitVec 1024
  pois : Bool
  deriving DecidableEq, Repr

/-- A folio unit: 32 bytes and its poison bit (R15, R219). -/
structure UnitV where
  data : BitVec 256
  pois : Bool
  deriving DecidableEq, Repr

/-- A constant-bank word and its poison bit (R15, R219). -/
structure KbV where
  data : BitVec 32
  pois : Bool
  deriving DecidableEq, Repr

/-- A beat of the stream lane (R18). -/
structure Beat where
  data : BitVec 2048
  scale : BitVec 64
  pois : BitVec 8
  valid : Bool
  deriving DecidableEq, Repr

/-- The empty beat: every field zero (R18). -/
def Beat.empty : Beat := ⟨0, 0, 0, false⟩

/-- A place of core storage. -/
inductive Place where
  | row (n : Nat)
  | unit (n : Nat)
  | kb (n : Nat)
  deriving DecidableEq, Repr

/-- A value of core storage, as wide as the widest place. -/
structure PlaceV where
  data : BitVec 1024
  pois : Bool
  deriving DecidableEq, Repr

/-- What a result writes when it lands (R21, R22). -/
inductive Land where
  | row (n : Nat) (v : RowV)
  | unit (n : Nat) (v : UnitV)
  | sreg (n : BitVec 4) (v : BitVec 32)
  | pred (n : BitVec 4) (v : Bool)
  | flags (f : BitVec 5)
  | clearFst
  deriving DecidableEq, Repr

/-- A result that waits in the landing buffer: its due strand cycle, the issue time of its word, what it writes. -/
structure Landing where
  due : Nat
  issued : Nat
  what : Land
  deriving DecidableEq, Repr

/-- A product in progress in the array context (R146, R147, R151): the word with its renamed tile, its issue time, the
operand blocks fixed when it executed (none for a lane operand), the chunks taken, the partial sums row by row, the
poison and flags so far, and whether it is still the latest matrix word at this column. -/
structure MmaRun where
  t : Nat
  ins : Instr
  md : Nat
  ovf : BitVec 14
  a : Option (List (BitVec 256) × List Byte)
  b : List (BitVec 256)
  n : Nat
  acc : List (BitVec 1024)
  pois : Bool
  fl : BitVec 5
  latest : Bool
  deriving DecidableEq, Repr

/-- The last matrix result whose value a later accumulation may chain on (R147); poison that comes by it cuts no replayable phase
(log 59: DEDUCED). -/
structure LastM where
  t : Nat
  due : Nat
  md : Nat
  rows : List RowV
  deriving DecidableEq, Repr

/-- One core of one strand (R15). Places that nothing wrote since launch are absent and hold undefined contents. -/
structure Core where
  rows : KV Nat RowV
  units : KV Nat UnitV
  kb : KV Nat KbV
  s : Vector (BitVec 32) 16
  p : BitVec 8
  fst : BitVec 5
  runs : List MmaRun
  lastM : Option LastM
  dirtyT : BitVec 32
  dirtyB : BitVec 64
  landing : List Landing
  hist : List (Place × PlaceV × Nat × Nat)
  deriving DecidableEq, Repr

/-- A core at launch start (R15, R16). -/
def Core.init : Core where
  rows := []
  units := []
  kb := []
  s := Vector.replicate 16 0
  p := 0
  fst := 0
  runs := []
  lastM := none
  dirtyT := 0
  dirtyB := 0
  landing := []
  hist := []

/-- A CORE word in the row's word pipe: the renamed word and everything fixed at its issue (R20, R30). -/
structure PipeWord where
  ins : Instr
  stage : Bool
  fpc : BitVec 4
  ovf : BitVec 14
  x : Word
  rowsz : Nat
  tidx : Nat
  bank : Bool
  raw : Word
  held : Bool
  deriving DecidableEq, Repr

/-- An entry of the loop stack (R12, R66). -/
structure Loop where
  origin : Nat
  len : Nat
  ip : Nat
  st : Nat
  n : Nat
  i : Nat
  saved : BitVec 7
  b : Nat
  deriving DecidableEq, Repr

/-- The four reference times (R48). -/
structure Refs where
  seq : Nat
  core : Nat
  agen : Nat
  xchg : Nat
  deriving DecidableEq, Repr

/-- Every reference at one time. -/
def Refs.all (t : Nat) : Refs := ⟨t, t, t, t⟩

/-- The reference time of an engine. -/
def Refs.get (r : Refs) : Eng → Nat
  | .seq => r.seq
  | .core => r.core
  | .agen => r.agen
  | .xchg => r.xchg

/-- Set the reference time of an engine. -/
def Refs.set (r : Refs) (e : Eng) (t : Nat) : Refs :=
  match e with
  | .seq => { r with seq := t }
  | .core => { r with core := t }
  | .agen => { r with agen := t }
  | .xchg => { r with xchg := t }

/-- A change of the stream that takes effect when the words of its strand cycle have issued (R50, R63, R64, R86). -/
inductive Jump where
  | to (target : Nat) (call : Bool) (src : Nat)
  | halt
  | overlay
  deriving DecidableEq, Repr

/-- A beat queue: depth, entries oldest first, entries popped since the mark of a replayable phase, and the place of the pool
that the oldest entry stands in (R24, R214, R220). -/
structure BeatQ where
  depth : Nat
  items : List Beat
  kept : Nat
  rd : Nat
  deriving DecidableEq, Repr

/-- An entry of a result queue, with the AGEN command that pushed it and whether it is that command's last (R205). -/
structure ResEntry where
  val : Word
  seq : Nat
  last : Bool
  deriving DecidableEq, Repr

/-- A result queue: entries oldest first, the entries reserved, those kept by a mark, and the place of the oldest (R24, R78, R220). -/
structure ResQ where
  items : List ResEntry
  resv : Nat
  kept : Nat
  rd : Nat
  deriving DecidableEq, Repr

/-- The architectural queues of an agent (R24); a token of q8 or q10 carries the command that pushed it (R205). -/
structure Queues where
  q0 : BeatQ
  q1 : BeatQ
  q2 : BeatQ
  q3 : BeatQ
  q4 : BeatQ
  q5 : BeatQ
  q12 : BeatQ
  q13 : BeatQ
  q6 : ResQ
  q7 : ResQ
  q8 : List Nat
  q9 : Nat
  q10 : List Nat
  q11 : Nat
  deriving DecidableEq, Repr

/-- Queues with nothing in them. -/
def Queues.empty : Queues :=
  let b : BeatQ := ⟨4, [], 0, 0⟩
  ⟨b, b, b, b, b, b, b, b, ⟨[], 0, 0, 0⟩, ⟨[], 0, 0, 0⟩, [], 0, [], 0⟩

/-- A column set (R27, R167). -/
structure ColSet where
  mask : BitVec 48
  scatter : Bool
  sdim : BitVec 2
  deriving DecidableEq, Repr

/-- A code-rate register (R27, R192): data and parity fragments, retry, deadline in µs. -/
structure Crt where
  k : Nat
  m : Nat
  rty : Bool
  ddl : Nat
  deriving DecidableEq, Repr

/-- Where a command stands with the walkers (R233–R235): nothing asked, a request that found no entry, a posted record
with its entry, or a frame that the front end brings here on its touch (R236). -/
inductive Page where
  | none
  | unposted
  | posted (entry : Nat)
  | moving
  deriving DecidableEq, Repr

/-- A remote access that an AGEN item waits for (R206, R236): its message number, and the reply: bytes with poison, or the
cause of a fault with the destination's own cause (R285). -/
structure Remote where
  mseq : BitVec 32
  done : Option (List (Byte × Bool))
  cause : Option (Nat × Nat)
  deriving DecidableEq, Repr

/-- An access of several words under way (R197): the runs of bytes where it lies, the bytes read or to be written, and how many of its
words are done. -/
structure Access where
  at_ : List (Nat × Nat)
  got : List (Byte × Bool)
  put : Nat
  deriving DecidableEq, Repr

/-- Where a tile-table entry has led a command (R231, R232): a machine frame, or a home with the bit of migration. -/
inductive FrameUse where
  | here (mfn : Nat)
  | away (ep part : Nat) (mot : Bool)
  deriving DecidableEq, Repr

/-- What the front end has under way word by word, since each of its words is a host step (R209, log 37: DESIGN CHOICE): for which
instruction; whether it has begun; the words read so far; the words still to be written, each with its address and poison; and the key of
its free values. -/
structure Work where
  ins : Instr
  begun : Bool
  got : List Word
  left : List (Nat × Word × Bool)
  key : Nat
  deriving DecidableEq, Repr

/-- A command issued to AGEN (R168, R169, R196): the word with the operands sampled at issue, the last XCHG command observed
before, and its progress (`buf`: the beats of the present item that wait; `acc`: its steps so far;
`frames`: where the command's translations have led so far, by table entry; `bring`: the frame that is being brought here for it, R236). A primer command has sequence number 0 and its three values stand in `addr`, `val` and `set` (R136, R306). -/
structure ACmd where
  seq : Nat
  seen : Nat
  ins : Instr
  raw : Word
  tidx : Nat
  bank : Bool
  sc : Nat
  a : Vector Word 16
  set : ColSet
  addr : Word
  val : Word
  ovf : BitVec 14
  crt : Crt
  took : Bool
  rank : Nat
  item : Nat
  buf : List Beat
  acc : Option Access
  frames : KV Nat FrameUse
  rem : Option Remote
  page : Page
  bring : Option Work
  halted : Bool
  held : Bool
  fin : Bool
  deriving DecidableEq, Repr

/-- How far an XCHG command is (R189, R190, R277). `sent`: its fragments are queued; `left`: how many have not left; `resend`: its
fragments were asked for again; `lostRep`: its reply is lost and its place still to be written as poisoned (R275); `acc`: the
steps of its source or its landing so far; `frames`: where the command's translations have led so far, by table entry (R232). -/
structure XCmd where
  seq : Nat
  seen : Nat
  ins : Instr
  raw : Word
  tidx : Nat
  bank : Bool
  sc : Nat
  ae : Word
  asrc : Word
  adst : Word
  atag : Word
  crt : Crt
  took : Bool
  started : Bool
  sent : Bool
  left : Nat
  resent : Bool
  reports : List MKey
  need : Nat
  applied : Nat
  deadline : Nat
  heldRep : Bool
  delivering : Bool
  cancelled : Bool
  resend : Bool
  lostRep : Bool
  acc : Option Access
  frames : KV Nat FrameUse
  page : Page
  halted : Bool
  held : Bool
  fin : Bool
  deriving DecidableEq, Repr

/-- Another agent, of this device or another, by its endpoint (R206, R262); of this device with the launch it ran in, else 0. -/
structure Sender where
  ep : Nat
  agent : AgentKey
  launch : Nat
  deriving DecidableEq, Repr

/-- Who writes core storage (R29, R206): a command of this agent's own engine, or another agent by an XWR with its number. -/
inductive Writer where
  | own (xchg : Bool) (seq : Nat)
  | other (a : Sender) (seq : Nat)
  deriving DecidableEq, Repr

/-- An engine write of core storage that the program has not observed (R29): the value before it, who wrote, and when the
program observed it. -/
structure Unobs where
  col : Nat
  place : Place
  old : PlaceV
  by_ : Writer
  obs : Option Nat
  deriving DecidableEq, Repr

/-- An agent register that an AGEN command writes, unobserved so far (R170): the value once it has performed, and whether the program
wrote the register after the command issued. Until the observation the register itself holds what it held beside this write. -/
structure AAlt where
  reg : BitVec 4
  seq : Nat
  written : Option Word
  clash : Bool
  deriving DecidableEq, Repr

/-- An event of the agent's own that a sender caused (R206): the command that shows it when it is observed, the
sender, and the last XCHG command that the sender had observed before it caused the event. -/
structure Caused where
  xchg : Bool
  seq : Nat
  by_ : Sender
  seen : Nat
  deriving DecidableEq, Repr

/-- A descriptor slot whose load the program has not observed (R169): the TDESC's number and the descriptor before it. -/
structure TdAlt where
  slot : Nat
  seq : Nat
  old : Option (BitVec 512)
  deriving DecidableEq, Repr

/-- The overlay load (R85): its address, the steps of its present item so far, whether it is complete, the fault cause it found (R286
kind 12), where its item stands with the walkers (R233), and where its translations have led so far (R232). -/
structure Overlay where
  addr : Word
  words : Nat
  acc : Option Access
  done : Bool
  err : Option Nat
  page : Page
  frames : KV Nat FrameUse
  deriving DecidableEq, Repr

/-- A PHASE that waits (R79): the scope, the commands it covers, whether its step has been taken. -/
structure PhaseReq where
  fabric : Bool
  wait : Bool
  aSeq : Nat
  xSeq : Nat
  deriving DecidableEq, Repr

/-- A result of the sequencer that is due in the next strand cycle (R23). -/
inductive Pend where
  | x (r : BitVec 4) (v : Word)
  | a (r : BitVec 4) (v : Word)
  | fpc (v : BitVec 4)
  | ovf (v : BitVec 14)
  | colset (r : BitVec 4) (c : ColSet)
  | crt (r : BitVec 3) (c : Crt)
  | rot (rowsz : Nat) (tilesz : Nat)
  | observe (xchg : Bool) (n : Nat)
  deriving DecidableEq, Repr

/-- The instruction word before the next one in the text (R49, R58). -/
structure Prev where
  t : Nat
  eng : Eng
  idx : Nat
  litsOwned : Nat
  deriving DecidableEq, Repr

/-- A fault of its place in the text that a word has, while its other checks are made (R287): an order fault with the issue time it
computes (R49), or the overrun of the loop iteration `i` that began at `b` (R51). -/
inductive LateFault where
  | order (T : Nat)
  | overrun (b i : Nat)
  deriving DecidableEq, Repr

/-- The sequencer of an agent (R12). `skip`: the words that RESUME mode 1 passes over in this strand cycle (R288); `late`: the
fault that the last word has by its place in the text, while its other checks are made (R49, R51, R287); `overlaid`: the running bank
holds an overlay, whose header gave its length (R85), and not the launch image. -/
structure Sqr where
  text0 : KV Nat Word
  text1 : KV Nat Word
  len0 : Nat
  len1 : Nat
  overlaid : Bool
  pc : Nat
  bank : Bool
  x : Vector Word 16
  loops : List Loop
  rets : List Nat
  refs : Refs
  vrot : Nat
  mrot : Nat
  rowsz : Nat
  tilesz : Nat
  p : BitVec 7
  fpc : BitVec 4
  ovf : BitVec 14
  pend : List Pend
  prev : Option Prev
  jump : Option Jump
  head : Option (Nat × Nat × Bool × Nat)
  leaving : Bool
  halted : Bool
  ovly : Option Overlay
  phase : Option PhaseReq
  yield : Option (BitVec 32)
  mmaFree : Nat
  skip : List Nat
  late : Option LateFault
  bad : Bool
  deriving DecidableEq, Repr

/-- What SWAP copies for a replay (R84, R220). -/
structure SwapCopy where
  t : Nat
  retry : Nat
  sqr : Sqr
  queues : Queues
  cores : KV Nat (Vector (BitVec 32) 16 × BitVec 8)
  deriving DecidableEq, Repr

/-- A finished translation (R231): the descriptor and the tile-table entry and, for a local frame, the machine frame and its
write bit. -/
structure Trans where
  desc : BitVec 512
  ent : BitVec 128
  local_ : Option (Nat × Bool)
  deriving DecidableEq, Repr

/-- Device memory (R223, R224): bytes in canonical form and the poisoned 64-byte lines, rising. -/
structure Mem where
  cells : List Host.Cell
  pois : List Nat
  deriving DecidableEq, Repr

/-- What an address that is not listed reads as: zero, clean (R316). -/
def Mem.unlisted : Byte := 0

/-- Memory with nothing listed. -/
def Mem.empty : Mem := ⟨[], []⟩

/-- The keys rise strictly. -/
def rising : List Nat → Bool
  | [] => true
  | [_] => true
  | a :: b :: l => decide (a < b) && rising (b :: l)

/-- The canonical form: addresses rise strictly and no listed byte is the one an unlisted address reads as. -/
def Mem.wf (m : Mem) : Bool :=
  rising (m.cells.map (·.1)) && m.cells.all (fun c => decide (c.2 ≠ Mem.unlisted)) && rising m.pois

/-- The view of an agent (R196): the snapshot and the place in the log of writes where it was taken. -/
structure View where
  mem : Mem
  at_ : Nat
  deriving DecidableEq, Repr

/-- An XCHG message that an agent has sent (R295, R296): its command, when, and the endpoint or group and the agent it went to. -/
structure Sent where
  seq : Nat
  at_ : Nat
  grp : Bool
  dst : Nat
  dag : AgentKey
  deriving DecidableEq, Repr

/-- A word that an agent's sequencer issued: its strand cycle, engine, text index and bank, and the word. -/
structure Issued where
  t : Nat
  eng : Eng
  idx : Nat
  bank : Bool
  word : Word
  deriving DecidableEq, Repr

/-- One (strand, row) pair: sequencer, queues, engines, memory view and cores (R8, R12, R24, R27, R196). `xdone`: X1 commands
that have completed, against which a loss may still be recorded (R275). `begun`: its view for its first step is taken (R196). `seenX`, `caused`, `bseen`: what the chain of R206
needs: the last XCHG command observed, the events that senders caused, and what stood observed at each write of B. `recent`,
`landed`: the words issued and the results landed in the last strand cycles, against which the shadow may still speak (R289): of a
result, the issue time, the column and the place. -/
structure Agent where
  sqr : Sqr
  q : Queues
  swap : Option SwapCopy
  pipe : KV Nat PipeWord
  beats : KV Nat Beat
  a : Vector Word 16
  aAlt : List AAlt
  td : Vector (Option (BitVec 512)) 16
  tdAlt : List TdAlt
  colset : Vector ColSet 16
  crt : Vector Crt 8
  tca : Nat
  tcx : Nat
  seqA : Nat
  seqX : Nat
  seenX : Nat
  caused : List Caused
  acmds : List ACmd
  xcmds : List XCmd
  xdone : List XCmd
  begun : Bool
  haltA : Bool
  haltX : Bool
  v : View
  b : KV Nat (Word × Bool)
  bseen : KV Nat Nat
  tcache : KV (Nat × Nat) Trans
  phaseLog : List Nat
  sentLog : List Sent
  unobs : List Unobs
  recent : List Issued
  landed : List (Nat × Nat × Place)
  cores : KV Nat Core
  deriving DecidableEq, Repr

/-- The sequencer of an agent that nothing has launched. -/
def Sqr.init : Sqr where
  text0 := []
  text1 := []
  len0 := 0
  len1 := 0
  overlaid := false
  pc := 0
  bank := false
  x := Vector.replicate 16 0
  loops := []
  rets := []
  refs := Refs.all 0
  vrot := 0
  mrot := 0
  rowsz := 0
  tilesz := 0
  p := 0
  fpc := 1
  ovf := 0x0005
  pend := []
  prev := none
  jump := none
  head := none
  leaving := false
  halted := false
  ovly := none
  phase := none
  yield := none
  mmaFree := 0
  skip := []
  late := none
  bad := false

/-- An agent at launch, before its record's values are set (R12, R27); sdim is 0 (log 9: DESIGN CHOICE). -/
def Agent.init : Agent where
  sqr := Sqr.init
  q := Queues.empty
  swap := none
  pipe := []
  beats := []
  a := Vector.replicate 16 0
  aAlt := []
  td := Vector.replicate 16 none
  tdAlt := []
  colset := Vector.replicate 16 ⟨BitVec.allOnes 48, false, 0⟩
  crt := Vector.replicate 8 ⟨8, 2, false, 50⟩
  tca := 0
  tcx := 0
  seqA := 0
  seqX := 0
  seenX := 0
  caused := []
  acmds := []
  xcmds := []
  xdone := []
  begun := false
  haltA := false
  haltX := false
  v := ⟨Mem.empty, 0⟩
  b := []
  bseen := []
  tcache := []
  phaseLog := []
  sentLog := []
  unobs := []
  recent := []
  landed := []
  cores := []

/-- The state of a strand (R244). -/
inductive SState where
  | absent | admitted | running | stalled | frozen | evicting | evicted | rephasing | halted
  deriving DecidableEq, Repr

/-- The code of a strand state (R244). -/
def SState.code : SState → Nat
  | .absent => 0 | .admitted => 1 | .running => 2 | .stalled => 3 | .frozen => 4 | .evicting => 5
  | .evicted => 6 | .rephasing => 7 | .halted => 8

/-- A fault record (R284). -/
structure FaultRec where
  lid : Word
  word : Word
  seq : Word
  stc : Word
  op0 : Word
  op1 : Word
  item : BitVec 16
  col : BitVec 6
  rep : BitVec 4
  kind : BitVec 4
  cause : BitVec 8
  strand : BitVec 4
  part : BitVec 3
  row : BitVec 5
  bank : Bool
  tidx : BitVec 14
  srcv : Bool
  srcidx : BitVec 14
  srcbank : Bool
  aux : BitVec 32
  deriving DecidableEq, Repr

/-- A record with every field zero. -/
def FaultRec.zero : FaultRec :=
  ⟨0, 0, 0, 0, 0, 0, 0, 0, 0, 0, 0, 0, 0, 0, false, 0, false, 0, false, 0⟩

/-- The values of a launch record that stay with the strand (R306). -/
structure Launch where
  lid : Word
  nrows : Nat
  nunits : Nat
  nkb : Nat
  tlen : Nat
  depths : List Nat
  tokens : List Nat
  limit : Nat
  fabric : Bool
  startAt : Option Nat
  catb : Nat
  catn : Nat
  ccnt : Nat
  gid : BitVec 32
  jid : BitVec 32
  gcnt : Nat
  jcnt : Nat
  td0 : BitVec 512
  deriving DecidableEq, Repr

/-- A launch record with every value zero. -/
def Launch.zero : Launch :=
  ⟨0, 0, 0, 0, 0, [], [], 0, false, none, 0, 0, 0, 0, 0, 0, 0, 0⟩

/-- One layer of an eviction image (R292, R293): its offset in the area, the key of the words it holds there, ordinal, stime and (S,P) at
the cut, the grain, and the tiles and folio blocks it holds. The byte layout of a layer is not given (log 26: DESIGN CHOICE). -/
structure Layer where
  at_ : Nat
  key : Nat
  ordinal : Nat
  base : Bool
  stime : Nat
  scode : BitVec 3
  phase : BitVec 4
  yieldGrain : Bool
  bytes : Nat
  tiles : List (AgentKey × Nat × Nat)
  blocks : List (AgentKey × Nat × Nat)
  deriving DecidableEq, Repr

/-- What a word waits for while it stalls (R25, R78–R80, R84–R86, R185): a queue with something in it, a queue with room, room for
entries of a result queue, a timeline counter, engines that have completed every command, or the overlay and the waits of
its trailer. -/
inductive StallCond where
  | filled (q : Nat)
  | open_ (q : Nat)
  | room (q n : Nat)
  | reaches (tcx : Bool) (n : Nat)
  | idle
  | overlay
  deriving DecidableEq, Repr

/-- A memstat register (R218) and the corrections of the present scrub pass by bank (R217). -/
structure Memstat where
  fv : Bool
  fbank : BitVec 5
  spare : Bool
  spareUsed : Bool
  ucnt : BitVec 8
  ccnt : BitVec 8
  corr : KV Nat Nat
  pass : Nat
  deriving DecidableEq, Repr

/-- A memstat register at reset. -/
def Memstat.init : Memstat := ⟨false, 0, false, false, 0, 0, [], 0⟩

/-- A strand of a partition (R244 and the launch that runs in it). `base`, `statBase`: the agents and the memstat
registers as the strand cycle that is issuing found them; `tquad`: the quad
that an in-field test strand tests (R256); `lastRan`: the fabric time at which the launch started to run, or at which it was last cut for an
eviction (R295); `work`: what the front end has under way with its words in td0 (R209). -/
structure Strand where
  st : SState
  scode : BitVec 3
  phase : BitVec 4
  nscode : BitVec 3
  nphase : BitVec 4
  rpp : Bool
  mat : Bool
  ctx : BitVec 2
  priv : Bool
  evp : Bool
  ist : Bool
  tquad : Nat
  stime : Nat
  wstall : Nat
  timer : Bool
  left : SState
  freeze : Option (Nat × Nat)
  rephaseAt : Option Nat
  cutDone : Bool
  l : Launch
  bases : List Nat
  serial : Nat
  vcp : Nat
  era : Nat
  cancelled : Option Nat
  finalDone : Bool
  grace : Option Nat
  lastRan : Option Nat
  area : Nat × Nat
  yieldMask : Option (List (Nat × BitVec 32))
  layers : List Layer
  recs : List FaultRec
  base : List (AgentKey × Agent)
  statBase : KV MemId Memstat
  replay : Option Nat
  startAt : Nat
  atEntry : Nat
  work : Option Work
  deriving DecidableEq, Repr

/-- A strand number that holds nothing (R316). -/
def Strand.absent : Strand where
  st := .absent
  scode := 0
  phase := 0
  nscode := 0
  nphase := 0
  rpp := false
  mat := false
  ctx := 0
  priv := false
  evp := false
  ist := false
  tquad := 0
  stime := 0
  wstall := 0
  timer := false
  left := .absent
  freeze := none
  rephaseAt := none
  cutDone := false
  l := Launch.zero
  bases := []
  serial := 0
  vcp := 0
  era := 0
  cancelled := none
  finalDone := false
  grace := none
  lastRan := none
  area := (0, 0)
  yieldMask := none
  layers := []
  recs := []
  base := []
  statBase := []
  replay := none
  startAt := 0
  atEntry := 0
  work := none

/-- The fabric counters of a partition (R281). -/
structure Counters where
  ftx : Word
  ftxDrop : Word
  frx : Word
  flate : Word
  fexp : Word
  fnoslot : Word
  fnorcv : Word
  fcrc : Word
  fmal : Word
  fhop : Word
  fdiag : Word
  fdir : Word
  fxor : Word
  fdec : Word
  frsq : Word
  floss : Word
  fundel : Word
  deriving DecidableEq, Repr

/-- Every counter at zero. -/
def Counters.zero : Counters := ⟨0, 0, 0, 0, 0, 0, 0, 0, 0, 0, 0, 0, 0, 0, 0, 0, 0⟩

/-- The layout entry of a partition that does not exist (R239). -/
def LayoutEntry.zero : LayoutEntry := ⟨false, 0, 0, 0, 0, 0, 0, 0, 0, 0, 0⟩

/-- The migwm register and the lines of its frame that have committed (R238). -/
structure Migwm where
  act : Bool
  bank : BitVec 8
  wm : BitVec 23
  lines : Nat
  deriving DecidableEq, Repr

/-- A launch or re-phase that waits for a commit frame: the strands moved with their new placement (R252). -/
structure Move where
  strands : List (Nat × BitVec 3 × BitVec 4)
  newcomer : Option Nat
  cancelNew : Option Nat
  deriving DecidableEq, Repr

/-- A fault record on its way to the ring of a VCP: the VCP, the creation of its queue that the record is for (R325), and
the record. -/
structure Post where
  vcp : Nat
  era : Nat
  rec_ : FaultRec
  deriving DecidableEq, Repr

/-- What of the machine waits for a host-link request to be sent (R255, R297): a fault record that it writes or translates for, a read of
the front end for the queue that a VCP has, or the reads that create a queue. -/
inductive Errand where
  | post (e : Post)
  | ask (vcp era : Nat)
  | create (vcp : Nat) (qbase : Word)
  deriving DecidableEq, Repr

/-- The host-link requests of one kind (R255): the balance, the requests that wait for budget, oldest first, each with its charge
and its errand, if any, and how many have been sent. -/
structure LinkQ where
  bal : Int
  wait : List (Nat × Option Errand)
  sent : Nat
  deriving DecidableEq, Repr

/-- A partition (R6, R239, R242, R254, R255, R269, R281). -/
structure Part where
  lay : LayoutEntry
  mc : Nat
  due : Nat
  slots : Vector (Option (BitVec 4)) 16
  bdone : Bool
  stretched : Bool
  nstretched : Nat
  energy : Nat
  ebud : Nat
  rd : LinkQ
  wrq : LinkQ
  ats : LinkQ
  move : Option Move
  fq : Vector Word 8
  sentBytes : KV (Nat × Nat) Nat
  migwm : Migwm
  spare : Nat
  dropped : List (BitVec 8)
  ctr : Counters
  deriving DecidableEq, Repr

/-- A partition at reset. -/
def Part.init : Part where
  lay := LayoutEntry.zero
  mc := 0
  due := 0
  slots := Vector.replicate 16 none
  bdone := false
  stretched := false
  nstretched := 0
  energy := 0
  ebud := 0
  rd := ⟨0, [], 0⟩
  wrq := ⟨0, [], 0⟩
  ats := ⟨0, [], 0⟩
  move := none
  fq := Vector.replicate 8 0x2020202020202020
  sentBytes := []
  migwm := ⟨false, 0, 0, 0⟩
  spare := 0
  dropped := []
  ctr := Counters.zero

/-- Where a message of this device comes from, as the model keeps it beside the message: the launch of the agent that sent it, the number of
its command, the last XCHG command that the program had observed when that issued (R206), and of an AGEN item its place in the tensor and its
length in bytes (R236). -/
structure Origin where
  serial : Nat
  seq : Nat
  seen : Nat
  item : Option (Word × Nat)
  deriving DecidableEq, Repr

/-- A fragment that waits to leave: its partition, whether it is charged to the quota, whether it is delivered within
the device, and the command it belongs to (R268, R269, R324), and where its message comes from. -/
structure OutFrag where
  part : Nat
  charged : Bool
  within : Bool
  owner : Option (AgentKey × Nat)
  from_ : Option Origin
  f : Frag
  deriving DecidableEq, Repr

/-- How far a decode slot is (R270–R275). -/
inductive SlotState where
  | collecting
  | decoded
  | delivering
  deriving DecidableEq, Repr

/-- A decode slot (R270): the fragments stored, in order, and the decoded message; `from_`: where a message of this device comes from. -/
structure Slot where
  key : MKey
  part : Nat
  from_ : Option Origin
  st : SlotState
  hdr : Frag
  frags : List Frag
  dtime : BitVec 16
  rty : Bool
  resendBy : Option Nat
  gotResent : Bool
  lost : Bool
  entered : Bool
  msg : List Byte
  pois : List Bool
  prog : Nat
  acc : Option Access
  recvSeq : Option Nat
  page : Page
  deriving DecidableEq, Repr

/-- An entry of the accession table (R272): the key, its partition, whose mesh cycles count (R270), its dtime, whether it named no admitted agent (R265), and whether it
still waits for the later dtime of a resend that was asked for (R272, R274), and the message's tag. -/
structure Accession where
  key : MKey
  part : Nat
  dtime : BitVec 16
  norcv : Bool
  later : Bool
  tag : BitVec 32
  deriving DecidableEq, Repr

/-- A fragment under fdelayN, with the time at which it is handled (R280). -/
structure Delayed where
  plane : Nat
  until_ : Nat
  f : Frag
  deriving DecidableEq, Repr

/-- The fabric side of the device (R260–R280). `lag`: the nanoseconds by which fabric time is still to be held back; `slewAt`: the real
time from which it may be slewed again (R279). `inside`: the fragments of messages within the device that have left and that the decode unit is
still to handle in this mesh cycle (R271, R324). -/
structure Fabric where
  ports : Vector (BitVec 2) 32
  fabid : Word
  written : Bool
  groups : KV Nat Word
  fdrop : Vector Word 8
  fdelay : Vector Word 8
  outq : List OutFrag
  wire : List (Nat × Frag)
  delayed : List Delayed
  slots : List Slot
  acc : List Accession
  ftime : Nat
  ftoff : BitVec 32
  lag : Nat
  slewAt : Nat
  inside : List OutFrag
  deriving DecidableEq, Repr

/-- The fabric at reset. -/
def Fabric.init : Fabric where
  ports := Vector.replicate 32 0
  fabid := 0
  written := false
  groups := []
  fdrop := Vector.replicate 8 0
  fdelay := Vector.replicate 8 0
  outq := []
  wire := []
  delayed := []
  slots := []
  acc := []
  ftime := 0
  ftoff := 0
  lag := 0
  slewAt := 0
  inside := []

/-- A packet as fetched: its words and the ring index after it (R302, R305). -/
structure Packet where
  words : List Word
  next : Nat
  deriving DecidableEq, Repr

/-- A nested ring under IB (R303): its IOVA, its length, the next word to fetch, the packets fetched, and the index after the packet
taken last. -/
structure Nested where
  iova : Word
  len : Nat
  pos : Nat
  fetched : List Packet
  next : Nat
  deriving DecidableEq, Repr

/-- A WAITMEM in progress (R303). -/
structure WaitMem where
  c : WCond
  addr : Word
  val : Word
  mask : Word
  deriving DecidableEq, Repr

/-- A REPEAT of packets in progress (R303): the body, what is left of the present pass, the passes to come, and how many packets of the
body are still to be fetched. -/
structure PacketRep where
  body : List Packet
  rest : List Packet
  left : Nat
  need : Nat
  deriving DecidableEq, Repr

/-- A SIGNAL in progress (R303): it waits until every earlier launch of the queue has completed. -/
structure Signal where
  fabric : Bool
  fence : Bool
  addr : Word
  addend : Word
  next : Nat
  deriving DecidableEq, Repr

/-- A read of host memory that the front end has asked for on behalf of a VCP (R255, R297): none, that of the page's tail, or that of the
next packet, and whether its request has been sent. -/
inductive Ask where
  | none
  | tail (sent : Bool)
  | packet (sent : Bool)
  deriving DecidableEq, Repr

/-- A virtual command processor (R298, R300) and the front end's work on it (R301–R305). `era`: which creation of its queue this
is, so that no record of an earlier one enters its ring (R325); `refetch`: how many packets an FFENCE waits to have fetched again (R305);
`work`: the packet whose words are being read or written (R209). -/
structure Vcp where
  qbase : Word
  qsize : Word
  head : Word
  tail : Word
  fring : Word
  fhead : Word
  ftail : Word
  stopped : Bool
  dropBit : Bool
  qerr : BitVec 8
  dropCnt : Nat
  ctlPage : Word
  td0dPage : Word
  fencePage : Word
  part : BitVec 3
  hv : Bool
  hold : Bool
  smask : BitVec 16
  td0d : Word
  td0 : BitVec 512
  fence : Word
  fenceSet : Bool
  s2inv : Word
  tailSeen : Word
  fetched : List Packet
  nested : List Nested
  rep : Option PacketRep
  wait : Option WaitMem
  sig : Option Signal
  next : Nat
  active : Bool
  ask : Ask
  skip : List (CLevel × Word)
  refetch : Nat
  work : Option Work
  created : Bool
  era : Nat
  deriving DecidableEq, Repr

/-- A VCP page at reset (R298, R300). -/
def Vcp.init : Vcp where
  qbase := 0
  qsize := 0
  head := 0
  tail := 0
  fring := 0
  fhead := 0
  ftail := 0
  stopped := false
  dropBit := false
  qerr := 0
  dropCnt := 0
  ctlPage := 0
  td0dPage := 0
  fencePage := 0
  part := 0
  hv := false
  hold := false
  smask := 0
  td0d := 0
  td0 := 0
  fence := 0
  fenceSet := false
  s2inv := 0
  tailSeen := 0
  fetched := []
  nested := []
  rep := none
  wait := none
  sig := none
  next := 0
  active := false
  ask := .none
  skip := []
  refetch := 0
  work := none
  created := false
  era := 0

/-- Whose item waits on a page request: an engine's command, the delivery of a message, an overlay load, or nobody any more, whose entry stays held
until its response (R234). -/
inductive Waiter where
  | agen (a : AgentKey) (seq : Nat)
  | xchg (a : AgentKey) (seq : Nat)
  | slot (key : MKey)
  | overlay (a : AgentKey) (addr : Word)
  | gone
  deriving DecidableEq, Repr

/-- A page-request record (R233) and whether it uses one of its partition's reserved entries (R235). -/
structure PageReq where
  rec_ : BitVec 256
  who : Waiter
  part : Nat
  reserved : Bool
  deriving DecidableEq, Repr

/-- A physical fault that is present (log 7: DESIGN CHOICE): an error pattern in a line of an on-chip memory (symbol, codeword, value);
the same once a read has found errors that it does not mend, where the places of the line show what the read delivers (`got`: the errors in
it, `lost`: whether it is uncorrectable, `clean`: the places that hold no poison of their own); a byte error or lost line of device memory, a residue that does not match in the next product to land at an array column
of a core, or queue-pointer copies of an agent that differ. -/
inductive Phys where
  | line (m : MemId) (line : Nat) (errs : List (Nat × Nat × Byte))
  | found (m : MemId) (line : Nat) (errs got : List (Nat × Nat × Byte)) (lost : Bool) (clean : List Place)
  | dev (line : Nat) (bytes : List (Nat × Byte))
  | residue (a : AgentKey) (col : Nat) (arrayCol : Nat) (both : Bool)
  | queueCopy (a : AgentKey)
  deriving DecidableEq, Repr

/-- A write that the race set of R199 may return: the writer (none for a commit), the word, its value and poison; `echo`: the word was not
written, but its line's poison changed (R197). -/
structure WLog where
  by_ : Option AgentKey
  wa : Nat
  val : Word
  pois : Bool
  echo : Bool
  deriving DecidableEq, Repr

/-- The stage of a layout commit (R314). -/
inductive Commit where
  | idle
  | writing (l : List LayoutEntry)
  | written (l : List LayoutEntry)
  deriving DecidableEq, Repr

/-- The configuration record in force (R312): its counter, which is the highest accepted, the defective rows, the island voltage trims,
whose coding and width are not given (log 95: DESIGN CHOICE), and the default layout. -/
structure CfgRec where
  ctr : Word
  rows : BitVec 32
  trims : BitVec 128
  lay : List LayoutEntry
  deriving DecidableEq, Repr

/-- No record has been accepted. -/
def CfgRec.none_ : CfgRec := ⟨0, 0, 0, []⟩

/-- The management processor (R310–R316) and the in-field tests (R256, R295). `image`: the slot of the running image; `trims`: the
trims applied to the islands (R316); `flash`: the layout that the last commit left in flash (R314); `cause`: of a reset, until a RESYNC
reports it (R315). -/
structure Mgmt where
  slotOk : Bool × Bool
  image : Nat
  recovery : Bool
  cfg : CfgRec
  trims : BitVec 128
  flash : Option (List LayoutEntry)
  inForce : List LayoutEntry
  seqNo : Nat
  commit : Commit
  notDone : Bool
  limit : Nat
  halved : Bool
  cause : Nat
  suspects : List Nat
  lastPass : KV Nat Nat
  overdue : List Nat
  responses : List (Nat × List Word)
  deriving DecidableEq, Repr

/-- The management processor at reset: nothing loaded, no layout committed, the energy limit at the most it can be (log 12: DESIGN CHOICE). -/
def Mgmt.init : Mgmt where
  slotOk := (true, true)
  image := 0
  recovery := false
  cfg := CfgRec.none_
  trims := 0
  flash := none
  inForce := []
  seqNo := 0
  commit := .idle
  notDone := false
  limit := 200000
  halved := false
  cause := 0
  suspects := []
  lastPass := []
  overdue := []
  responses := []

/-- The strand cycle whose words are issuing (R11): the strand, the rows still to do (the first is the present one), and
whether the present row has begun. -/
structure Cyc where
  key : StrandKey
  rows : List Nat
  started : Bool
  deriving DecidableEq, Repr

/-- A launch that has run, as the suspicion records need it (R295): its agent, its record's VCP, when it was launched, until when it ran,
and when it took its phase steps and sent its messages. -/
structure Ran where
  key : AgentKey
  lid : Word
  vcp : Nat
  era : Nat
  startAt : Nat
  ranTo : Nat
  phaseLog : List Nat
  sentLog : List Sent
  deriving DecidableEq, Repr

/-- Modes of the host link (R297). -/
inductive LinkMode where
  | untrained | cxl4 | cxl3 | cxl2 | pcie7 | pcie6 | pcie5
  deriving DecidableEq, Repr

/-- The state of the device. `flags`: for a word of G the agents whose writes it holds, each with the last XCHG command it had
observed before (R206); `gcorr`: the corrected bytes of device memory (R224);
`hostReads`: what reads of the host through its window delivered, oldest first: address, word, poison (R209). `now` is real time in units of 1/1938 ns; `fresh` is the model's own free-value counter;
`pending` is the model's own list of moves to come, each with its time (log 1: DESIGN CHOICE). -/
structure State where
  now : Nat
  fresh : Nat
  serial : Nat
  pending : List (Nat × Instr)
  cyc : Option Cyc
  cur : AgentKey
  mem : Mem
  wlog : List WLog
  flags : KV Nat (List (Sender × Nat))
  gcorr : Nat
  fmaps : KV (Nat × Nat) Word
  host : KV Nat Word
  hostReads : List (Nat × Word × Bool)
  phys : List Phys
  memstat : KV MemId Memstat
  parts : KV Nat Part
  strands : KV StrandKey Strand
  agents : KV AgentKey Agent
  fab : Fabric
  vcps : KV Nat Vcp
  events : List Nat
  curVcp : Nat
  pageq : KV Nat PageReq
  unposted : List (Waiter × Nat × BitVec 256)
  link : LinkMode
  mgmt : Mgmt
  history : List Ran
  deriving DecidableEq, Repr

/-- Why a step stops: no rule of the spec stops the machine, so no step raises either reason. -/
inductive Fault where
  /-- An agent acts that its strand does not hold. Raised by no meaning: every step of an absent agent is refused without
  effect (R245). Safe. -/
  | noAgent
  deriving DecidableEq, Repr

/-- Why an instruction has no meaning. -/
inductive Refusal where
  /-- The instruction is not modelled yet. Raised only by an arm of `exec`. Safe. -/
  | notModelled (mnemonic : String)
  deriving DecidableEq, Repr

/-- The machine right after a module reset (R316): no layout, every strand absent, device memory zero and clean; no frame-map
entry is valid (log 5: DESIGN CHOICE). -/
def State.reset : State where
  now := 0
  fresh := 0
  serial := 0
  pending := []
  cyc := none
  cur := ⟨0, 0, 0⟩
  mem := Mem.empty
  wlog := []
  flags := []
  gcorr := 0
  fmaps := []
  host := []
  hostReads := []
  phys := []
  memstat := []
  parts := []
  strands := []
  agents := []
  fab := Fabric.init
  vcps := []
  events := []
  curVcp := 0
  pageq := []
  unposted := []
  link := .untrained
  mgmt := Mgmt.init
  history := []

end Sys2Proof.Machine
end

