-- ==== Sys2Proof/Machine/Ops.lean ====
section
/-! DEFINITION. The named operations over the state: its parts, the taking of a static-stream fault and the return from
one, stalls, fault records and their rings, queues, observation, and core storage as engines and CORE words see it. -/

namespace Sys2Proof

/-- The strand of an agent. -/
def AgentKey.sk (a : AgentKey) : StrandKey := ⟨a.part, a.strand⟩

end Sys2Proof

namespace Sys2Proof.Machine

open Sys2Proof

/-! ## Parts of the state -/

/-- The agent under a key. -/
def State.agent (s : State) (k : AgentKey) : Agent := KV.getD s.agents k Agent.init

/-- Replace an agent. -/
def State.setAgent (s : State) (k : AgentKey) (a : Agent) : State := { s with agents := KV.put s.agents k a }

/-- The strand under a key. (log 13: DEDUCED) -/
def State.strand (s : State) (k : StrandKey) : Strand := KV.getD s.strands k Strand.absent

/-- Replace a strand. -/
def State.setStrand (s : State) (k : StrandKey) (x : Strand) : State := { s with strands := KV.put s.strands k x }

/-- A partition. -/
def State.part (s : State) (p : Nat) : Part := KV.getD s.parts p Part.init

/-- Replace a partition. -/
def State.setPart (s : State) (p : Nat) (x : Part) : State := { s with parts := KV.put s.parts p x }

/-- A VCP. -/
def State.vcp (s : State) (v : Nat) : Vcp := KV.getD s.vcps v Vcp.init

/-- Replace a VCP. -/
def State.setVcp (s : State) (v : Nat) (x : Vcp) : State := { s with vcps := KV.put s.vcps v x }

/-- Rows of a quad mask, rising (R6). -/
def rowsOfMask (m : BitVec 8) : List Nat := (List.range 32).filter (fun r => m.getLsbD (r / 4))

/-- The rows of a partition (R6, R239); a defective row belongs to none (R312). -/
def State.rows (s : State) (p : Nat) : List Nat :=
  (rowsOfMask (s.part p).lay.qmask).filter (fun r => !s.mgmt.cfg.rows.getLsbD r)

/-- The agents of a strand, one for each row of its partition (R7, R8). -/
def State.agentsOf (s : State) (k : StrandKey) : List AgentKey := (s.rows k.part).map (fun r => ⟨k.part, k.strand, r⟩)

/-- The agent whose word issues. -/
def State.me (s : State) : Agent := s.agent s.cur

/-- Replace the agent whose word issues. -/
def State.setMe (s : State) (a : Agent) : State := s.setAgent s.cur a

/-- Change an agent for good: also as it was when the strand cycle that is issuing opened, so that an undone strand cycle keeps it. -/
def State.mapAgent (s : State) (k : AgentKey) (f : Agent → Agent) : State :=
  let x := s.strand k.sk
  let s := s.setAgent k (f (s.agent k))
  if x.base.isEmpty then s else s.setStrand k.sk { x with base := x.base.map (fun b => if b.1 = k then (b.1, f b.2) else b) }

/-- The strand of the agent whose word issues. -/
def State.myStrand (s : State) : Strand := s.strand s.cur.sk

/-- The sequencer of the agent whose word issues. -/
def State.sqr (s : State) : Sqr := s.me.sqr

/-- Replace the sequencer of the agent whose word issues. -/
def State.setSqr (s : State) (q : Sqr) : State := s.setMe { s.me with sqr := q }

/-- The strand cycle of the word that issues (R10). -/
def State.t (s : State) : Nat := s.myStrand.stime

/-- The core of an agent at a column. -/
def Agent.core (a : Agent) (c : Nat) : Core := KV.getD a.cores c Core.init

/-- Replace a core of an agent. -/
def Agent.setCore (a : Agent) (c : Nat) (x : Core) : Agent := { a with cores := KV.put a.cores c x }

/-- The next key of a free choice, and the state that has used it (log 3: DESIGN CHOICE). -/
def State.draw (s : State) : Nat × State := (s.fresh, { s with fresh := s.fresh + 1 })

/-- A free choice among the elements of a list, by its key (log 3: DESIGN CHOICE). -/
def choose {α : Type} (key : List Nat) (d : α) (l : List α) : α := l.getD (Config.pick key % l.length) d

/-- A free yes or no, by its key (log 3: DESIGN CHOICE). -/
def flip (key : List Nat) : Bool := Config.pick key % 2 == 1

/-- Sequencer register read; x0 reads zero (R12). -/
def Sqr.xr (q : Sqr) (r : BitVec 4) : Word := if r = 0 then 0 else q.x[r.toFin]

/-- Agent register read. -/
def Agent.ar (a : Agent) (r : BitVec 4) : Word := a.a[r.toFin]

/-- x register of the agent whose word issues. -/
def State.xr (s : State) (r : BitVec 4) : Word := s.sqr.xr r

/-- A sequencer result that lands with L = 1 (R23). -/
def State.pend (s : State) (p : Pend) : State := s.setSqr { s.sqr with pend := s.sqr.pend ++ [p] }

/-- Sign extension to 64 bits. -/
def sext {w : Nat} (v : BitVec w) : Word := v.signExtend 64

/-! ## Text (R12, R62) -/

/-- A bank of the text store. -/
def Sqr.text (q : Sqr) (bank : Bool) : KV Nat Word := if bank then q.text1 else q.text0

/-- A word of the text window; one that no load has written is undefined (R62, log 4: DESIGN CHOICE). -/
def State.textWord (s : State) (k : AgentKey) (bank : Bool) (i : Nat) : Word :=
  KV.getD ((s.agent k).sqr.text bank) i (Config.undefText (s.strand k.sk).serial k.row bank.toNat i)

/-- Store a word of the text window. -/
def Sqr.putText (q : Sqr) (bank : Bool) (i : Nat) (w : Word) : Sqr :=
  if bank then { q with text1 := KV.put q.text1 i w } else { q with text0 := KV.put q.text0 i w }

/-! ## Fault records (R284, R299, R325) -/

/-- Bits of a fault record, most significant field first. -/
def FaultRec.fields (r : FaultRec) : List (Nat × Nat) :=
  [(64, r.lid.toNat), (64, r.word.toNat), (64, r.seq.toNat), (64, r.stc.toNat), (64, r.op0.toNat),
   (64, r.op1.toNat), (16, r.item.toNat), (6, r.col.toNat), (2, 0), (4, r.rep.toNat), (4, r.kind.toNat),
   (8, r.cause.toNat), (4, r.strand.toNat), (3, r.part.toNat), (5, r.row.toNat), (1, r.bank.toNat),
   (14, r.tidx.toNat), (1, r.srcv.toNat), (14, r.srcidx.toNat), (1, r.srcbank.toNat), (13, 0), (32, r.aux.toNat)]

/-- The 512 bits of a fault record (R284). -/
def FaultRec.bits (r : FaultRec) : Nat := pack r.fields

/-- Store one 8-byte word of host memory. -/
def State.putHost (s : State) (iova : Nat) (w : Word) : State := { s with host := KV.put s.host iova w }

/-- Store words of host memory one after the other. -/
def State.putHostWords (s : State) (iova : Nat) (n v : Nat) : State :=
  (List.range n).foldl (fun s i => s.putHost (iova + 8 * i) (bv 64 (v / 2 ^ (64 * i)))) s

/-- Whether the ring of a VCP takes a record now (R299). -/
def Vcp.ringOpen (c : Vcp) : Bool := c.fring != 0 && decide ((c.fhead - c.ftail).toNat < 256)

/-! ## Fields of packed numbers -/

/-- Bits [hi:lo] of a word as a number. -/
def bits {w : Nat} (v : BitVec w) (hi lo : Nat) : Nat := v.toNat / 2 ^ lo % 2 ^ (hi + 1 - lo)

/-! ## Host-link budgets (R255) -/

/-- The oldest waiting request of a kind is sent: charged in full, a negative balance carried (R255). -/
def LinkQ.send (q : LinkQ) (c : Nat) : LinkQ := { bal := q.bal - c, wait := q.wait.tail, sent := q.sent + 1 }

/-- A word of a VCP page in host memory is to be written: a write request of its partition joins those that wait (R255, R297,
log 68: DESIGN CHOICE). -/
def State.owe (s : State) (v : Nat) : State :=
  let p := (s.vcp v).part.toNat
  let x := s.part p
  s.setPart p { x with wrq := { x.wrq with wait := x.wrq.wait ++ [(1, none)] } }

/-- The front end writes a record to the fault ring of a VCP, and then the page's fhead (R299). -/
def State.ringRec (s : State) (v : Nat) (r : FaultRec) : State :=
  let c := s.vcp v
  ((s.putHostWords (c.fring.toNat + 64 * (c.fhead.toNat % 256)) 8 r.bits).setVcp v { c with fhead := c.fhead + 1 }).owe v

/-- A record that finds the ring full, or none, is counted in the page's status and dropped (R299). -/
def State.dropRec (s : State) (v : Nat) : State :=
  let c := s.vcp v
  (s.setVcp v { c with dropBit := true, dropCnt := min 0xFFFFFFFF (c.dropCnt + 1) }).owe v

/-- CREATE A QUEUE (R298, R299, R300): the hypervisor-owned half takes effect, records count from 0, and no record for the queue before
it enters its ring (R325). The td0 descriptor is the image at td0d in host memory (R211, log 84: DESIGN CHOICE). (log 19: DEDUCED) -/
def State.createQueue (s : State) (n : Nat) (qbase : Word) : State :=
  let c := s.vcp n
  s.setVcp n { Vcp.init with
    qbase := qbase, qsize := c.qsize, tail := c.tail, fring := c.fring, ctlPage := c.ctlPage, td0dPage := c.td0dPage
    fencePage := c.fencePage, created := true, era := c.era + 1, part := bv 3 (bits c.ctlPage 2 0), hv := c.ctlPage.getLsbD 3
    hold := c.ctlPage.getLsbD 4, smask := bv 16 (bits c.ctlPage 31 16), td0d := c.td0dPage
    td0 := Config.td0Image c.td0dPage, fence := c.fencePage }

/-- A read that the front end asked for has been sent. -/
def State.askSent (s : State) (v era : Nat) : State :=
  let c := s.vcp v
  if c.era ≠ era then s
  else s.setVcp v { c with ask := match c.ask with
    | .none => .none
    | .tail _ => .tail true
    | .packet _ => .packet true }

/-- Read requests of a partition leave while the counter is above zero, and what waited for them goes on (R255). -/
def State.drainReads (s : State) (p : Nat) : Nat → State
  | 0 => s
  | n + 1 =>
    let x := s.part p
    match x.rd.wait with
    | [] => s
    | (c, e) :: _ =>
      if 0 < x.rd.bal then
        let s := s.setPart p { x with rd := x.rd.send c }
        (match e with
          | some (.ask v era) => s.askSent v era
          | some (.create v q) => s.createQueue v q
          | _ => s).drainReads p n
      else s

/-- A read request of a partition: sent at once, or after those that wait (R255). -/
def State.pushRead (s : State) (p c : Nat) (e : Option Errand) : State :=
  let x := s.part p
  (s.setPart p { x with rd := { x.rd with wait := x.rd.wait ++ [(c, e)] } }).drainReads p (x.rd.wait.length + 1)

/-- Write requests of a partition leave while the counter is above zero (R255). A fault record is written as its request leaves;
where the ring takes none then, no request is made (R299), and where its queue is gone, the record is dropped (R325). -/
def State.drainWrites (s : State) (p : Nat) : Nat → State
  | 0 => s
  | n + 1 =>
    let x := s.part p
    let drop := s.setPart p { x with wrq := { x.wrq with wait := x.wrq.wait.tail } }
    match x.wrq.wait with
    | [] => s
    | (c, some (.post e)) :: _ =>
      if !(s.vcp e.vcp).created || (s.vcp e.vcp).era != e.era then drop.drainWrites p n
      else if !(s.vcp e.vcp).ringOpen then (drop.dropRec e.vcp).drainWrites p n
      else if 0 < x.wrq.bal then ((s.setPart p { x with wrq := x.wrq.send c }).ringRec e.vcp e.rec_).drainWrites p n
      else s
    | (c, _) :: _ => if 0 < x.wrq.bal then (s.setPart p { x with wrq := x.wrq.send c }).drainWrites p n else s

/-- The write requests that wait leave as far as the budget lasts: a record brings one more, for the page's word (R255, R299). -/
def State.flushWrites (s : State) (p : Nat) : State := s.drainWrites p (2 * (s.part p).wrq.wait.length)

/-- A write request of a partition: sent at once, or after those that wait (R255). -/
def State.pushWrite (s : State) (p c : Nat) (e : Option Errand) : State :=
  let x := s.part p
  (s.setPart p { x with wrq := { x.wrq with wait := x.wrq.wait ++ [(c, e)] } }).flushWrites p

/-- A word of a VCP page in host memory is written (R255, R297). -/
def State.pageWrite (s : State) (v : Nat) : State := s.pushWrite (s.vcp v).part.toNat 1 none

/-- Two reads create a queue: of the page's hypervisor-owned half and of the td0 image, of one 64-byte unit each (R255, R300, log 68: DESIGN CHOICE). -/
def State.createReads (s : State) (p v : Nat) (qbase : Word) : State :=
  (s.pushRead p 1 none).pushRead p 1 (some (.create v qbase))

/-- Translation requests of a partition leave while the counter is above zero; what one translates for is then done
(R255, R297). -/
def State.drainAts (s : State) (p : Nat) : Nat → State
  | 0 => s
  | n + 1 =>
    let x := s.part p
    match x.ats.wait with
    | [] => s
    | (c, e) :: _ =>
      if 0 < x.ats.bal then
        let s := s.setPart p { x with ats := x.ats.send c }
        (match e with
          | some (.post e) => s.pushWrite p 1 (some (.post e))
          | some (.ask v era) => s.pushRead p 1 (some (.ask v era))
          | some (.create v q) => s.createReads p v q
          | none => s).drainAts p n
      else s

/-- A translation request of a partition: sent at once, or after those that wait (R255). -/
def State.pushAts (s : State) (p c : Nat) (e : Option Errand) : State :=
  let x := s.part p
  (s.setPart p { x with ats := { x.ats with wait := x.ats.wait ++ [(c, e)] } }).drainAts p (x.ats.wait.length + 1)

/-- Whether an access to queue memory at an IOVA needs a translation request first: what the device still holds of earlier
translations is not given (R297, log 68: DESIGN CHOICE). -/
def State.needsAts (s : State) (iova : Nat) : Bool := flip [73, s.now, s.fresh, iova]

/-- Whether a request carries a fault record. -/
def isPost (w : Nat × Option Errand) : Bool := match w.2 with
  | some (.post _) => true
  | _ => false

/-- A record for the queue that a VCP had at a creation (R299, R325): it goes to the ring by a write request of the partition, after
a translation request where one is needed or one of its records waits for one (R255, R297). -/
def State.postAs (s : State) (v era : Nat) (r : FaultRec) : State :=
  let c := s.vcp v
  let p := c.part.toNat
  if !c.created || c.era != era then s
  else if !c.ringOpen then (s.dropRec v).flushWrites p
  else if s.needsAts c.fring.toNat || (s.part p).ats.wait.any isPost then s.pushAts p 1 (some (.post ⟨v, era, r⟩))
  else s.pushWrite p 1 (some (.post ⟨v, era, r⟩))

/-- The front end writes a record to the fault ring of a VCP, or drops it and counts it (R299). -/
def State.postRec (s : State) (v : Nat) (r : FaultRec) : State := s.postAs v (s.vcp v).era r

/-- A record about a strand: it stays among the strand's pending faults and goes to the ring of the VCP whose LAUNCH
started the launch (R299, R325). -/
def State.record (s : State) (k : StrandKey) (r : FaultRec) : State :=
  let x := s.strand k
  (s.setStrand k { x with recs := x.recs ++ [r] }).postAs x.vcp x.era r

/-- The fields that name a strand and its launch. -/
def State.recFor (s : State) (k : StrandKey) : FaultRec :=
  { FaultRec.zero with lid := (s.strand k).l.lid, strand := bv 4 k.strand, part := bv 3 k.part }

/-- The fields that name an agent. -/
def State.recForAgent (s : State) (k : AgentKey) : FaultRec := { s.recFor k.sk with row := bv 5 k.row }

/-! ## Taking a static-stream fault, and leaving it (R30, R32, R284–R288) -/

/-- Freeze a strand for a reason: kind and cause. No timer runs, except after a stall timeout (R249). -/
def State.freezeStrand (s : State) (k : StrandKey) (kind cause : Nat) : State :=
  let x := s.strand k
  s.setStrand k { x with st := .frozen, freeze := some (kind, cause), timer := false }

/-- The record of a fault of the word at a text index of the agent whose word issues. (log 35: DEDUCED) -/
def State.faultRec (s : State) (idx kind cause : Nat) (op0 op1 : Word) (aux : Nat) : FaultRec :=
  let q := s.sqr
  let (si, st, sb, target) := q.head.getD (0, 0, false, 0)
  let src := q.head.isSome && decide (idx = target)
  { s.recForAgent s.cur with
    word := s.textWord s.cur q.bank idx
    stc := bv 64 s.t
    op0 := if kind = 1 then (if src then bv 64 st else 0) else op0
    op1 := op1
    rep := 0
    kind := bv 4 kind
    cause := bv 8 cause
    bank := q.bank
    tidx := bv 14 idx
    srcv := src
    srcidx := if src then bv 14 si else 0
    srcbank := src && sb
    aux := bv 32 aux }

/-- TAKE A STATIC-STREAM FAULT at the sequencer: the record, the freeze, and no further word of this row in this strand
cycle (R287, R138). What the strand cycle did is undone when it closes. A word that stands too late in the text has its order
fault, and one at the end of a loop iteration its kernel overrun, before every fault that R57 lists after it. -/
def State.raise (s : State) (idx kind cause : Nat) (op0 op1 : Word) (aux : Nat) : State :=
  if s.sqr.bad then s
  else
    let (kind, cause, op0, op1, aux) := match s.sqr.late with
      | some (.order T) => if 2 < kind then (3, 0, bv 64 T, 0, 0) else (kind, cause, op0, op1, aux)
      | some (.overrun b i) => if 3 < kind then (4, 0, bv 64 b, bv 64 i, 0) else (kind, cause, op0, op1, aux)
      | none => (kind, cause, op0, op1, aux)
    let r := s.faultRec idx kind cause op0 op1 aux
    ((s.setSqr { s.sqr with bad := true }).record s.cur.sk r).freezeStrand s.cur.sk kind cause

/-- The text index of the word that issues. -/
def State.idx (s : State) : Nat := (s.sqr.prev.map (·.idx)).getD 0

/-- An illegal word at its issue (R56). -/
def State.illegal (s : State) (c : Illegal) : State := s.raise s.idx 1 c.code 0 0 0

/-- A stall condition of the word that issues: the strand stalls unless a fault has frozen it (R25, R245). -/
def State.stall (s : State) : State :=
  let x := s.myStrand
  s.setStrand s.cur.sk { x with st := if x.st = .frozen then .frozen else .stalled }

/-! ## Queues (R24, R26, R220) -/

/-- Beat queue by number: q0–q5, q12, q13. -/
def Queues.beat (q : Queues) : Nat → BeatQ
  | 0 => q.q0 | 1 => q.q1 | 2 => q.q2 | 3 => q.q3 | 4 => q.q4 | 5 => q.q5 | 12 => q.q12 | _ => q.q13

/-- Replace a beat queue. -/
def Queues.setBeat (q : Queues) (n : Nat) (b : BeatQ) : Queues :=
  match n with
  | 0 => { q with q0 := b } | 1 => { q with q1 := b } | 2 => { q with q2 := b } | 3 => { q with q3 := b }
  | 4 => { q with q4 := b } | 5 => { q with q5 := b } | 12 => { q with q12 := b } | _ => { q with q13 := b }

/-- Result queue by number: q6 and q7. -/
def Queues.res (q : Queues) (n : Nat) : ResQ := if n = 6 then q.q6 else q.q7

/-- Replace a result queue. -/
def Queues.setRes (q : Queues) (n : Nat) (r : ResQ) : Queues :=
  if n = 6 then { q with q6 := r } else { q with q7 := r }

/-- The count of a token queue: q8–q11. -/
def Queues.tokens (q : Queues) : Nat → Nat
  | 8 => q.q8.length | 9 => q.q9 | 10 => q.q10.length | _ => q.q11

/-- Full: entries held, with those a replayable phase keeps, reach the depth (R65, R220). -/
def BeatQ.full (b : BeatQ) : Bool := decide (b.depth ≤ b.items.length + b.kept)

/-- Append a beat. -/
def BeatQ.push (b : BeatQ) (e : Beat) : BeatQ := { b with items := b.items ++ [e] }

/-- Remove the head beat; inside a replayable phase its place stays taken (R220). -/
def BeatQ.pop (b : BeatQ) (marked : Bool) : BeatQ :=
  { b with items := b.items.tail, kept := if marked then b.kept + 1 else b.kept, rd := (b.rd + 1) % max 1 b.depth }

/-- Remove the head result; inside a replayable phase its place stays taken (R220). -/
def ResQ.pop (r : ResQ) (marked : Bool) : ResQ :=
  { r with items := r.items.tail, kept := if marked then r.kept + 1 else r.kept, rd := (r.rd + 1) % 16 }

/-- Whether a queue is empty, as BQ and QSTAT see it (R65). -/
def Queues.isEmpty (q : Queues) (n : Nat) : Bool :=
  if n = 6 ∨ n = 7 then (q.res n).items.isEmpty
  else if 8 ≤ n ∧ n ≤ 11 then q.tokens n == 0
  else (q.beat n).items.isEmpty

/-- Whether a queue is full, as BQ and QSTAT see it (R65); tokens taken inside a replayable phase are not in the pool and do not count
(log 87: DESIGN CHOICE). -/
def Queues.isFull (q : Queues) (n : Nat) : Bool :=
  if n = 6 ∨ n = 7 then decide (16 ≤ (q.res n).items.length + (q.res n).kept)
  else if 8 ≤ n ∧ n ≤ 11 then q.tokens n == 255
  else (q.beat n).full

/-- Whether the head entry of a beat queue carries poison; false on an empty queue (R65). -/
def Queues.headPois (q : Queues) (n : Nat) : Bool :=
  match (q.beat n).items.head? with
  | some e => e.pois != 0
  | none => false

/-- Entries held, or the token count (R76). -/
def Queues.occ (q : Queues) (n : Nat) : Nat :=
  if n = 6 ∨ n = 7 then (q.res n).items.length
  else if 8 ≤ n ∧ n ≤ 11 then q.tokens n
  else (q.beat n).items.length

/-- The launch depth, 255 for token queues, 16 for result queues (R76). -/
def Queues.depth (q : Queues) (n : Nat) : Nat :=
  if n = 6 ∨ n = 7 then 16 else if 8 ≤ n ∧ n ≤ 11 then 255 else (q.beat n).depth

/-- Room for `k` reservations in a result queue (R78, R185). -/
def ResQ.room (r : ResQ) (k : Nat) : Bool := decide (r.items.length + r.resv + r.kept + k ≤ 16)

/-- Whether a replayable phase is open (R220). -/
def Agent.marked (a : Agent) : Bool := a.swap.isSome

/-! ## Core storage under engine accesses (R29) -/

/-- The poison bit of a place that holds undefined contents: the launch serial, the core, and the place (R15, log 4: DESIGN CHOICE). -/
def undefPois (serial row col : Nat) (place : List Nat) : Bool := flip (34 :: serial :: row :: col :: place)

/-- The value of a place: written, or undefined since launch (R15, log 4: DESIGN CHOICE). -/
def Core.place (c : Core) (serial row col : Nat) : Place → PlaceV
  | .row n => match KV.get? c.rows n with
    | some v => ⟨v.data, v.pois⟩
    | none => ⟨Config.undefRow serial row col n, undefPois serial row col [0, n]⟩
  | .unit n => match KV.get? c.units n with
    | some v => ⟨v.data.setWidth 1024, v.pois⟩
    | none => ⟨(Config.undefUnit serial row col n).setWidth 1024, undefPois serial row col [1, n]⟩
  | .kb n => match KV.get? c.kb n with
    | some v => ⟨v.data.setWidth 1024, v.pois⟩
    | none => ⟨(Config.undefKb serial row col n).setWidth 1024, undefPois serial row col [2, n]⟩

/-- Store a value at a place. -/
def Core.putPlace (c : Core) (v : PlaceV) : Place → Core
  | .row n => { c with rows := KV.put c.rows n ⟨v.data, v.pois⟩, dirtyT := c.dirtyT ||| bv 32 (2 ^ (n / 32)) }
  | .unit n => { c with units := KV.put c.units n ⟨v.data.setWidth 256, v.pois⟩,
                        dirtyB := c.dirtyB ||| bv 64 (2 ^ (n / 128)) }
  | .kb n => { c with kb := KV.put c.kb n ⟨v.data.setWidth 32, v.pois⟩ }

/-- The number of 32-byte units of a place. -/
def Place.quarters : Place → Nat
  | .row _ => 4
  | _ => 1

/-- A number for a place, so that choices about different places are independent. -/
def Place.code : Place → List Nat
  | .row n => [0, n]
  | .unit n => [1, n]
  | .kb n => [2, n]

/-- Mix two values 32 bytes at a time by free choices (R29). -/
def mix (key : List Nat) (p : Place) (a b : PlaceV) : PlaceV :=
  let d := (List.range p.quarters).foldl (fun (d : BitVec 1024) q =>
    if flip (q :: p.code ++ key) then
      let m : BitVec 1024 := (BitVec.allOnes 256).setWidth 1024 <<< (256 * q)
      (d &&& ~~~m) ||| (b.data &&& m)
    else d) a.data
  ⟨d, if flip (99 :: p.code ++ key) then b.pois else a.pois⟩

/-- A number for a writer, so that choices about different writers are independent. -/
def Writer.code : Writer → List Nat
  | .own xchg n => [xchg.toNat, n]
  | .other a n => [2, a.ep, a.agent.part, a.agent.strand, a.agent.row, n]

/-- What a CORE word issued at `t` reads from a place: each unobserved engine write leaves the old or the new value, 32
bytes at a time (R29, log 3: DESIGN CHOICE). -/
def Agent.coreRead (a : Agent) (serial row col t : Nat) (p : Place) : PlaceV :=
  let cur := (a.core col).place serial row col p
  let olds := a.unobs.filter (fun u => u.col == col && u.place == p &&
    (match u.obs with | none => true | some o => decide (t ≤ o)))
  olds.foldl (fun v u => mix ([1, serial, row, col, t] ++ u.by_.code) p v u.old) cur

/-- Whether a place holds a value the agent has commands in flight for: its history is kept (R29). -/
def Agent.keepHist (a : Agent) : Bool := !a.acmds.isEmpty || !a.xcmds.isEmpty

/-- What an engine command reads from a place: the value now, or one overwritten since the command issued, 32 bytes at
a time (R29, log 3: DESIGN CHOICE). -/
def Agent.engineRead (a : Agent) (serial row col : Nat) (xchg : Bool) (seq key : Nat) (p : Place) : PlaceV :=
  let c := a.core col
  let olds := c.hist.filter (fun h => h.1 = p ∧ seq ≤ (if xchg then h.2.2.2 else h.2.2.1))
  (olds.zipIdx).foldl (fun v h => mix [2, key, h.2] p v h.1.2.1) (c.place serial row col p)

/-- Remember the value a write replaces, while a command that may still read it is in flight (R29). -/
def Agent.remember (a : Agent) (serial row col : Nat) (p : Place) : Agent :=
  if a.keepHist then
    let c := a.core col
    a.setCore col { c with hist := c.hist ++ [(p, c.place serial row col p, a.seqA, a.seqX)] }
  else
    let c := a.core col
    if c.hist.isEmpty then a else a.setCore col { c with hist := [] }

/-- An engine write of a place (R29): the value before it stays readable until the program observes the write. -/
def Agent.engineWrite (a : Agent) (serial row col : Nat) (w : Writer) (p : Place) (v : PlaceV) : Agent :=
  let old := (a.core col).place serial row col p
  let a := a.remember serial row col p
  let a := a.setCore col ((a.core col).putPlace v p)
  { a with unobs := a.unobs ++ [⟨col, p, old, w, none⟩] }

/-- Whether the observation of command `n` of an engine observes a write: the agent's own commands up to `n` (R205), and what a
sender had seen applied before it caused one of those commands to show it (R206). -/
def Agent.sees (a : Agent) (xchg : Bool) (n : Nat) : Writer → Bool
  | .own x m => x == xchg && decide (m ≤ n)
  | .other k m => a.caused.any (fun c => c.xchg == xchg && decide (c.seq ≤ n) && c.by_ == k && decide (m ≤ c.seen))

/-- Mark writes as observed at strand cycle `t`; what an observed write has overwritten is seen no more (R29). -/
def markSeen (t : Nat) (seen : Unobs → Bool) : List Unobs → List Unobs
  | [] => []
  | u :: l =>
    let l := markSeen t seen l
    if u.obs.isNone && (seen u || l.any (fun w => w.col == u.col && w.place == u.place && w.obs.isSome))
    then { u with obs := some t } :: l else u :: l

/-- What a register holds after the writes `es` of it, in the order of their commands: each stands, except that one of a register that the
program wrote meanwhile, so that it may have come before that value, may be lost by a free choice. After a write that stands the later
ones come later still (R170). Also whether some write stands. (log 3: DESIGN CHOICE) -/
def settle (key : Nat) : Bool → List AAlt → Word → Word × Bool
  | taken, [], v => (v, taken)
  | taken, e :: es, v =>
    match e.written with
    | none => settle key taken es v
    | some w => if !taken && e.clash && flip [3, key, e.seq, e.reg.toNat] then settle key taken es v else settle key true es w

/-- The program observes command `n` of an engine at strand cycle `t` (R29, R169, R170, R205, R206). -/
def Agent.observe (a : Agent) (xchg : Bool) (n t : Nat) (key : Nat) : Agent :=
  let unobs := markSeen t (fun u => a.sees xchg n u.by_) (a.unobs.filter (fun u => match u.obs with
      | some o => decide (t < o + 50)
      | none => true))
  let a := { a with unobs := unobs, caused := a.caused.filter (fun c => !(c.xchg == xchg && decide (c.seq ≤ n))) }
  if xchg then { a with seenX := max a.seenX n }
  else
    let (out, stay) := a.aAlt.partition (fun e => decide (e.seq ≤ n))
    let held := fun (r : BitVec 4) => settle key false (out.filter (fun e => e.reg = r)) (a.ar r)
    { a with
      aAlt := stay.map (fun e => if (held e.reg).2 then { e with clash := false } else e)
      a := Vector.ofFn (fun r => (held (BitVec.ofFin r)).1)
      tdAlt := a.tdAlt.filter (fun e => decide (n < e.seq)) }

/-- The descriptor that an XCHG command takes from a slot: the one there, or one that a TDESC which the program had not observed has
replaced (R169, log 3: DESIGN CHOICE). -/
def Agent.tdAny (a : Agent) (seq : Nat) (slot : BitVec 4) : Option (BitVec 512) :=
  let cur := a.td[slot.toFin]
  choose [10, seq, slot.toNat, a.tdAlt.length] cur (cur :: (a.tdAlt.filter (fun e => e.slot = slot.toNat)).map (·.old))

/-- What a reader other than AGEN gets from an agent register: an engine write that the program has not observed leaves
the value before it or the value written (R170, log 3: DESIGN CHOICE). -/
def Agent.arAny (a : Agent) (key : Nat) (r : BitVec 4) : Word :=
  choose [4, key, r.toNat] 0 (a.ar r :: (a.aAlt.filter (fun e => e.reg = r)).filterMap (·.written))

/-- The program writes an agent register (L = 1): an engine write of a command already issued may come before or after it (R170). -/
def Agent.putA (a : Agent) (r : BitVec 4) (v : Word) : Agent :=
  { a with a := a.a.set r.toFin v, aAlt := a.aAlt.map (fun e => if e.reg = r then { e with clash := true } else e) }

/-- An AGEN command writes an agent register when it performs (R170, R185, R186); later AGEN commands already issued
take the value written. -/
def Agent.engineA (a : Agent) (seq : Nat) (r : BitVec 4) (v : Word) : Agent :=
  { a with
    aAlt := a.aAlt.map (fun e => if e.reg = r ∧ e.seq = seq then { e with written := some v } else e)
    acmds := a.acmds.map (fun c => if seq < c.seq then { c with a := c.a.set r.toFin v } else c) }

/-- The agent registers as an AGEN command samples them at issue: a register that an uncompleted earlier command has
written gives that value; one of a completed command that the program also wrote gives either value (R169, R170). -/
def Agent.sampleA (a : Agent) (key : Nat) : Vector Word 16 :=
  Vector.ofFn (fun r => (settle key false ((a.aAlt.filter (fun e => e.reg = BitVec.ofFin r)).map
    (fun e => if a.tca < e.seq then { e with clash := false } else e)) a.a[r]).1)

/-! ## Coordinates -/

/-- Field k of a coordinate register (R165). -/
def fieldOf (v : Word) (k : BitVec 2) : BitVec 16 := bv 16 (v.toNat / 2 ^ (16 * k.toNat))

/-- Replace field k of a coordinate register. -/
def setField (v : Word) (k : BitVec 2) (x : BitVec 16) : Word :=
  let sh := 16 * k.toNat
  (v &&& ~~~((0xFFFF : Word) <<< sh)) ||| (x.setWidth 64 <<< sh)

end Sys2Proof.Machine
end

