-- ==== Sys2Proof/Machine/Memory.lean ====
section
/-! DEFINITION. Device memory and the memory machine of spec/10: bytes and poisoned lines in canonical form, reads with
the race set, the phase buffer, phase steps, and the steps that write the global image. -/

namespace Sys2Proof.Machine

open Sys2Proof

/-! ## Bytes in canonical form -/

/-- The byte listed at an address, or the unlisted one. -/
def cellsGet : List Host.Cell → Nat → Byte
  | [], _ => Mem.unlisted
  | (k, v) :: l, a => if k = a then v else cellsGet l a

/-- Store a byte, keeping the canonical form: the unlisted value removes the entry. -/
def cellsPut : List Host.Cell → Nat → Byte → List Host.Cell
  | [], a, v => if v = Mem.unlisted then [] else [(a, v)]
  | (k, w) :: l, a, v =>
    if a < k then (if v = Mem.unlisted then (k, w) :: l else (a, v) :: (k, w) :: l)
    else if a = k then (if v = Mem.unlisted then l else (a, v) :: l)
    else (k, w) :: cellsPut l a v

/-- Add a line to the poisoned lines. -/
def linePut : List Nat → Nat → List Nat
  | [], a => [a]
  | k :: l, a => if a < k then a :: k :: l else if a = k then k :: l else k :: linePut l a

/-- Take a line out of the poisoned lines. -/
def lineDel : List Nat → Nat → List Nat
  | [], _ => []
  | k :: l, a => if k = a then l else k :: lineDel l a

/-- The byte at a machine address. -/
def Mem.byte (m : Mem) (a : Nat) : Byte := cellsGet m.cells a

/-- Store one byte. -/
def Mem.putByte (m : Mem) (a : Nat) (v : Byte) : Mem := { m with cells := cellsPut m.cells a v }

/-- The 8-byte word at a byte address, little-endian (R4). -/
def Mem.word (m : Mem) (a : Nat) : Word :=
  (List.range 8).foldl (fun w i => w ||| ((m.byte (a + i)).setWidth 64 <<< (8 * i))) 0

/-- Store an 8-byte word, little-endian. -/
def Mem.putWord (m : Mem) (a : Nat) (w : Word) : Mem :=
  (List.range 8).foldl (fun m i => m.putByte (a + i) ((w >>> (8 * i)).setWidth 8)) m

/-- The poison bit of the line that holds an address (R224). -/
def Mem.poisAt (m : Mem) (a : Nat) : Bool := m.pois.contains (a / 64)

/-- Set the poison bit of a line. -/
def Mem.setPois (m : Mem) (line : Nat) (p : Bool) : Mem :=
  { m with pois := if p then linePut m.pois line else lineDel m.pois line }

/-- One write of the memory machine: word address, value, poison. -/
abbrev WWrite := Nat × Word × Bool

/-- The poison a line takes from the writes of one step (R197). -/
def linePois (ws : List WWrite) (line : Nat) (old : Bool) : Bool :=
  let mine := ws.filter (fun w => w.1 / 64 = line)
  if mine.any (·.2.2) then true
  else if (List.range 8).all (fun i => mine.any (fun w => w.1 = 64 * line + 8 * i)) then false
  else old

/-- Enter writes into memory as one step (R197). -/
def Mem.commit (m : Mem) (ws : List WWrite) : Mem :=
  let m' := ws.foldl (fun m w => m.putWord w.1 w.2.1) m
  (ws.map (fun w => w.1 / 64)).eraseDups.foldl (fun m l => m.setPois l (linePois ws l (m.pois.contains l))) m'

/-! ## Lines of device memory with physical errors (R224) -/

/-- What a line with errors delivers (R224): a corrected byte counts; what cannot be corrected is delivered as stored, with poison;
the errors that stay in what is delivered. -/
structure DevOut where
  fixed : Bool
  lost : Bool
  pois : Bool
  left : List (Nat × Byte)
  deriving DecidableEq, Repr

/-- Decode a line with errors (symbol, value), data bytes 0–63 and check symbols 64 and 65; the check symbols of a poisoned line
stand XOR 0x5A, 0xA5 (R224). The code's roots are those of R215 (log 69: DEDUCED). -/
def devDecode (pois : Bool) (es : List (Nat × Byte)) : DevOut :=
  let mark : List (Nat × Byte) := [(64, 0x5A), (65, 0xA5)]
  let syn := syndromes (es ++ if pois then mark else [])
  if syn = (0, 0) then ⟨false, false, false, es⟩
  else if syn = syndromes mark then ⟨false, false, true, es⟩
  else match (List.range 66).find? (fun j => syn.1 ≠ 0 ∧ syn.2 = gfMul syn.1 (gfPow j)) with
    | some j => ⟨true, false, false, (if pois then mark else []) ++ es ++ [(j, syn.1)]⟩
    | none => ⟨false, true, true, es⟩

/-- The errors that stand in a line of device memory. -/
def devErrs (phys : List Phys) (line : Nat) : List (Nat × Byte) :=
  phys.flatMap (fun p => match p with
    | .dev l bytes => if l = line then bytes.map (fun b => (b.1 % 66, b.2)) else []
    | _ => [])

/-- Take the errors of a line away. -/
def clearDev (phys : List Phys) (line : Nat) : List Phys :=
  phys.filter (fun p => match p with
    | .dev l _ => l != line
    | _ => true)

/-- The value that stands at a symbol after errors that meet there add up. -/
def sumAt (es : List (Nat × Byte)) (i : Nat) : Byte := (es.filter (fun e => e.1 = i)).foldl (fun (v : Byte) e => v ^^^ e.2) 0

/-- The data bytes of a line with errors in them. -/
def Mem.addErrs (m : Mem) (line : Nat) (es : List (Nat × Byte)) : Mem :=
  (List.range 64).foldl (fun m i =>
    let v := sumAt es i
    if v = 0 then m else m.putByte (64 * line + i) (m.byte (64 * line + i) ^^^ v)) m

/-- Whether two memories hold the same line. -/
def Mem.sameLine (m n : Mem) (line : Nat) : Bool :=
  (List.range 8).all (fun i => m.word (64 * line + 8 * i) == n.word (64 * line + 8 * i)) && m.poisAt (64 * line) == n.poisAt (64 * line)

/-- The line of one memory put into another. -/
def Mem.copyLine (m n : Mem) (line : Nat) : Mem :=
  ((List.range 8).foldl (fun m i => m.putWord (64 * line + 8 * i) (n.word (64 * line + 8 * i))) m).setPois line (n.poisAt (64 * line))

/-- Whether a read of the line of an address finds it uncorrectable (R224). -/
def State.lineLost (s : State) (a : Nat) : Bool :=
  let es := devErrs s.phys (a / 64)
  !es.isEmpty && (devDecode (s.mem.poisAt a) es).lost

/-- Store a line as a read found it, with what stays wrong in its bytes and its poison, for every view that held the line as it
stood. -/
def State.storeFound (s : State) (line : Nat) (left : List (Nat × Byte)) (p : Bool) : State :=
  let m := (s.mem.addErrs line left).setPois line p
  { s with
    mem := m, phys := clearDev s.phys line
    agents := s.agents.map (fun e =>
      if e.2.v.mem.sameLine s.mem line then (e.1, { e.2 with v := { e.2.v with mem := e.2.v.mem.copyLine m line } }) else e)
    wlog := (List.range 8).map (fun i => ⟨none, 64 * line + 8 * i, m.word (64 * line + 8 * i), p, false⟩) ++ s.wlog }

/-- A READ DECODES THE LINE of an address (R224): a corrected byte counts and stays where it is; anything else that is delivered is
from now on what the line holds (log 7: DESIGN CHOICE, log 78: DESIGN CHOICE). Each word's read is a read of the line
(log 101: DESIGN CHOICE). -/
def State.touch (s : State) (a : Nat) : State :=
  let line := a / 64
  let es := devErrs s.phys line
  if es.isEmpty then s
  else
    let o := devDecode (s.mem.poisAt a) es
    let s := if o.fixed then { s with gcorr := s.gcorr + 1 } else s
    if o.fixed && o.pois == s.mem.poisAt a && (List.range 64).all (fun i => sumAt o.left i == 0) then s
    else s.storeFound line o.left o.pois

/-! ## Steps on the global image G -/

/-- A word of G with the poison of its line, read from the stored line (R197, R224). -/
def State.gRead (s : State) (a : Nat) : (Word × Bool) × State :=
  let s := s.touch a
  ((s.mem.word a, s.mem.poisAt a), s)

/-- Whether writes cover a line whole. -/
def coversLine (ws : List WWrite) (line : Nat) : Bool := (List.range 8).all (fun i => ws.any (fun w => w.1 = 64 * line + 8 * i))

/-- The words of a line that a step does not write, where it changes the line's poison (R197). -/
def poisEchoes (ws : List WWrite) (old new : Mem) : List WLog :=
  (ws.map (fun w => w.1 / 64)).eraseDups.flatMap (fun l =>
    if new.pois.contains l = old.pois.contains l then []
    else ((List.range 8).filter (fun i => !ws.any (fun w => w.1 = 64 * l + 8 * i))).map (fun i =>
      ⟨none, 64 * l + 8 * i, new.word (64 * l + 8 * i), new.pois.contains l, true⟩))

/-- A line written in part is read first, once (R224). -/
def State.merging (s : State) (ws : List WWrite) : State :=
  (ws.map (fun w => w.1 / 64)).eraseDups.foldl (fun s l => if coversLine ws l then s else s.touch (64 * l)) s

/-- Writes that make G a new image enter the commit order (R198, R199): every line is stored anew with its check symbols (R224). -/
def State.gEnter (s : State) (ws : List WWrite) (m : Mem) (by_ : Option AgentKey := none) : State :=
  { s with
    mem := m, phys := if s.phys.isEmpty then s.phys else ws.foldl (fun p w => clearDev p (w.1 / 64)) s.phys
    wlog := poisEchoes ws s.mem m ++ (ws.map (fun w => ⟨by_, w.1, w.2.1, m.poisAt w.1, false⟩)).reverse ++ s.wlog
    flags := s.flags.filter (fun f => !ws.any (fun w => w.1 == f.1)) }

/-- A step that writes words of G (R197–R199), by an agent's own atomic where `by_` names it (R204). -/
def State.gWrite (s : State) (ws : List WWrite) (by_ : Option AgentKey := none) : State :=
  let s := s.merging ws
  s.gEnter ws (s.mem.commit ws) by_

/-- Note who wrote a word of G and what that agent had observed of XCHG before (R206): an atomic joins those who wrote before. -/
def State.noteFlag (s : State) (a : Nat) (k : Sender) (seen : Nat) (old : List (Sender × Nat)) : State :=
  { s with flags := KV.put s.flags a ((k, seen) :: old.filter (fun e => e.1 ≠ k)) }

/-! ## Steps of agents -/

/-- The view taken now. -/
def State.snapshot (s : State) : View := ⟨s.mem, s.wlog.length⟩

/-- The writes of a word by others, newest first (R199, R204); with a value written so the poison that its line took later (R197). -/
def racing (k : AgentKey) (a : Nat) : List WLog → List WLog
  | [] => []
  | e :: l =>
    let r := racing k a l
    if e.wa = a ∧ e.by_ ≠ some k ∧ (!e.echo || r.any (fun x => x.val == e.val)) then e :: r else r

/-- What may be read besides B: the view's value and every value written since by another (R199); the agent's own atomics are not among
them (R204). -/
def State.race (s : State) (k : AgentKey) (v : View) (a : Nat) : List (Word × Bool) :=
  (v.mem.word a, v.mem.poisAt a) :: (racing k a (s.wlog.take (s.wlog.length - v.at_))).map (fun e => (e.val, e.pois))

/-- A read step of an agent (R199): its own latest write, or a free choice in the race set (log 3: DESIGN CHOICE); a line that the
read finds uncorrectable delivers the stored bits with poison (R224). -/
def State.memRead (s : State) (k : AgentKey) (a : Nat) : (Word × Bool) × State :=
  match KV.get? (s.agent k).b a with
  | some v => (v, s)
  | none =>
    if s.lineLost a then s.gRead a
    else
      let s := s.touch a
      let (key, s) := s.draw
      (choose [5, key, a] (0, false) (s.race k (s.agent k).v a), s)

/-- A write step of an agent (R200): into its phase buffer, for a command issued when the program had observed XCHG up to `seen`. -/
def State.memWrite (s : State) (k : AgentKey) (a : Nat) (w : Word) (p : Bool) (seen : Nat) : State :=
  let x := s.agent k
  { s.setAgent k { x with b := KV.put x.b a (w, p), bseen := KV.put x.bseen a seen } with wlog := ⟨some k, a, w, p, false⟩ :: s.wlog }

/-- An agent of this device, in its launch, as others know it (R206, R262). -/
def State.selfOf (s : State) (k : AgentKey) : Sender := ⟨bits s.fab.fabid 19 0, k, (s.strand k.sk).serial⟩

/-- THE DEVICE-SCOPE PHASE STEP of an agent (R202): B enters G as one step, B is empty, V is G just after. -/
def State.phaseStep (s : State) (k : AgentKey) : State :=
  let x := s.agent k
  let s := s.gWrite (x.b.map (fun e => (e.1, e.2.1, e.2.2)))
  let s := x.b.foldl (fun s e => s.noteFlag e.1 (s.selfOf k) (KV.getD x.bseen e.1 0) []) s
  let x := s.agent k
  s.setAgent k { x with b := [], bseen := [], v := s.snapshot, phaseLog := x.phaseLog ++ [s.fab.ftime] }

/-- Refresh the view of an agent (R204, acq). -/
def State.refresh (s : State) (k : AgentKey) : State :=
  s.setAgent k { s.agent k with v := s.snapshot }

/-! ## Runs of bytes -/

/-- A byte with the poison of the line it came from. -/
abbrev PByte := Byte × Bool

/-- Byte i of a word. -/
def byteOf (w : Word) (i : Nat) : Byte := (w >>> (8 * i)).setWidth 8

/-- The number that bytes spell, lowest first. -/
def natOfBytes (bs : List Byte) : Nat := bs.foldr (fun b n => b.toNat + 256 * n) 0

/-- Words of a run of bytes whose length is a multiple of 8, with the poison of any of their bytes. -/
def wordsOfRun : Nat → Nat → List PByte → List WWrite
  | 0, _, _ => []
  | _, _, [] => []
  | n + 1, a, bs =>
    let w := bs.take 8
    (a, bv 64 (natOfBytes (w.map (·.1))), w.any (·.2)) :: wordsOfRun n (a + 8) (bs.drop 8)

/-- Bytes of a value, lowest first. -/
def bytesOfBV {w : Nat} (n : Nat) (v : BitVec w) : List Byte := (List.range n).map (fun i => bv 8 (v.toNat / 2 ^ (8 * i)))

/-! ## Accesses of several words (R197): a separate step for each word, so that other steps may come between them -/

/-- Cut a run of bytes at word boundaries. -/
def piecesOf : Nat → Nat → Nat → List (Nat × Nat)
  | 0, _, _ => []
  | f + 1, a, n => if n = 0 then [] else let here := min n (8 - a % 8); (a, here) :: piecesOf f (a + here) (n - here)

/-- The pieces of runs of bytes, each inside one word, in order. -/
def pieces (l : List (Nat × Nat)) : List (Nat × Nat) := l.flatMap (fun r => piecesOf (r.2 + 1) r.1 r.2)

/-- The pieces of an access that are still to do. -/
def Access.todo (a : Access) : List (Nat × Nat) := (pieces a.at_).drop a.put

/-- The access has taken all its steps. -/
def Access.finished (a : Access) : Bool := a.todo.isEmpty

/-- How many pieces the engine does now: at least one, else a free number of them (log 37: DESIGN CHOICE). -/
def State.some_ (s : State) (a : Access) : List (Nat × Nat) × State :=
  let (key, s) := s.draw
  let l := a.todo
  (l.take (1 + Config.pick [11, key] % max 1 l.length), s)

/-- The bytes of a piece of a word. -/
def pieceBytes (p : Nat × Nat) (w : Word × Bool) : List PByte :=
  (List.range p.2).map (fun i => (byteOf w.1 (p.1 % 8 + i), w.2))

/-- Read pieces: by the read steps of an agent, or from G for a device whose view is G and whose B is empty (R199, R206). -/
def State.readPieces (s : State) (k : Option AgentKey) (l : List (Nat × Nat)) : List PByte × State :=
  l.foldl (fun (acc : List PByte × State) p =>
    let (w, s) := (match k with
      | some k => acc.2.memRead k (p.1 / 8 * 8)
      | none => acc.2.gRead (p.1 / 8 * 8))
    (acc.1 ++ pieceBytes p w, s)) ([], s)

/-- An access that reads goes on. -/
def State.readOn (s : State) (k : Option AgentKey) (a : Access) : Access × State :=
  let (l, s) := s.some_ a
  let (b, s) := s.readPieces k l
  ({ a with got := a.got ++ b, put := a.put + l.length }, s)

/-- Write the words of pieces that are whole words: the bytes stand in `b`. -/
def State.writePieces (s : State) (k : AgentKey) (seen : Nat) : List (Nat × Nat) → List PByte → State
  | [], _ => s
  | p :: l, b =>
    let w := b.take 8
    (s.memWrite k p.1 (bv 64 (natOfBytes (w.map (·.1)))) (w.any (·.2)) seen).writePieces k seen l (b.drop 8)

/-- An access that writes goes on: its pieces are whole words (R197), its bytes stand in `got`. -/
def State.writeOn (s : State) (k : AgentKey) (seen : Nat) (a : Access) : Access × State :=
  let (l, s) := s.some_ a
  ({ a with put := a.put + l.length }, s.writePieces k seen l (a.got.drop (8 * a.put)))

end Sys2Proof.Machine
end

