-- ==== Sys2Proof/Machine/Symbol.lean ====
section
/-! DEFINITION. The symbol code of the on-chip memories (R213–R219): what a read of a line with errors delivers and counts,
failed banks, and which place of which agent a line holds. -/

namespace Sys2Proof.Machine

open Sys2Proof

/-- What a read of a line delivers: not correctable, the banks corrected, and the errors left in what it delivers. -/
structure LineOut where
  lost : Bool
  fixed : List Nat
  left : List (Nat × Nat × Byte)
  deriving DecidableEq, Repr

/-- One codeword with its errors (symbol, value): the code's syndromes decide (R215, R216). -/
def decodeCodeword (fail : Option Nat) (w : Nat) (es : List (Nat × Byte)) : LineOut :=
  let (s0, s1) := syndromes es
  let after := fun (j : Nat) => ((es ++ [(j, s0)]).map (·.1)).eraseDups.filterMap (fun y =>
    let v := ((es ++ [(j, s0)]).filter (fun e => e.1 = y)).foldl (fun (a : Byte) e => a ^^^ e.2) 0
    if v = 0 then none else some (y, w, v))
  if s0 = 0 ∧ s1 = 0 then ⟨false, [], es.map (fun e => (e.1, w, e.2))⟩
  else match fail with
    | some f => if s1 = gfMul s0 (gfPow f) then ⟨false, [], after f⟩ else ⟨true, [], []⟩
    | none => match (List.range 18).find? (fun j => s0 ≠ 0 ∧ s1 = gfMul s0 (gfPow j)) with
      | some j => ⟨false, [j], after j⟩
      | none => ⟨true, [], []⟩

/-- A line of eight codewords: uncorrectable if any is (R216, R219). -/
def decodeLine (fail : Option Nat) (errs : List (Nat × Nat × Byte)) : LineOut :=
  let cw := (List.range 8).map (fun w => decodeCodeword fail w ((errs.filter (fun e => e.2.1 = w ∧ e.2.2 ≠ 0)).map (fun e => (e.1, e.2.2))))
  let lost := cw.any (·.lost)
  ⟨lost, cw.flatMap (·.fixed), if lost then errs else cw.flatMap (·.left)⟩

/-- The memstat register of a memory (R218). -/
def State.memstatOf (s : State) (m : MemId) : Memstat := KV.getD s.memstat m Memstat.init

/-- The bank that reads take as an erasure (R217). -/
def Memstat.failing (x : Memstat) : Option Nat := if x.fv then some x.fbank.toNat else none

/-- A bank fails (R217, R218): the scrubber fills the spare in a new pass; a second failure before the spare is in service
leaves the memory without one. (log 48: DEDUCED) -/
def Memstat.fail (x : Memstat) (b : BitVec 5) : Memstat :=
  if x.fv then { x with spareUsed := true } else { x with fv := true, fbank := b, pass := 0, corr := [] }

/-- The counts of a read, and a bank that the hardware declares failed by itself (R216, R217). -/
def Memstat.countRead (x : Memstat) (o : LineOut) : Memstat :=
  let corr := o.fixed.foldl (fun (c : KV Nat Nat) b => KV.put c b (KV.getD c b 0 + 1)) x.corr
  let x := { x with
    ccnt := bv 8 (min 255 (x.ccnt.toNat + o.fixed.length))
    ucnt := if o.lost then bv 8 (min 255 (x.ucnt.toNat + 1)) else x.ucnt
    corr := corr }
  match corr.find? (fun c => decide (16 ≤ c.2)) with
  | some c => if x.fv then x else x.fail (bv 5 c.1)
  | none => x

/-- The places of core storage that a line holds, each with its first byte in the line and its size; none where no strand's
window covers the line (R213, R214). -/
def State.linePlaces (s : State) (m : MemId) (line : Nat) : Option (AgentKey × Nat × List (Place × Nat × Nat)) :=
  let find := fun (row i lo n : Nat) (size : Launch → Nat) =>
    (s.strands.find? (fun e => (s.rows e.1.part).contains row && decide (e.2.bases.getD i 0 ≤ lo) &&
      decide (lo + n ≤ e.2.bases.getD i 0 + size e.2.l) && !e.2.bases.isEmpty)).map (fun e =>
        ((⟨e.1.part, e.1.strand, row⟩ : AgentKey), lo - e.2.bases.getD i 0))
  match m with
  | .tileStore row col => (find row 0 line 1 (·.nrows)).map (fun r => (r.1, col, [(.row r.2, 0, 128)]))
  | .folio row col => (find row 1 (4 * line) 4 (·.nunits)).map (fun r =>
      (r.1, col, (List.range 4).map (fun i => (.unit (r.2 + i), 32 * i, 32))))
  | .constBank row col => (find row 2 (32 * line) 32 (·.nkb)).map (fun r =>
      (r.1, col, (List.range 32).map (fun i => (.kb (r.2 + i), 4 * i, 4))))
  | _ => none

/-- The errors of a line as bits of its 128 data bytes (R215). -/
def errBits (errs : List (Nat × Nat × Byte)) : Nat :=
  errs.foldl (fun a e => if e.1 < 16 then a ^^^ (e.2.2.toNat <<< (8 * (8 * e.1 + e.2.1))) else a) 0

/-! ## The queue pool (R24, R213–R215) -/

/-- The beat queues in the order in which their entries lie in the pool (log 70: DESIGN CHOICE). -/
def poolOrder : List Nat := [0, 1, 2, 3, 4, 5, 12, 13]

/-- The number of a beat entry among those of its row: its strand's base, the queues before its own, its place (log 70: DESIGN CHOICE). -/
def State.beatOrd (s : State) (k : AgentKey) (n place : Nat) : Nat :=
  let q := (s.agent k).q
  (s.strand k.sk).bases.getD 4 0 + ((poolOrder.takeWhile (· != n)).map (fun m => (q.beat m).depth)).foldl (· + ·) 0 + place

/-- The lines of an entry (R213, R215): a beat takes two whole lines and a short line for its last 16 bytes, a result a short line.
Whole lines are 0–2047, the short lines follow: beats from 2048, results from 3072 (log 70: DESIGN CHOICE). -/
def State.entryLines (s : State) (k : AgentKey) (n place : Nat) : List Nat :=
  if n = 6 ∨ n = 7 then [3072 + 32 * k.strand + 16 * (n - 6) + place]
  else let o := s.beatOrd k n place; [2 * o, 2 * o + 1, 2048 + o]

/-- The place of the pool that the i-th entry of a queue stands in. -/
def Queues.place (q : Queues) (n i : Nat) : Nat :=
  if n = 6 ∨ n = 7 then ((q.res n).rd + i) % 16 else ((q.beat n).rd + i) % max 1 (q.beat n).depth

/-- How many entries a beat or result queue holds. -/
def Queues.held (q : Queues) (n : Nat) : Nat := if n = 6 ∨ n = 7 then (q.res n).items.length else (q.beat n).items.length

/-- The places of the pool in which entries of an agent's queue stand: those held, and those that a replayable phase keeps (R220). -/
def Agent.entryPlaces (a : Agent) (n : Nat) : List Nat :=
  let of := fun (q : Queues) => (List.range (q.held n)).map (q.place n)
  (of a.q ++ (match a.swap with | some w => of w.queues | none => [])).eraseDups

/-- The queues with entries in the pool. -/
def poolQueues : List Nat := poolOrder ++ [6, 7]

/-- The entry that a line of a row's pool holds: its queue and its place. The entries of an evicted strand stand in its image, not here. -/
def State.poolEntry (s : State) (row line : Nat) : Option (AgentKey × Nat × Nat) :=
  ((s.agents.filter (fun e => decide (e.1.row = row) && !(s.strand e.1.sk).bases.isEmpty)).flatMap (fun e => poolQueues.flatMap (fun n =>
    (e.2.entryPlaces n).map (fun p => (e.1, n, p))))).find? (fun e => (s.entryLines e.1 e.2.1 e.2.2).contains line)

/-- A beat with the errors of one of its lines (R215): bytes 0–255 are its data, 256–263 its scales, 264 its poison bits, bit 0 of
265 its valid bit (log 70: DESIGN CHOICE). -/
def Beat.addErrs (b : Beat) (part e : Nat) : Beat :=
  match part with
  | 0 => { b with data := b.data ^^^ bv 2048 e }
  | 1 => { b with data := b.data ^^^ (bv 2048 e <<< 1024) }
  | _ => { b with scale := b.scale ^^^ bv 64 e, pois := b.pois ^^^ bv 8 (e >>> 64), valid := b.valid ^^ (e >>> 72).testBit 0 }

/-- The entry at a place of a queue with the errors that a read of one of its lines left in it; every slot of a beat that is lost is
poisoned (R219). -/
def Queues.spoil (q : Queues) (n place part e : Nat) (lost : Bool) : Queues :=
  if n = 6 ∨ n = 7 then
    let r := q.res n
    q.setRes n { r with items := r.items.zipIdx.map (fun x =>
      if q.place n x.2 = place then { x.1 with val := x.1.val ^^^ bv 64 e } else x.1) }
  else
    let r := q.beat n
    q.setBeat n { r with items := r.items.zipIdx.map (fun x =>
      if q.place n x.2 = place then (let b := x.1.addErrs part e; if lost then { b with pois := BitVec.allOnes 8 } else b) else x.1) }

/-- The errors and the loss of a pool line show in the entry that it holds (R219), and in the copy that a replayable phase goes back to (R220,
R221). -/
def State.spoilPool (s : State) (row line : Nat) (o : LineOut) : State :=
  match s.poolEntry row line with
  | none => s
  | some (k, n, place) =>
    let f := fun (q : Queues) => q.spoil n place (if 2048 ≤ line then 2 else line % 2) (errBits o.left) o.lost
    s.mapAgent k (fun g => { g with q := f g.q, swap := g.swap.map (fun w => { w with queues := f w.queues }) })

/-- A read of a lost line of a q6 or q7 entry makes a non-halting record (R219). -/
def State.lostResult (s : State) (m : MemId) (line : Nat) : State :=
  match m with
  | .queuePool row => (match s.poolEntry row line with
    | some (k, n, _) => if n = 6 ∨ n = 7 then s.record k.sk { s.recForAgent k with rep := 0, kind := 13, cause := 5 } else s
    | none => s)
  | _ => s

/-- The text words of the agents of a row take the errors of a line; bytes that `hit` names keep what they hold. -/
def State.spoilText (s : State) (row line : Nat) (e : Nat) (hit : Nat → Bool) : State :=
  let bank := decide (1024 ≤ line)
  s.strands.foldl (fun s x =>
    if x.2.bases.isEmpty ∨ !(s.rows x.1.part).contains row then s
    else
      let k : AgentKey := ⟨x.1.part, x.1.strand, row⟩
      let base := x.2.bases.getD 3 0
      let show_ := fun (q : Sqr) (j : Nat) =>
        let p := 16 * (line % 1024) + j
        if base ≤ p ∧ p < base + x.2.l.tlen ∧ !hit (8 * j) then
          q.putText bank (p - base) (s.textWord k bank (p - base) ^^^ bv 64 (e >>> (64 * j)))
        else q
      s.mapAgent k (fun g => { g with sqr := (List.range 16).foldl show_ g.sqr })) s

/-! ## Lines as they are read and written -/

/-- The places of a line show errors and, where it is lost, the poison of every granule (R219); bytes that `hit` names keep what they
hold. -/
def State.spoilLine (s : State) (m : MemId) (line : Nat) (o : LineOut) (hit : Nat → Bool) : State :=
  match m with
  | .queuePool row => s.spoilPool row line o
  | .textStore row => s.spoilText row line (errBits o.left) hit
  | _ =>
    match s.linePlaces m line with
    | none => s
    | some (k, col, ps) =>
      let x := s.strand k.sk
      let e := errBits o.left
      s.mapAgent k (fun g => (ps.filter (fun p => !hit p.2.1)).foldl (fun (g : Agent) p =>
        let v := (g.core col).place x.serial k.row col p.1
        let d : BitVec 1024 := v.data ^^^ bv 1024 (e >>> (8 * p.2.1) % 2 ^ (8 * p.2.2))
        g.setCore col ((g.core col).putPlace ⟨d, v.pois || o.lost⟩ p.1)) g)

/-- Places of a line hold no poison of their own. -/
def State.cleanLine (s : State) (m : MemId) (line : Nat) (clean : List Place) (hit : Nat → Bool) : State :=
  match s.linePlaces m line with
  | none => s
  | some (k, col, ps) =>
    let x := s.strand k.sk
    s.mapAgent k (fun g => (ps.filter (fun p => clean.contains p.1 && !hit p.2.1)).foldl (fun (g : Agent) p =>
      g.setCore col ((g.core col).putPlace { (g.core col).place x.serial k.row col p.1 with pois := false } p.1)) g)

/-- Whether a physical fault is an error of this line. -/
def Phys.isLine (m : MemId) (line : Nat) : Phys → Bool
  | .line n l _ | .found n l _ _ _ _ => n == m && l == line
  | _ => false

/-- The line of an on-chip memory that a physical fault stands in. -/
def Phys.lineOf : Phys → Option (MemId × Nat)
  | .line m l _ | .found m l _ _ _ _ => some (m, l)
  | _ => none

/-- The agent whose places or entries a line holds (R213); a text line may hold words of several. -/
def State.lineOwner (s : State) (m : MemId) (line : Nat) : Option AgentKey :=
  match m with
  | .queuePool row => (s.poolEntry row line).map (·.1)
  | _ => (s.linePlaces m line).map (·.1)

/-- Whether a line holds anything that a read can show. -/
def State.lineHeld (s : State) (m : MemId) (line : Nat) : Bool :=
  match m with
  | .textStore _ => true
  | _ => (s.lineOwner m line).isSome

/-- The places of a line show what a read of it delivers; the errors themselves stand until a write or the scrubber stores the line anew
(R216, R219, log 7: DESIGN CHOICE). -/
def State.showLine (s : State) (m : MemId) (line : Nat) (errs : List (Nat × Nat × Byte)) (o : LineOut) : State :=
  if (!o.lost && o.left.isEmpty) || !s.lineHeld m line then s
  else
    let clean := match s.linePlaces m line with
      | some (k, col, ps) => (ps.filter (fun p => !(((s.agent k).core col).place (s.strand k.sk).serial k.row col p.1).pois)).map (·.1)
      | none => []
    { s.spoilLine m line o (fun _ => false) with
      phys := s.phys.map (fun p => if p.isLine m line then .found m line errs o.left o.lost clean else p) }

/-- The places of a line show what they hold themselves, but for the bytes that `hit` names. -/
def State.hideLine (s : State) (m : MemId) (line : Nat) (hit : Nat → Bool) : State :=
  match s.phys.find? (Phys.isLine m line) with
  | some (.found _ _ errs got lost clean) =>
    let s := s.spoilLine m line ⟨false, [], got⟩ hit
    { (if lost then s.cleanLine m line clean hit else s) with
      phys := s.phys.map (fun p => if p.isLine m line then .line m line errs else p) }
  | _ => s

/-- What a read found is shown (R216, R219): as a read before showed it, or anew. -/
def State.showRead (s : State) (m : MemId) (line : Nat) (p : Phys) (o : LineOut) : State :=
  match p with
  | .line _ _ errs => s.showLine m line errs o
  | .found _ _ errs got lost _ =>
    if o.lost = lost ∧ o.left = got then s else (s.hideLine m line (fun _ => false)).showLine m line errs o
  | _ => s

/-- The errors of a line. -/
def Phys.errs : Phys → List (Nat × Nat × Byte)
  | .line _ _ es | .found _ _ es _ _ _ => es
  | _ => []

/-- Read a line (R216, R219): every read decodes and counts, and a line that cannot be corrected is delivered as stored, with its poison
(log 7: DESIGN CHOICE). -/
def State.readLine (s : State) (m : MemId) (line : Nat) : State :=
  match s.phys.find? (Phys.isLine m line) with
  | some p =>
    let st := s.memstatOf m
    let o := decodeLine st.failing p.errs
    let s := ({ s with memstat := KV.put s.memstat m (st.countRead o) } : State).showRead m line p o
    if o.lost then s.lostResult m line else s
  | none => s

/-- A strand's windows are released: what its places showed goes with them, and the errors stand in their lines (R216, R245). -/
def State.leaveLines (s : State) (sel : StrandKey → Bool) : State :=
  { s with phys := s.phys.map (fun p => match p with
    | .found m l errs _ _ _ => if (s.lineOwner m l).any (fun k => sel k.sk) then .line m l errs else p
    | _ => p) }

/-- The memory and line of a place of an agent's core storage (R213, R214). -/
def State.placeLine (s : State) (k : AgentKey) (col : Nat) (p : Place) : MemId × Nat :=
  let b := (s.strand k.sk).bases
  match p with
  | .row n => (.tileStore k.row col, b.getD 0 0 + n)
  | .unit n => (.folio k.row col, (b.getD 1 0 + n) / 4)
  | .kb n => (.constBank k.row col, (b.getD 2 0 + n) / 32)

/-- Read the lines of places, where any line has errors. -/
def State.readPlaces (s : State) (k : AgentKey) (col : Nat) (ps : List Place) : State :=
  if s.phys.isEmpty then s
  else ((ps.map (s.placeLine k col)).eraseDups).foldl (fun s l => s.readLine l.1 l.2) s

/-- Read the lines of the entry at a place of a queue (R216, R219). -/
def State.readEntry (s : State) (k : AgentKey) (n place : Nat) : State :=
  (s.entryLines k n place).foldl (fun s l => s.readLine (.queuePool k.row) l) s

/-- Read the lines of the head entry of a queue that has one (R216, R219). -/
def State.readHead (s : State) (k : AgentKey) (n : Nat) : State :=
  if s.phys.isEmpty ∨ (s.agent k).q.held n = 0 then s else s.readEntry k n ((s.agent k).q.place n 0)

/-- What is written at bytes of a line takes the errors of those bytes away: new symbols are stored, and the check symbols with
them (R215, R219). The line's other bytes keep theirs (log 86: DESIGN CHOICE). -/
def clearBytes (phys : List Phys) (m : MemId) (line : Nat) (hit : Nat → Bool) : List Phys :=
  phys.filterMap (fun p => match p with
    | .line n l errs =>
      if n = m ∧ l = line then
        let errs := errs.filter (fun e => e.1 < 16 && !hit (8 * e.1 + e.2.1))
        if errs.isEmpty then none else some (.line n l errs)
      else some p
    | _ => some p)

/-- A write of a place of core storage stores its bytes anew (R215, R219). -/
def State.wrotePlace (s : State) (k : AgentKey) (col : Nat) (p : Place) : State :=
  if s.phys.isEmpty then s
  else
    let (m, l) := s.placeLine k col p
    let b := (s.strand k.sk).bases
    let (lo, n) := match p with
      | .row _ => (0, 128)
      | .unit i => (32 * ((b.getD 1 0 + i) % 4), 32)
      | .kb i => (4 * ((b.getD 2 0 + i) % 32), 4)
    let hit := fun x => decide (lo ≤ x ∧ x < lo + n)
    let s := s.hideLine m l hit
    { s with phys := clearBytes s.phys m l hit }

/-- The lines of the entry at a place of a queue are stored anew (R215). -/
def State.wroteLines (s : State) (k : AgentKey) (n place : Nat) : State :=
  (s.entryLines k n place).foldl (fun s l => { s with phys := s.phys.filter (fun p => !Phys.isLine (.queuePool k.row) l p) }) s

/-- A push into a queue stores the entry's lines anew (R215). -/
def State.wroteEntry (s : State) (k : AgentKey) (n i : Nat) : State :=
  if s.phys.isEmpty then s else s.wroteLines k n ((s.agent k).q.place n i)

/-! ## The text store (R213, R219) -/

/-- The line of the text store that holds an index of a bank of an agent's window: bank 0 is lines 0–1023, bank 1 the rest. -/
def State.textLineOf (s : State) (k : AgentKey) (bank : Bool) (i : Nat) : Nat :=
  1024 * bank.toNat + ((s.strand k.sk).bases.getD 3 0 + i) / 16

/-- Read a line of a row's text store (R216, R219): whether it cannot be corrected. Errors that a read leaves in what it delivers
show in the words. -/
def State.readTextLine (s : State) (row line : Nat) : Bool × State :=
  let m : MemId := .textStore row
  match s.phys.find? (Phys.isLine m line) with
  | some p =>
    let st := s.memstatOf m
    let o := decodeLine st.failing p.errs
    (o.lost, ({ s with memstat := KV.put s.memstat m (st.countRead o) } : State).showRead m line p
      ⟨false, [], if o.lost then [] else o.left⟩)
  | none => (false, s)

/-- A word of a text bank is written: its bytes are stored anew (R215, R288). -/
def State.wroteText (s : State) (k : AgentKey) (bank : Bool) (i : Nat) : State :=
  if s.phys.isEmpty then s
  else
    let lo := 8 * (((s.strand k.sk).bases.getD 3 0 + i) % 16)
    let hit := fun x => decide (lo ≤ x ∧ x < lo + 8)
    let s := s.hideLine (.textStore k.row) (s.textLineOf k bank i) hit
    { s with phys := clearBytes s.phys (.textStore k.row) (s.textLineOf k bank i) hit }

/-- The first words of a text bank are written. -/
def State.wroteTexts (s : State) (k : AgentKey) (bank : Bool) (n : Nat) : State :=
  if s.phys.isEmpty then s else (List.range n).foldl (fun s i => s.wroteText k bank i) s

/-- Read the line of a text word (R216): whether it cannot be corrected, which makes the fetch an illegal word (R219). -/
def State.readText (s : State) (i : Nat) : Bool × State :=
  if s.phys.isEmpty then (false, s)
  else s.readTextLine s.cur.row (s.textLineOf s.cur s.sqr.bank i)

end Sys2Proof.Machine
end

