-- ==== Sys2Proof/Machine/Seq.lean ====
section
/-! DEFINITION. The sequencer words of spec/03. Each acts on the agent whose word issues; a result with L = 1 waits in
the pending results and lands when the strand cycle closes (R23). -/

namespace Sys2Proof.Machine

open Sys2Proof

/-- The outcome type of every meaning. -/
abbrev Out := Host.Outcome State Fault Refusal

/-- A sequencer ALU word: its result goes to xd with L = 1 (R69). -/
def State.alu (s : State) (xd : BitVec 4) (v : Word) : State := s.pend (.x xd v)

/-- Truth of a branch condition (R39, R64). -/
def brHolds : BrCond → Word → Word → Bool
  | .always, _, _ => true
  | .z, a, _ => a == 0
  | .nz, a, _ => a != 0
  | .neg, a, _ => a.slt 0
  | .nneg, a, _ => !a.slt 0
  | .eq, a, b => a == b
  | .ne, a, b => a != b
  | .lt, a, b => a.slt b
  | .ltu, a, b => a.ult b

/-- The target of a BR or CALL (R64). -/
def State.target (s : State) (c : BrCond) (xa : BitVec 4) (disp : BitVec 20) : Word :=
  bv 64 s.idx + sext disp + (if c = .always then s.xr xa else 0)

/-- A branch that is taken: the stream moves when the words of its strand cycle have issued (R50, R64). -/
def State.jump (s : State) (target : Word) (call : Bool) : State :=
  if s.myStrand.l.tlen ≤ target.toNat then s.raise s.idx 2 5 target 0 0
  else if call && decide (4 ≤ s.sqr.rets.length) then s.raise s.idx 6 1 0 0 0
  else s.setSqr { s.sqr with jump := some (.to target.toNat call s.idx) }

/-- Close an open replayable phase (R220): the copy and the marks go. -/
def Agent.closePhase (a : Agent) : Agent :=
  let f := fun (b : BeatQ) => { b with kept := 0 }
  let g := fun (r : ResQ) => { r with kept := 0 }
  { a with swap := none
           q := { a.q with q0 := f a.q.q0, q1 := f a.q.q1, q2 := f a.q.q2, q3 := f a.q.q3, q4 := f a.q.q4,
                           q5 := f a.q.q5, q12 := f a.q.q12, q13 := f a.q.q13, q6 := g a.q.q6, q7 := g a.q.q7 } }

/-- The AGEN and XCHG commands issued so far are complete (R84, R86). -/
def Agent.idleEngines (a : Agent) : Bool := a.tca == a.seqA && a.tcx == a.seqX

/-- NOP (R61). -/
def execNop (s : State) : Out := .next s

/-- START (R48, R62). -/
def execStart (s : State) : Out :=
  .next (if s.idx = 0 ∧ s.sqr.bank = false then s.setSqr { s.sqr with refs := Refs.all 0 }
    else s.illegal .startMisplaced)

/-- HALT (R63): the words of this strand cycle that follow still issue; an open replayable phase ends. -/
def execHalt (s : State) : Out :=
  let a := s.me.closePhase
  .next (s.setMe { a with sqr := { a.sqr with jump := some .halt } })

/-- YIELD (R83): with an eviction pending the strand is cut at t+1. -/
def execYield (mask : BitVec 32) (s : State) : Out :=
  let tiles := s.myStrand.l.nrows / 32
  .next (match (List.range 32).find? (fun k => mask.getLsbD k && decide (tiles ≤ k)) with
    | some k => s.raise s.idx 2 6 (bv 64 k) 0 0
    | none => if s.myStrand.evp then s.setSqr { s.sqr with yield := some mask } else s)

/-- SWAP (R84, R220). (log 40: DEDUCED) -/
def execSwap (rep : Bool) (s : State) : Out :=
  .next (if rep then
      if s.me.idleEngines then
        let a := s.me.closePhase
        s.setMe { a with swap := some ⟨s.t, 0, a.sqr, a.q, []⟩ }
      else s.stall
    else s.setMe s.me.closePhase)

/-- OVLYP (R85): the load starts, from the newest address. -/
def execOvlyp (xa : BitVec 4) (imm : BitVec 35) (s : State) : Out :=
  .next (s.setSqr { s.sqr with ovly := some ⟨s.xr xa + sext imm, 0, none, false, none, .none, []⟩ })

/-- Image length of the running bank, trailer included (R62, R85); a launch image is taken to fill its window, since no rule gives it a
length of its own (R86, R137, log 74: DESIGN CHOICE). -/
def Sqr.imageLen (q : Sqr) : Nat := if q.bank then q.len1 else q.len0

/-- The waits that a trailer word names (R86). -/
def Agent.trailerOk (a : Agent) (w : Word) : Bool :=
  (!w.getLsbD 0 || a.tca == a.seqA) && (!w.getLsbD 1 || a.tcx == a.seqX) &&
  (!w.getLsbD 2 || a.q.q9 == 0) && (!w.getLsbD 3 || a.q.q11 == 0)

/-- Whether what a stalled word waits for has not come (R25, R248). -/
def State.waits (s : State) (k : AgentKey) (w : StallCond) : Bool :=
  let a := s.agent k
  match w with
  | .filled q => a.q.isEmpty q
  | .open_ q => a.q.isFull q
  | .room q n => !(a.q.res q).room n
  | .reaches tcx n => decide ((if tcx then a.tcx else a.tca) < n)
  | .idle => !a.idleEngines
  | .overlay => !(a.sqr.ovly.any (·.done)) || !a.trailerOk (s.textWord k a.sqr.bank (a.sqr.imageLen - 1))

/-- An OVLYS that stalls: it ends the stream here all the same, so nothing is fetched past this strand cycle (R86, R137). -/
def State.ovlyStall (s : State) : State := (s.setSqr { s.sqr with jump := some .overlay }).stall

/-- OVLYS (R86). A fault comes before a stall (R245); of two overlay faults the load's own is taken (log 80: DESIGN CHOICE). The trailer's
line is read, and one that cannot be corrected is an illegal word there (R219, log 80: DESIGN CHOICE). -/
def execOvlys (s : State) : Out :=
  let last := s.sqr.imageLen - 1
  let (lost, s) := s.readText last
  let q := s.sqr
  let tr := s.textWord s.cur q.bank last
  .next (match q.ovly with
    | none => s.illegal .overlayNotPrefetched
    | some o =>
      if !q.rets.isEmpty then s.illegal .overlayInCall
      else match (if o.done then o.err else none) with
        | some c => s.raise s.idx 12 c o.addr 0 0
        | none =>
          if lost then s.raise last 1 15 0 0 0
          else if !isTrailer tr then s.raise s.idx 12 5 o.addr 0 0
          else if o.done && s.me.trailerOk tr then
            let a := s.me.closePhase
            s.setMe { a with sqr := { a.sqr with jump := some .overlay } }
          else s.ovlyStall)

/-- BR (R60, R64). -/
def execBr (c : BrCond) (xa xb : BitVec 4) (disp : BitVec 20) (s : State) : Out :=
  .next (if brHolds c (s.xr xa) (s.xr xb) then s.jump (s.target c xa disp) false else s)

/-- CALL (R60, R64). -/
def execCall (c : BrCond) (xa xb : BitVec 4) (disp : BitVec 20) (s : State) : Out :=
  .next (if brHolds c (s.xr xa) (s.xr xb) then s.jump (s.target c xa disp) true else s)

/-- RET (R57, R64): the return index becomes the target; one that lies outside the text window is a window violation. -/
def execRet (s : State) : Out :=
  .next (match s.sqr.rets with
    | [] => s.raise s.idx 6 2 0 0 0
    | r :: rs =>
      if s.myStrand.l.tlen ≤ r then s.raise s.idx 2 5 (bv 64 r) 0 0
      else s.setSqr { s.sqr with rets := rs, jump := some (.to r false s.idx) })

/-- Truth of a queue test (R65). -/
def qTestHolds (t : QTest) (q : Queues) (n : Nat) : Bool :=
  match t with
  | .empty => q.isEmpty n
  | .nempty => !q.isEmpty n
  | .full => q.isFull n
  | .pois => q.headPois n
  | .clean => !q.isEmpty n && !q.headPois n

/-- A test of poison reads the head entry of its queue (R216, R219). -/
def State.bqHead (s : State) (q : BitVec 4) (t : QTest) : State := if t = .pois ∨ t = .clean then s.readHead s.cur q.toNat else s

/-- BQ (R65): a poison test reads the head entry (R216). -/
def execBq (q : BitVec 4) (t : QTest) (disp : BitVec 20) (s : State) : Out :=
  let s := s.bqHead q t
  .next (if qTestHolds t s.me.q q.toNat then s.jump (bv 64 s.idx + sext disp) false else s)

/-- The last instruction word of the kernel of `n` words from `o` on: its index (R35, R66). -/
def State.kernelLast (s : State) (o : Nat) : Nat → Option Nat
  | 0 => none
  | n + 1 => if isLit (s.textWord s.cur s.sqr.bank (o + n)) then s.kernelLast o n else some (o + n)

/-- Where a kernel of `len` words from `o` on ends: past its words, and past the LIT words that its last instruction calls for
(R36, R66). -/
def State.kernelEnd (s : State) (o len : Nat) : Nat :=
  match s.kernelLast o len with
  | none => o + len
  | some j => max (o + len) (j + 1 + litCount (s.textWord s.cur s.sqr.bank j))

/-- The illegal-word cause of a word that stands where an instruction is expected and has no issue time: a LIT word, or a
reserved engine code (R37, R58, R286). -/
def straySlot (w : Word) : Nat := if isLit w then 7 else 1

/-- REPEAT (R51, R58, R66). (log 18: DEDUCED) -/
def execRepeat (xa : BitVec 4) (ip : BitVec 10) (cnt : BitVec 12) (st : BitVec 4) (len : BitVec 13) (s : State) : Out :=
  let q := s.sqr
  let n := if xa = 0 then cnt.toNat else (s.xr xa).toNat
  let o := s.idx + 1
  let stop := o + len.toNat
  .next (if s.myStrand.l.tlen < stop then s.raise s.idx 2 5 (bv 64 stop) 0 0
    else if s.kernelEnd o len.toNat ≠ stop then s.illegal .literalMisuse
    else if 4 ≤ q.loops.length then s.raise s.idx 6 3 0 0 0
    else if q.late.isSome then s.raise s.idx 4 0 0 0 0
    else if (engOf (s.textWord s.cur q.bank o)).isNone && !q.skip.contains o then
      s.raise o 1 (straySlot (s.textWord s.cur q.bank o)) 0 0 0
    else if n = 0 then s.setSqr { q with refs := Refs.all s.t, pc := stop, prev := none }
    else s.setSqr { q with
      loops := ⟨o, len.toNat, ip.toNat, st.toNat, n, 0, q.p, s.t + 1⟩ :: q.loops
      refs := Refs.all s.t
      pc := if q.skip.contains o then o + 1 else o
      p := 1 })

/-- LEAVE (R67): the outermost loop ends with its present iteration. -/
def execLeave (s : State) : Out :=
  .next (if s.sqr.loops.isEmpty then s.illegal .leaveOutsideKernel else s.setSqr { s.sqr with leaving := true })

/-- XADD (R69). -/
def execXadd (xd xa xb : BitVec 4) (s : State) : Out := .next (s.alu xd (s.xr xa + s.xr xb))
/-- XSUB (R69). -/
def execXsub (xd xa xb : BitVec 4) (s : State) : Out := .next (s.alu xd (s.xr xa - s.xr xb))
/-- XMUL (R69). -/
def execXmul (xd xa xb : BitVec 4) (s : State) : Out := .next (s.alu xd (s.xr xa * s.xr xb))
/-- XAND (R69). -/
def execXand (xd xa xb : BitVec 4) (s : State) : Out := .next (s.alu xd (s.xr xa &&& s.xr xb))
/-- XOR: bitwise or (R69). -/
def execXor (xd xa xb : BitVec 4) (s : State) : Out := .next (s.alu xd (s.xr xa ||| s.xr xb))
/-- XXOR: bitwise exclusive or (R69). -/
def execXxor (xd xa xb : BitVec 4) (s : State) : Out := .next (s.alu xd (s.xr xa ^^^ s.xr xb))
/-- XSHL (R69). -/
def execXshl (xd xa xb : BitVec 4) (s : State) : Out := .next (s.alu xd (s.xr xa <<< ((s.xr xb).toNat % 64)))
/-- XSHR (R69). -/
def execXshr (xd xa xb : BitVec 4) (s : State) : Out := .next (s.alu xd (s.xr xa >>> ((s.xr xb).toNat % 64)))
/-- XSRA (R69). -/
def execXsra (xd xa xb : BitVec 4) (s : State) : Out := .next (s.alu xd ((s.xr xa).sshiftRight ((s.xr xb).toNat % 64)))

/-- Signed minimum. -/
def sminBV {w : Nat} (a b : BitVec w) : BitVec w := if a.slt b then a else b
/-- Signed maximum. -/
def smaxBV {w : Nat} (a b : BitVec w) : BitVec w := if a.slt b then b else a
/-- Signed comparison: −1, 0 or +1 (R69). -/
def scmpW (a b : Word) : Word := if a.slt b then BitVec.allOnes 64 else if a = b then 0 else 1

/-- XMIN (R69). -/
def execXmin (xd xa xb : BitVec 4) (s : State) : Out := .next (s.alu xd (sminBV (s.xr xa) (s.xr xb)))
/-- XMAX (R69). -/
def execXmax (xd xa xb : BitVec 4) (s : State) : Out := .next (s.alu xd (smaxBV (s.xr xa) (s.xr xb)))
/-- XCMP (R69). -/
def execXcmp (xd xa xb : BitVec 4) (s : State) : Out := .next (s.alu xd (scmpW (s.xr xa) (s.xr xb)))
/-- XADDI (R70). -/
def execXaddi (xd xa : BitVec 4) (imm : BitVec 35) (s : State) : Out := .next (s.alu xd (s.xr xa + sext imm))
/-- XANDI (R70). -/
def execXandi (xd xa : BitVec 4) (imm : BitVec 35) (s : State) : Out := .next (s.alu xd (s.xr xa &&& sext imm))
/-- XORI (R70). -/
def execXori (xd xa : BitVec 4) (imm : BitVec 35) (s : State) : Out := .next (s.alu xd (s.xr xa ||| sext imm))
/-- XXORI (R70). -/
def execXxori (xd xa : BitVec 4) (imm : BitVec 35) (s : State) : Out := .next (s.alu xd (s.xr xa ^^^ sext imm))
/-- XSHLI (R70). -/
def execXshli (xd xa : BitVec 4) (imm : BitVec 6) (s : State) : Out := .next (s.alu xd (s.xr xa <<< imm.toNat))
/-- XSHRI (R70). -/
def execXshri (xd xa : BitVec 4) (imm : BitVec 6) (s : State) : Out := .next (s.alu xd (s.xr xa >>> imm.toNat))
/-- XSRAI (R70). -/
def execXsrai (xd xa : BitVec 4) (imm : BitVec 6) (s : State) : Out := .next (s.alu xd ((s.xr xa).sshiftRight imm.toNat))
/-- XLI (R70). -/
def execXli (xd : BitVec 4) (imm : BitVec 35) (s : State) : Out := .next (s.alu xd (sext imm))
/-- XLIL (R70). -/
def execXlil (xd : BitVec 4) (v : Word) (s : State) : Out := .next (s.alu xd v)

/-- A queue word that cannot proceed: stall mode cuts the clock, flag mode writes 1 (R25). -/
def State.blocked (s : State) (stall : Bool) (xd : BitVec 4) : State := if stall then s.stall else s.alu xd 1

/-- A queue word that proceeds: flag mode writes 0 (R25). -/
def State.proceeded (s : State) (stall : Bool) (xd : BitVec 4) : State := if stall then s else s.alu xd 0

/-- The beat that a flag-mode INJ of an empty queue fills: zeros, all poison set, valid clear (R25, R72). -/
def Beat.starved : Beat := ⟨0, 0, BitVec.allOnes 8, false⟩

/-- INJ (R72): fills beat t+2 at column 0. -/
def execInj (q : BitVec 4) (stall : Bool) (xd : BitVec 4) (s : State) : Out :=
  let s := s.readHead s.cur q.toNat
  let a := s.me
  let b := a.q.beat q.toNat
  .next (match b.items with
    | e :: _ => (s.setMe { a with q := a.q.setBeat q.toNat (b.pop a.marked)
                                  beats := KV.put a.beats (s.t + 2) { e with valid := true } }).proceeded stall xd
    | [] => if stall then s.stall
            else (s.setMe { a with beats := KV.put a.beats (s.t + 2) Beat.starved }).alu xd 1)

/-- The beat that leaves column 47 at strand cycle t (R19, R73). -/
def Agent.eastBeat (a : Agent) (t : Nat) : Beat := if t < 48 then Beat.empty else KV.getD a.beats (t - 48) Beat.empty

/-- CAP (R73): takes beat t−48. -/
def execCap (q : BitVec 4) (stall : Bool) (xd : BitVec 4) (s : State) : Out :=
  let a := s.me
  let b := a.q.beat q.toNat
  .next (if b.full then s.blocked stall xd
    else ((s.setMe { a with q := a.q.setBeat q.toNat (b.push (a.eastBeat s.t)) }).wroteEntry s.cur q.toNat b.items.length).proceeded
      stall xd)

/-- POPT (R74); removing a token observes the command that pushed it (R205). -/
def execPopt (q : BitVec 4) (stall : Bool) (xd : BitVec 4) (s : State) : Out :=
  let a := s.me
  .next (match (if q = 8 then a.q.q8 else a.q.q10) with
    | [] => s.blocked stall xd
    | n :: l => ((s.setMe { a with q := if q = 8 then { a.q with q8 := l } else { a.q with q10 := l } }).pend
                  (.observe (q ≠ 8) n)).proceeded stall xd)

/-- PUSHT (R74). -/
def execPusht (q : BitVec 4) (stall : Bool) (xd : BitVec 4) (s : State) : Out :=
  let a := s.me
  .next (if a.q.tokens q.toNat = 255 then s.blocked stall xd
    else (s.setMe { a with q := if q = 9 then { a.q with q9 := a.q.q9 + 1 } else { a.q with q11 := a.q.q11 + 1 } }).proceeded
      stall xd)

/-- QPOP (R75); removing a command's last entry observes the command (R205). -/
def execQpop (q : BitVec 4) (stall : Bool) (xd : BitVec 4) (s : State) : Out :=
  let s := s.readHead s.cur q.toNat
  let a := s.me
  let r := a.q.res q.toNat
  .next (match r.items with
    | [] => if stall then s.stall else s.alu (xd + 1) 1
    | e :: _ =>
      let s := s.setMe { a with q := a.q.setRes q.toNat (r.pop a.marked) }
      let s := s.alu xd e.val
      let s := if e.last then s.pend (.observe false e.seq) else s
      if stall then s else s.alu (xd + 1) 0)

/-- The status word of a queue (R76). (log 36: DEDUCED) -/
def Queues.status (q : Queues) (n : Nat) : Word :=
  let rsv := if n = 6 ∨ n = 7 then (q.res n).resv else 0
  let beatq := !(decide (6 ≤ n ∧ n ≤ 11))
  bv 64 (pack [(5, rsv), (1, (q.isEmpty n).toNat), (1, (q.isFull n).toNat), (1, (beatq && q.headPois n).toNat),
    (8, q.depth n), (8, q.occ n)])

/-- QSTAT (R76): of a beat queue it reads the head entry, for its poison (R216). -/
def execQstat (q : BitVec 4) (xd : BitVec 4) (s : State) : Out :=
  let s := if 6 ≤ q.toNat ∧ q.toNat ≤ 11 then s else s.readHead s.cur q.toNat
  .next (s.alu xd (s.me.q.status q.toNat))

/-- A command for AGEN that issues now, with what it samples (R168, R169). -/
def State.mkA (s : State) (i : Instr) (addr val : Word) (set : BitVec 4) : ACmd :=
  let a := s.me
  { seq := a.seqA + 1, seen := a.seenX, ins := i, raw := s.textWord s.cur a.sqr.bank s.idx, tidx := s.idx, bank := a.sqr.bank, sc := s.t
    a := a.sampleA s.fresh, set := a.colset[set.toFin], addr := addr, val := val, ovf := a.sqr.ovf, crt := a.crt[0]
    took := false, rank := 0, item := 0, buf := [], acc := none, frames := [], rem := none, page := .none, bring := none, halted := false, held := false, fin := false }

/-- Issue a command to AGEN: it takes the next sequence number (R28, R168). -/
def State.issueA (s : State) (c : ACmd) : State :=
  let s := s.draw.2
  let a := s.me
  s.setMe { a with seqA := a.seqA + 1, acmds := a.acmds ++ [c] }

/-- Reserve entries of a result queue for a command that issues (R78, R185). -/
def State.reserve (s : State) (q : Nat) (n : Nat) : State :=
  let a := s.me
  let r := a.q.res q
  s.setMe { a with q := a.q.setRes q { r with resv := r.resv + n } }

/-- LDS (R78): reserves one entry of its result queue, or stalls. -/
def execLds (q7 : Bool) (xa : BitVec 4) (imm : BitVec 35) (s : State) : Out :=
  let q := if q7 then 7 else 6
  .next (if (s.me.q.res q).room 1 then
      (s.reserve q 1).issueA (s.mkA (.lds q7 xa imm) (s.xr xa + sext imm) 0 0)
    else s.stall)

/-- STS (R78). -/
def execSts (xd xa : BitVec 4) (imm : BitVec 35) (s : State) : Out :=
  .next (s.issueA (s.mkA (.sts xd xa imm) (s.xr xa + sext imm) (s.xr xd) 0))

/-- PHASE (R79): the words of this strand cycle issue; the strand then waits for its phase step. -/
def execPhase (fabric wait : Bool) (s : State) : Out :=
  .next (s.setSqr { s.sqr with phase := some ⟨fabric, wait, s.me.seqA, s.me.seqX⟩ })

/-- WAITTC (R80); reaching the target observes the commands up to it, and none beyond it (R29, R205, log 82: DESIGN CHOICE). -/
def execWaittc (tcx flag : Bool) (xa xd : BitVec 4) (s : State) : Out :=
  let n := (s.xr xa).toNat
  let c := if tcx then s.me.tcx else s.me.tca
  .next (if n ≤ c then (s.pend (.observe tcx n)).proceeded (!flag) xd else s.blocked (!flag) xd)

/-- GETTC (R81). -/
def execGettc (xd : BitVec 4) (sel : BitVec 2) (s : State) : Out :=
  let a := s.me
  .next (s.alu xd (bv 64 (if sel = 0 then a.tca else if sel = 1 then a.tcx else if sel = 2 then a.seqA else a.seqX)))

/-- XTOA (R82). -/
def execXtoa (ad xa : BitVec 4) (s : State) : Out := .next (s.pend (.a ad (s.xr xa)))

/-- ATOX (R82, R170). -/
def execAtox (xd aa : BitVec 4) (s : State) : Out :=
  .next ((s.draw.2).alu xd (s.me.arAny s.fresh aa))

/-- ROTSET (R68). -/
def execRotset (rowsz : BitVec 10) (tilesz : BitVec 6) (s : State) : Out :=
  let n := s.myStrand.l.nrows
  .next (if n < rowsz.toNat then s.raise s.idx 2 7 (rowsz.setWidth 64) 0 0
    else if n / 32 < tilesz.toNat then s.raise s.idx 2 7 (tilesz.setWidth 64) 0 0
    else s.pend (.rot rowsz.toNat tilesz.toNat))

/-- The value GETSYS selects (R87). -/
def State.sysValue (s : State) (sel : Nat) : Word :=
  let x := s.myStrand
  match sel with
  | 0 => bv 64 s.t
  | 1 => bv 64 s.cur.strand
  | 2 => bv 64 (2 ^ x.scode.toNat)
  | 3 => x.phase.setWidth 64
  | 4 => bv 64 s.cur.row
  | 5 => bv 64 s.cur.part
  | 6 => x.l.lid
  | 7 => bv 64 (s.idx + 2 ^ 14 * s.sqr.bank.toNat)
  | 8 => s.sqr.fpc.setWidth 64
  | _ => bv 64 ((s.sqr.loops.head?.map (·.i)).getD 0)

/-- GETSYS (R87). -/
def execGetsys (xd : BitVec 4) (sel : BitVec 4) (s : State) : Out := .next (s.alu xd (s.sysValue sel.toNat))

/-- A value that fpc accepts (R88). -/
def fpcOk (v : Word) : Bool := decide (v.toNat < 16) && decide (1 ≤ v.toNat % 8 ∧ v.toNat % 8 ≤ 5)

/-- SETFPC (R13, R88). -/
def execSetfpc (xa : BitVec 4) (s : State) : Out :=
  .next (if fpcOk (s.xr xa) then s.pend (.fpc ((s.xr xa).setWidth 4)) else s.illegal .notAccepted)

/-- A value that the overflow table accepts (R89). -/
def ovfOk (v : Word) : Bool :=
  decide (v.toNat < 2 ^ 14) && decide (v.toNat % 4 < 3) && decide (v.toNat / 4 % 4 < 3) &&
    [4, 6, 8, 10, 12].all (fun i => decide (v.toNat / 2 ^ i % 4 < 2))

/-- SETOVF (R57, R89): privileged. -/
def execSetovf (xa : BitVec 4) (s : State) : Out :=
  .next (if !ovfOk (s.xr xa) then s.illegal .notAccepted
    else if !s.myStrand.priv then s.raise s.idx 7 0 0 0 0
    else s.pend (.ovf ((s.xr xa).setWidth 14)))

end Sys2Proof.Machine
end

