-- ==== Sys2Proof/Machine/Operands.lean ====
section
/-! DEFINITION. Operand forms: rotation of rows and tiles, the window checks made at the sequencer, and guards. -/

namespace Sys2Proof.Machine

open Sys2Proof

/-- The window row a row operand names (R14). -/
def Sqr.rowIndex (q : Sqr) (n : Nat) : Nat := if n < q.rowsz then (n + q.vrot) % q.rowsz else n

/-- The window tile a tile operand names (R14). -/
def Sqr.tileIndex (q : Sqr) (k : Nat) : Nat := if k < q.tilesz then (k + q.mrot) % q.tilesz else k

/-- A window violation: its cause and the renamed index that failed (R285, R286). -/
abbrev Viol := Option (Nat × Nat)

/-- A row operand beyond the window (R14, R57). -/
def State.rowViol (s : State) (v : BitVec 10) : Viol :=
  let n := s.sqr.rowIndex v.toNat
  if n < s.myStrand.l.nrows then none else some (1, n)

/-- A tile operand beyond the window (R14, R57). -/
def State.tileViol (s : State) (m : BitVec 5) : Viol :=
  let k := s.sqr.tileIndex m.toNat
  if 32 * k + 32 ≤ s.myStrand.l.nrows then none else some (2, k)

/-- A constant-bank operand beyond the bank (R57). -/
def State.kbViol (s : State) (n : Nat) : Viol := if n < s.myStrand.l.nkb then none else some (4, n)

/-- The first violation of a list. (log 45: DEDUCED) -/
def firstViol : List Viol → Viol
  | [] => none
  | v :: l => v.or (firstViol l)

/-- The renamed row operand. -/
def State.row10 (s : State) (v : BitVec 10) : BitVec 10 := bv 10 (s.sqr.rowIndex v.toNat)

/-- The renamed tile operand. -/
def State.tile5 (s : State) (m : BitVec 5) : BitVec 5 := bv 5 (s.sqr.tileIndex m.toNat)

/-- Raise a window violation, or go on (R57). -/
def State.checked (s : State) (v : Viol) (k : State → State) : State :=
  match v with
  | some (c, i) => s.raise s.idx 2 c (bv 64 i) 0 0
  | none => k s

/-- The part of a guard that the sequencer evaluates at issue: p0 and p1–p7 (R42). A guard on p8–p15 passes here. -/
def Sqr.stageGuard (q : Sqr) (g : Guard) : Bool :=
  if 8 ≤ g.p.toNat then true
  else (if g.p = 0 then true else q.p.getLsbD (g.p.toNat - 1)) != g.neg

/-- The part of a guard that a core evaluates when it executes the word: p8–p15 (R20, R42). -/
def Core.guard (c : Core) (g : Guard) : Bool :=
  if 8 ≤ g.p.toNat then c.p.getLsbD (g.p.toNat - 8) != g.neg else true

end Sys2Proof.Machine
end

