-- ==== Sys2Proof/Machine/EngineIssue.lean ====
section
/-! DEFINITION. The AGEN and XCHG words as they issue (spec/09): the A1 words and RATE, which run in strand time, and the
commands, which sample their operands and wait in their engine. -/

namespace Sys2Proof.Machine

open Sys2Proof

/-- An agent register as an A1 or XCHG word samples it, and the state that has used the choice (R169, R170). -/
def State.arS (s : State) (r : BitVec 4) : Word := s.me.arAny s.fresh r

/-- Land a value in an agent register with L = 1 (R162). -/
def State.putAr (s : State) (r : BitVec 4) (v : Word) : State := (s.draw.2).pend (.a r v)

/-- Sum in one coordinate field, without carry into the next (R174). -/
def addField (v : Word) (k : BitVec 2) (d : BitVec 16) : Word := setField v k (fieldOf v k + d)

/-- AMOV (R174). -/
def execAmov (ad aa : BitVec 4) (fld : Option (BitVec 2)) (s : State) : Out :=
  .next (s.putAr ad (match fld with
    | none => s.arS aa
    | some k => setField (s.arS ad) k (fieldOf (s.arS aa) k)))

/-- AADDI (R174). -/
def execAaddi (ad aa : BitVec 4) (fld : Option (BitVec 2)) (imm : BitVec 28) (s : State) : Out :=
  .next (s.putAr ad (match fld with
    | none => s.arS aa + sext imm
    | some k => addField (s.arS aa) k (imm.setWidth 16)))

/-- ASETF (R174). -/
def execAsetf (ad : BitVec 4) (fld : Option (BitVec 2)) (imm : BitVec 28) (s : State) : Out :=
  .next (s.putAr ad (match fld with
    | none => sext imm
    | some k => setField (s.arS ad) k (imm.setWidth 16)))

/-- AINCF (R162, R174). -/
def execAincf (ad : BitVec 4) (fld : Option (BitVec 2)) (imm : BitVec 28) (s : State) : Out :=
  .next (s.putAr ad (match fld with
    | none => s.arS ad + sext imm
    | some k => addField (s.arS ad) k (imm.setWidth 16)))

/-- AADD (R162, R174). -/
def execAadd (ad aa ab : BitVec 4) (fld : Option (BitVec 2)) (s : State) : Out :=
  .next (s.putAr ad (match fld with
    | none => s.arS aa + s.arS ab
    | some k => addField (s.arS aa) k (fieldOf (s.arS ab) k)))

/-- ACOL (R167, R175). -/
def execAcol (set aa : BitVec 4) (scatter : Bool) (sdim : BitVec 2) (s : State) : Out :=
  .next ((s.draw.2).pend (.colset set ⟨(s.arS aa).setWidth 48, scatter, sdim⟩))

/-- An A2 word issues as an AGEN command (R168, R176). -/
def State.xfer (s : State) (i : Instr) (set : BitVec 4) : State := s.issueA (s.mkA i 0 0 set)

/-- FEED at issue (R160, R176). -/
def execFeed (q : BitVec 2) (f : Xfer) (s : State) : Out := .next (s.xfer (.feed q f) 0)
/-- DRAIN at issue (R176). -/
def execDrain (q5 : Bool) (f : Xfer) (s : State) : Out := .next (s.xfer (.drain q5 f) 0)
/-- FILLF at issue (R176). -/
def execFillf (al set : BitVec 4) (f : Xfer) (s : State) : Out := .next (s.xfer (.fillf al set f) set)
/-- SPILLF at issue (R176). -/
def execSpillf (al set : BitVec 4) (f : Xfer) (s : State) : Out := .next (s.xfer (.spillf al set f) set)
/-- TLD at issue (R176). -/
def execTld (al set : BitVec 4) (f : Xfer) (s : State) : Out := .next (s.xfer (.tld al set f) set)
/-- TST at issue (R161, R176). -/
def execTst (al set : BitVec 4) (f : Xfer) (s : State) : Out := .next (s.xfer (.tst al set f) set)
/-- KBLD at issue: words beyond the bank are a window violation (R176), a first word of 256 or more too (R164, log 76: DESIGN CHOICE). -/
def execKbld (n : BitVec 9) (set : BitVec 4) (f : Xfer) (s : State) : Out :=
  .next (s.checked (s.kbViol (n.toNat + f.nm1.toNat)) (fun s => s.xfer (.kbld n set f) set))
/-- TDESC at issue (R176, R182). -/
def execTdesc (slot : BitVec 4) (f : Xfer) (s : State) : Out := .next (s.xfer (.tdesc slot f) 0)
/-- PREF at issue (R183). -/
def execPref (f : Xfer) (s : State) : Out := .next (s.xfer (.pref f) 0)

/-- A word that an open replayable phase does not allow (R220). -/
def State.replayable (s : State) (k : State → State) : State :=
  if s.me.marked then s.illegal .notReplayable else k s

/-- Note that an AGEN command will write an agent register (R170). -/
def State.willWrite (s : State) (seq : Nat) (r : BitVec 4) : State :=
  let a := s.me
  s.setMe { a with aAlt := a.aAlt ++ [⟨r, seq, none, false⟩] }

/-- An atomic at issue: it reserves its result entries, or stalls (R185). -/
def State.atomic (s : State) (i : Instr) (a : Atom) : State :=
  s.replayable fun s =>
    let q := if a.rq then 7 else 6
    let n := if a.wid = .w128 then 2 else 1
    if (s.me.q.res q).room n then
      let c := s.mkA i 0 0 0
      let s := (s.reserve q n).issueA c
      let s := if a.ret then s.willWrite c.seq a.ad else s
      if a.ret && a.wid == .w128 then s.willWrite c.seq (a.ad + 1) else s
    else s.stall

/-- ATADD at issue (R184, R185). -/
def execAtadd (a : Atom) (s : State) : Out := .next (s.atomic (.atadd a) a)
/-- ATCAS at issue (R184, R185). -/
def execAtcas (a : Atom) (s : State) : Out := .next (s.atomic (.atcas a) a)
/-- ATXCH at issue (R184, R185). -/
def execAtxch (a : Atom) (s : State) : Out := .next (s.atomic (.atxch a) a)
/-- ATMAX at issue (R184, R185). -/
def execAtmax (a : Atom) (s : State) : Out := .next (s.atomic (.atmax a) a)
/-- ATMIN at issue (R184, R185). -/
def execAtmin (a : Atom) (s : State) : Out := .next (s.atomic (.atmin a) a)
/-- ATAND at issue (R184, R185). -/
def execAtand (a : Atom) (s : State) : Out := .next (s.atomic (.atand a) a)
/-- ATOR at issue (R184, R185). -/
def execAtor (a : Atom) (s : State) : Out := .next (s.atomic (.ator a) a)
/-- ATFADD at issue (R184, R185). -/
def execAtfadd (a : Atom) (s : State) : Out := .next (s.atomic (.atfadd a) a)

/-- AROW at issue: the row is renamed and checked (R186). -/
def execArow (ad : BitVec 4) (col : BitVec 6) (v : BitVec 10) (quad : BitVec 3) (tok : Bool) (s : State) : Out :=
  .next (s.checked (s.rowViol v) fun s =>
    let c := s.mkA (.arow ad col (s.row10 v) quad tok) 0 0 0
    ((s.issueA c).willWrite c.seq ad).willWrite c.seq (ad + 1))

/-- A command for XCHG that issues now, with what it samples (R168, R169). -/
def State.mkX (s : State) (i : Instr) (ae asrc adst atag : BitVec 4) (crt : BitVec 3) : XCmd :=
  let a := s.me
  { seq := a.seqX + 1, seen := a.seenX, ins := i, raw := s.textWord s.cur a.sqr.bank s.idx, tidx := s.idx, bank := a.sqr.bank, sc := s.t
    ae := s.arS ae, asrc := s.arS asrc, adst := s.arS adst, atag := s.arS atag, crt := a.crt[crt.toFin]
    took := false, started := false, sent := false, left := 0, resent := false, reports := [], need := 0, applied := 0
    deadline := 0, heldRep := false, delivering := false, cancelled := false, resend := false, lostRep := false, acc := none, frames := [], page := .none, halted := false, held := false, fin := false }

/-- Issue a command to XCHG: it takes the next sequence number (R28, R168). -/
def State.issueX (s : State) (c : XCmd) : State :=
  let s := s.draw.2
  let a := s.me
  s.setMe { a with seqX := a.seqX + 1, xcmds := a.xcmds ++ [c] }

/-- An X1 word issues. -/
def State.xmsg (s : State) (i : Instr) (m : Xmsg) : State := s.issueX (s.mkX i m.ae m.asrc m.adst 0 m.crt)

/-- SEND at issue (R187, R220). -/
def execSend (m : Xmsg) (s : State) : Out := .next (s.replayable fun s => s.xmsg (.send m) m)
/-- XWR at issue (R187, R220). -/
def execXwr (m : Xmsg) (s : State) : Out := .next (s.replayable fun s => s.xmsg (.xwr m) m)
/-- XRD at issue (R187). -/
def execXrd (m : Xmsg) (s : State) : Out := .next (s.xmsg (.xrd m) m)
/-- XAT at issue (R187, R220). -/
def execXat (m : Xmsg) (s : State) : Out := .next (s.replayable fun s => s.xmsg (.xat m) m)

/-- The locator register of a RECV or RCANCEL. -/
def rdstReg : RDst → BitVec 4
  | .loc r => r
  | _ => 0

/-- RECV at issue: posts the receive (R190, R220). -/
def execRecv (d : RDst) (atag : BitVec 4) (s : State) : Out :=
  .next (s.replayable fun s => s.issueX (s.mkX (.recv d atag) 0 0 (rdstReg d) atag 0))

/-- RCANCEL at issue (R191, R220). -/
def execRcancel (d : RDst) (atag : BitVec 4) (s : State) : Out :=
  .next (s.replayable fun s => s.issueX (s.mkX (.rcancel d atag) 0 0 (rdstReg d) atag 0))

/-- RATE (R192). -/
def execRate (crt : BitVec 3) (k : BitVec 5) (m : BitVec 4) (rty : Bool) (ddl : BitVec 10) (s : State) : Out :=
  .next (s.pend (.crt crt ⟨k.toNat, m.toNat, rty, ddl.toNat⟩))

end Sys2Proof.Machine
end

