-- ==== Sys2Proof/Machine/Translate.lean ====
section
/-! DEFINITION. Tensors and translation (spec/13): descriptors, tile numbers, tile tables, the frame map, cached
translations, and page requests. -/

namespace Sys2Proof.Machine

open Sys2Proof

/-! ## Descriptors (R225) -/

/-- A tensor descriptor: the 512 bits of its catalogue entry. -/
abbrev Desc := BitVec 512

/-- Tensor id. -/
def dTid (d : Desc) : Nat := bits d 31 0
/-- Format code. -/
def dFmt (d : Desc) : Nat := bits d 35 32
/-- Block geometry. -/
def dGeo (d : Desc) : Nat := bits d 36 36
/-- Layout code. -/
def dLay (d : Desc) : Nat := bits d 38 37
/-- Dimension k in tiles. -/
def dDim (d : Desc) (k : Nat) : Nat := bits d (79 + 16 * k) (64 + 16 * k)
/-- Size of a flat tensor in bytes. -/
def dSize (d : Desc) : Nat := bits d 111 64
/-- Tile-table base, a guest frame number. -/
def dTtb (d : Desc) : Nat := bits d 159 128
/-- Whole tensor homed elsewhere. -/
def dHrem (d : Desc) : Bool := bits d 192 192 == 1
/-- Home endpoint. -/
def dHep (d : Desc) : Nat := bits d 212 193
/-- Home partition. -/
def dHpart (d : Desc) : Nat := bits d 215 213
/-- Flat tensor. -/
def dFlat (d : Desc) : Bool := dFmt d == 15

/-- A catalogue entry that TDESC accepts (R225). A flat tensor of size 0 is one: every access to it is out of the tensor.
(log 50: DEDUCED) -/
def dOk (d : Desc) : Bool :=
  let f := dFmt d
  dTid d != 0 && bits d 511 216 == 0 && bits d 191 160 == 0 && bits d 63 39 == 0 &&
  (decide (f ≤ 5) || f == 15) &&
  (if f = 15 then bits d 127 112 == 0
   else (List.range 4).all (fun k => dDim d k != 0) &&
     (dLay d != 3 || (dDim d 0 % 4 == 0 && dDim d 1 % 4 == 0)))

/-- Interleave the bits of two coordinates, the first taking the even bits. -/
def interleave (a b : Nat) : Nat :=
  (List.range 16).foldl (fun n i => n + (a / 2 ^ i % 2) * 4 ^ i + (b / 2 ^ i % 2) * 2 * 4 ^ i) 0

/-- The smallest power of two not below n. -/
def pow2Above (n : Nat) : Nat := ((List.range 17).find? (fun i => n ≤ 2 ^ i)).elim 65536 (2 ^ ·)

/-- The tile number of coordinates (R226). -/
def tileNumber (d : Desc) (c : Word) : Nat :=
  let d0 := (fieldOf c 0).toNat
  let d1 := (fieldOf c 1).toNat
  let n0 := dDim d 0
  let n1 := dDim d 1
  let q := (fieldOf c 2).toNat + dDim d 2 * (fieldOf c 3).toNat
  match dLay d with
  | 0 => d0 + n0 * (d1 + n1 * q)
  | 1 => d1 + n1 * (d0 + n0 * q)
  | 2 => interleave d0 d1 + (pow2Above (max n0 n1)) ^ 2 * q
  | _ => d0 % 4 + 4 * (d1 % 4) + 16 * (d0 / 4 + n0 / 4 * (d1 / 4)) + n0 * n1 * q

/-- Whether coordinates lie inside the tensor (R226). -/
def inTensor (d : Desc) (c : Word) : Bool :=
  (List.range 4).all (fun k => decide ((fieldOf c (bv 2 k)).toNat < dDim d k))

/-- Tiles per frame of a format (R227). -/
def tilesPerFrame (fmt : Nat) : Nat :=
  match fmt with
  | 0 | 1 => 16
  | 2 | 3 => 32
  | 4 => 62
  | _ => 64

/-- Stored bytes of a tile, without the scale plane (R227). -/
def tileBytes (fmt : Nat) : Nat :=
  match fmt with
  | 0 | 1 => 4096
  | 2 | 3 => 2048
  | _ => 1024

/-! ## Stage 2 (R230) -/

/-- Machine frames of a channel group: groups take consecutive machine frames (log 20: DESIGN CHOICE). -/
def mfnPerGroup : Nat := 761856

/-- The machine frames of a partition, rising: its j-th frame (R223, R297). -/
def State.frameAt (s : State) (p j : Nat) : Option Nat :=
  let gs := (List.range 8).filter (fun g => (s.part p).lay.cgmask.getLsbD g)
  (gs[j / mfnPerGroup]?).map (fun g => g * mfnPerGroup + j % mfnPerGroup)

/-- Stage 2: the machine frame of a guest frame and its write bit; none where the entry is not valid (R230), as one with a bit that must be
0 is taken to be (log 89: DESIGN CHOICE). -/
def State.stage2 (s : State) (p gfn : Nat) : Option (Nat × Bool) :=
  let e := KV.getD s.fmaps (p, gfn) 0
  let mfn := bits e 22 0
  if bits e 31 31 = 1 ∧ bits e 63 32 = 0 ∧ bits e 29 23 = 0 ∧ mfn < 8 * mfnPerGroup ∧
      (s.part p).lay.cgmask.getLsbD (mfn / mfnPerGroup) then some (mfn, bits e 30 30 = 1)
  else none

/-! ## Walks (R229, R231, R236) -/

/-- What a translation ends in. -/
inductive Walk where
  | ok (mfn : Nat)
  | fault (cause : Nat)
  | page (kind gfn : Nat)
  | remote (ep part : Nat) (mot : Bool)
  deriving DecidableEq, Repr

/-- The checks of a tile-table entry, in their order (R229), then where it leads. -/
def entryCheck (d : Desc) (e : BitVec 128) (wr : Bool) : Option Nat :=
  if bits e 0 0 = 0 ∨ bits e 127 96 ≠ 0 ∨ bits e 40 9 ≠ 0 then some 8
  else if bits e 8 5 ≠ dFmt d ∨ (bits e 4 4 ≠ dGeo d) then some 4
  else if wr ∧ bits e 1 1 = 0 then some 8
  else none

/-- Walk the tile table: the walker reads G (R231); poison of an entry's bytes is not used (log 93: DESIGN CHOICE). -/
def State.walk (s : State) (p : Nat) (d : Desc) (entry : Nat) (wr : Bool) : (Walk × Option Trans) × State :=
  let g := dTtb d * 65536 + 16 * entry
  match s.stage2 p (g / 65536) with
  | none => ((.page 1 (g / 65536), none), s)
  | some (mfn, _) =>
    let at_ := mfn * 65536 + g % 65536
    let (lo, s) := s.gRead at_
    let (hi, s) := s.gRead (at_ + 8)
    let e : BitVec 128 := hi.1 ++ lo.1
    match entryCheck d e wr with
    | some c => ((.fault c, some ⟨d, e, none⟩), s)
    | none =>
      if bits e 2 2 = 1 then ((.remote (bits e 63 44) (bits e 43 41) (bits e 3 3 == 1), some ⟨d, e, none⟩), s)
      else match s.stage2 p (bits e 95 64) with
        | none => ((.page 0 (bits e 95 64), none), s)
        | some (m, w) =>
          if wr ∧ !w then ((.page 2 (bits e 95 64), none), s)
          else ((.ok m, some ⟨d, e, some (m, w)⟩), s)

/-- A cached translation, if it gives an answer for an item by this descriptor (R232): what was found for the entry without a machine
frame answers no item that needs one. -/
def Trans.use (t : Trans) (d : Desc) (wr : Bool) : Option Walk :=
  if t.desc ≠ d then none
  else match entryCheck d t.ent wr with
    | some c => some (.fault c)
    | none =>
      if bits t.ent 2 2 = 1 then some (.remote (bits t.ent 63 44) (bits t.ent 43 41) (bits t.ent 3 3 == 1))
      else match t.local_ with
        | some (m, w) => if wr ∧ !w then none else some (.ok m)
        | none => none

/-- Who translates (R231, R232): AGEN for its oldest command, XCHG for a command of its own or for a message, the overlay load of a row, or a
unit that keeps no translations. -/
inductive By where
  | agen
  | xchg (cmd : Option Nat)
  | overlay
  | unit
  deriving DecidableEq, Repr

/-- Where the translations of what is at work have led so far. -/
def Agent.framesOf (a : Agent) : By → KV Nat FrameUse
  | .agen => (a.acmds.head?).elim [] (·.frames)
  | .xchg (some q) => (a.xcmds.find? (fun c => c.seq = q)).elim [] (·.frames)
  | .overlay => a.sqr.ovly.elim [] (·.frames)
  | _ => []

/-- Where a table entry has led a command: one command keeps to it (R232). -/
def Agent.frameUsed (a : Agent) (u : By) (entry : Nat) : Option Walk :=
  (KV.get? (a.framesOf u) entry).map (fun u => match u with
    | .here m => .ok m
    | .away e p m => .remote e p m)

/-- A command has been led somewhere by a table entry. -/
def Agent.useFrame (a : Agent) (u : By) (entry : Nat) (w : Walk) : Agent :=
  let use : Option FrameUse := match w with
    | .ok m => some (.here m)
    | .remote e p m => some (.away e p m)
    | _ => none
  match use with
  | none => a
  | some f =>
    match u with
    | .agen => (match a.acmds with
      | c :: l => { a with acmds := { c with frames := KV.put c.frames entry f } :: l }
      | [] => a)
    | .xchg (some q) => { a with xcmds := a.xcmds.map (fun c => if c.seq = q then { c with frames := KV.put c.frames entry f } else c) }
    | .overlay => { a with sqr := { a.sqr with ovly := a.sqr.ovly.map (fun o => { o with frames := KV.put o.frames entry f }) } }
    | _ => a

/-- Translate one frame of an item for an agent: by the cached translation or by a walk, a free choice where both could
answer, and the same for one command throughout (R231, R232, log 3: DESIGN CHOICE). -/
def State.translate (s : State) (k : AgentKey) (u : By) (slot : Nat) (d : Desc) (entry : Nat) (wr : Bool) : Walk × State :=
  if dHrem d then (.remote (dHep d) (dHpart d) false, s)
  else if u = .unit then let ((w, _), s) := s.walk k.part d entry wr; (w, s)
  else match (s.agent k).frameUsed u entry with
    | some w => (w, s)
    | none =>
      let (key, s) := s.draw
      let cached := (KV.get? (s.agent k).tcache (slot, entry)).bind (fun t => t.use d wr)
      let (w, s) := (match cached, flip [6, key] with
        | some w, true => (w, s)
        | _, _ =>
          let ((w, t), s) := s.walk k.part d entry wr
          (w, match t with
            | some t => s.setAgent k { s.agent k with tcache := KV.put (s.agent k).tcache (slot, entry) t }
            | none => s))
      (w, s.setAgent k ((s.agent k).useFrame u entry w))

/-- The transfer fields of a word, if it has them. -/
def xferOf : Instr → Option Xfer
  | .feed _ f | .drain _ f | .fillf _ _ f | .spillf _ _ f | .tld _ _ f | .tst _ _ f | .kbld _ _ f | .tdesc _ f
  | .pref f => some f
  | _ => none

/-- The atomic fields of a word, if it has them. -/
def atomOf : Instr → Option Atom
  | .atadd a | .atcas a | .atxch a | .atmax a | .atmin a | .atand a | .ator a | .atfadd a => some a
  | _ => none

/-! ## Places that locators name (R165, R188) -/

/-- Kind of a locator. -/
def lKind (l : Word) : Nat := bits l 63 60
/-- Column of a folio or tile-store locator. -/
def lCol (l : Word) : Nat := bits l 59 54
/-- Descriptor slot of a tensor locator. -/
def lTd (l : Word) : BitVec 4 := bv 4 (bits l 51 48)

/-- The descriptor slot that the items of an AGEN command use; td0 for what names none, and for TDESC, which reads the catalogue by it. -/
def ACmd.slot (c : ACmd) : Nat := ((xferOf c.ins).map (·.td.toNat)).getD (((atomOf c.ins).map (·.td.toNat)).getD 0)

/-- The descriptor slot that an AGEN command names: TDESC the one it loads (R164, R257). -/
def ACmd.named (c : ACmd) : Nat :=
  match c.ins with
  | .tdesc slot _ => slot.toNat
  | _ => c.slot

/-- The descriptor slot of the place that an XCHG command works on (R257). -/
def XCmd.slot (c : XCmd) : Nat := (lTd (match c.ins with
  | .send _ | .xwr _ => c.asrc
  | _ => c.adst)).toNat

/-- What is at work keeps no translation of the slots selected (R232): an overlay load is by td0. -/
def Agent.dropFrames (a : Agent) (sel : Nat → Bool) : Agent :=
  { a with
    acmds := a.acmds.map (fun c => if sel c.slot then { c with frames := [] } else c)
    xcmds := a.xcmds.map (fun c => if sel c.slot then { c with frames := [] } else c)
    sqr := if sel 0 then { a.sqr with ovly := a.sqr.ovly.map (fun o => { o with frames := [] }) } else a.sqr }

/-- Drop the cached translations of a descriptor slot (R232, R257). -/
def Agent.dropSlot (a : Agent) (slot : Nat) : Agent :=
  ({ a with tcache := a.tcache.filter (fun e => e.1.1 ≠ slot) } : Agent).dropFrames (· == slot)

/-- Drop every cached translation of a partition (R232). -/
def State.dropPart (s : State) (p : Nat) : State :=
  { s with agents := s.agents.map (fun e => if e.1.part = p then (e.1, ({ e.2 with tcache := [] } : Agent).dropFrames (fun _ => true)) else e) }

/-! ## Where an item lies -/

/-- What an item of device memory resolves to: runs of machine bytes, or what stops it. -/
inductive Loc where
  | runs (l : List (Nat × Nat))
  | fault (cause : Nat)
  | page (kind gfn : Nat)
  | remote (ep part : Nat) (mot : Bool)
  deriving DecidableEq, Repr

/-- Runs of one flat byte range, frame by frame (R227). -/
def State.flatRuns (s : State) (k : AgentKey) (u : By) (slot : Nat) (d : Desc) (wr : Bool) :
    Nat → Nat → Nat → Loc × State
  | 0, _, _ => (.runs [], s)
  | f + 1, x, n =>
    if n = 0 then (.runs [], s)
    else
      let here := min n (65536 - x % 65536)
      match s.translate k u slot d (x / 65536) wr with
      | (.fault c, s) => (.fault c, s)
      | (.page kd g, s) => (.page kd g, s)
      | (.remote e p m, s) => (.remote e p m, s)
      | (.ok m, s) =>
        match s.flatRuns k u slot d wr f (x + here) (n - here) with
        | (.runs l, s) => (.runs ((m * 65536 + x % 65536, here) :: l), s)
        | r => r

/-- A byte range of a flat tensor (R188, R194, R226): `n` bytes from offset `x`. -/
def State.flatLoc (s : State) (k : AgentKey) (u : By) (slot : Nat) (d : Desc) (x n : Nat) (wr : Bool) : Loc × State :=
  if dSize d < x + n then (.fault 6, s) else s.flatRuns k u slot d wr 6 x n

/-- A tile of a tiled tensor (R226, R227): its stored bytes, and for M8 its scale plane after them. -/
def State.tileLoc (s : State) (k : AgentKey) (u : By) (slot : Nat) (d : Desc) (c : Word) (wr : Bool) : Loc × State :=
  if !inTensor d c then (.fault 6, s)
  else
    let f := dFmt d
    let t := tileNumber d c
    match s.translate k u slot d (t / tilesPerFrame f) wr with
    | (.fault c, s) => (.fault c, s)
    | (.page kd g, s) => (.page kd g, s)
    | (.remote e p m, s) => (.remote e p m, s)
    | (.ok m, s) =>
      let i := t % tilesPerFrame f
      let main := (m * 65536 + tileBytes f * i, tileBytes f)
      (.runs (if f = 4 then [main, (m * 65536 + 63488 + 32 * i, 32)] else [main]), s)

/-- The words of runs of bytes. -/
def runWords : List (Nat × Nat) → List PByte → List WWrite
  | [], _ => []
  | r :: l, bs => wordsOfRun r.2 r.1 (bs.take r.2) ++ runWords l (bs.drop r.2)

/-! ## Host steps by td0 offset (R209, R303): the front end uses the context's td0 -/

/-- The machine address of a byte of a context's flat td0; none where it does not translate. The walk reads the tile table. -/
def State.td0Addr (s : State) (p : Nat) (d : Desc) (x : Nat) : Option Nat × State :=
  if dSize d ≤ x then (none, s)
  else match s.walk p d (x / 65536) false with
    | ((.ok m, _), s) => (some (m * 65536 + x % 65536), s)
    | (_, s) => (none, s)

/-- A front-end read of an 8-byte word of td0; what does not translate reads as a free value (log 23: DESIGN CHOICE). -/
def State.hostRead (s : State) (p : Nat) (d : Desc) (x : Nat) : Word × State :=
  match s.td0Addr p d x with
  | (some a, s) => let (v, s) := s.gRead a; (v.1, s)
  | (none, s) => let (k, s) := s.draw; (bv 64 (Config.pick [7, k]), s)

/-- A front-end write of an 8-byte word of td0; what does not translate is not written (log 23: DESIGN CHOICE). -/
def State.hostWrite (s : State) (p : Nat) (d : Desc) (x : Nat) (w : Word) : State :=
  match s.td0Addr p d x with
  | (some a, s) => s.gWrite [(a, w, false)]
  | (none, s) => s

/-- Add to an 8-byte counter of td0 by one atomic step (R210, R303, R307). -/
def State.hostAdd (s : State) (p : Nat) (d : Desc) (x : Nat) (n : Word) : State :=
  match s.td0Addr p d x with
  | (some a, s) => let (v, s) := s.gRead a; s.gWrite [(a, v.1 + n, v.2)]
  | (none, s) => s

/-! ## Work of the front end, word by word (R209, log 37: DESIGN CHOICE) -/

/-- The work that is under way for an instruction; else work that has not begun. -/
def workOn (w : Option Work) (i : Instr) : Work :=
  match w with
  | some w => if w.ins = i then w else ⟨i, false, [], [], 0⟩
  | none => ⟨i, false, [], [], 0⟩

/-- Consecutive words of td0: those that have been read come from the list, the others by host steps now (R209). -/
def State.hostWords (s : State) (got : List Word) (p : Nat) (d : Desc) (x n : Nat) : List Word × State :=
  (List.range n).foldl (fun (acc : List Word × State) i =>
    match got[i]? with
    | some w => (acc.1 ++ [w], acc.2)
    | none => let (w, s) := acc.2.hostRead p d (x + 8 * i); (acc.1 ++ [w], s)) ([], s)

/-- Words that are still to be written, by host steps (R209). -/
def State.hostWrites (s : State) (p : Nat) (d : Desc) (l : List (Nat × Word × Bool)) : State :=
  l.foldl (fun s e => s.hostWrite p d e.1 e.2.1) s

/-- Counters that are still to be added to, each by an atomic step (R209, R307). -/
def State.hostAdds (s : State) (p : Nat) (d : Desc) (l : List (Nat × Word × Bool)) : State :=
  l.foldl (fun s e => s.hostAdd p d e.1 e.2.1) s

/-! ## Page requests (R233–R235) -/

/-- A page-request record (R233). -/
def pageRecord (d : Desc) (gfn : Nat) (coord : Word) (seq kind : Nat) (k : AgentKey) (xchg wr : Bool) (col : Nat) :
    BitVec 256 :=
  bv 256 (pack [(32, dTid d), (32, gfn), (64, coord.toNat), (64, seq), (8, 0), (4, kind), (3, k.part), (4, k.strand),
    (5, k.row), (1, xchg.toNat), (1, wr.toNat), (6, col), (32, 0)])

/-- The entry a partition may take: a reserved one while any is free, else a shared one (R235). -/
def State.pageEntry (s : State) (p : Nat) : Option (Nat × Bool) :=
  let mine := s.pageq.filter (fun e => e.2.part = p)
  let res := (mine.filter (fun e => e.2.reserved)).length
  let sh := (mine.filter (fun e => !e.2.reserved)).length
  let shared := (s.pageq.filter (fun e => !e.2.reserved)).length
  match (List.range 1024).find? (fun i => (KV.get? s.pageq i).isNone) with
  | none => none
  | some i =>
    if res < 32 then some (i, true)
    else if sh < 256 ∧ shared < 768 then some (i, false) else none

/-- Tell a waiter where its page request stands. -/
def State.setPage (s : State) (w : Waiter) (p : Page) : State :=
  match w with
  | .agen k q =>
    let a := s.agent k
    s.setAgent k { a with acmds := a.acmds.map (fun c => if c.seq = q then { c with page := p } else c) }
  | .xchg k q =>
    let a := s.agent k
    s.setAgent k { a with xcmds := a.xcmds.map (fun c => if c.seq = q then { c with page := p } else c) }
  | .slot key =>
    { s with fab := { s.fab with slots := s.fab.slots.map (fun c => if c.key = key then { c with page := p } else c) } }
  | .overlay k addr =>
    let a := s.agent k
    s.setAgent k { a with sqr := { a.sqr with ovly := a.sqr.ovly.map (fun o => if o.addr = addr then { o with page := p } else o) } }
  | .gone => s

/-- Items that are no more: their posted entries stay held until a response, those not posted are forgotten (R234, R235). -/
def State.forget (s : State) (dead : Waiter → Bool) : State :=
  { s with pageq := s.pageq.map (fun e => if dead e.2.who then (e.1, { e.2 with who := .gone }) else e)
           unposted := s.unposted.filter (fun e => !dead e.1) }

/-- Post a page request, or keep it in fault order until an entry frees (R233, R235). -/
def State.postPage (s : State) (w : Waiter) (p : Nat) (r : BitVec 256) : State :=
  match s.pageEntry p with
  | some (i, res) => { s.setPage w (.posted i) with pageq := KV.put s.pageq i ⟨r, w, p, res⟩ }
  | none => { s.setPage w .unposted with unposted := s.unposted ++ [(w, p, r)] }

/-- After an entry frees, the oldest waiting request of its partition posts (R235). -/
def State.postDeferred (s : State) (p : Nat) : State :=
  match s.unposted.find? (fun e => e.2.1 = p) with
  | some e =>
    match s.pageEntry p with
    | some _ => ({ s with unposted := s.unposted.erase e }).postPage e.1 p e.2.2
    | none => s
  | none => s

end Sys2Proof.Machine
end

