-- ==== Sys2Proof/Machine/FabricOps.lean ====
section
/-! DEFINITION. What a message is made of (spec/16): the field arithmetic and the code, the check word, headers,
fragments on their way out, fabric time and deadlines, counters. -/

namespace Sys2Proof.Machine

open Sys2Proof

/-! ## The code of a message (R266, R267) -/

/-- The coefficient of data fragment i in parity fragment j (R266). -/
def codeCoef (j i : Nat) : Byte :=
  let x := bv 8 j
  let y := bv 8 (8 + i)
  let y0 := bv 8 8
  gfMul (gfMul y (x ^^^ y0)) (gfInv (gfMul y0 (x ^^^ y)))

/-- The sum of two runs of bytes. -/
def gfAdd (a b : List Byte) : List Byte := List.zipWith (· ^^^ ·) a b

/-- A run of bytes times a coefficient. -/
def gfScale (c : Byte) (a : List Byte) : List Byte := a.map (gfMul c)

/-- Zero bytes of a payload. -/
def zeroPayload : List Byte := List.replicate 512 0

/-- Parity fragment j over the data fragments (R267). -/
def parityOf (j : Nat) (ds : List (List Byte)) : List Byte :=
  (ds.zipIdx).foldl (fun acc d => gfAdd acc (gfScale (codeCoef j d.2) d.1)) zeroPayload

/-- Solve for the data fragments by elimination: each row holds its coefficients and its payload. `c` counts columns. -/
def gfSolve (k : Nat) : Nat → Nat → List (List Byte × List Byte) → List (List Byte × List Byte)
  | 0, _, rows => rows
  | f + 1, c, rows =>
    match rows.findIdx? (fun r => decide (r.1.getD c 0 ≠ 0) && (List.range c).all (fun i => r.1.getD i 0 = 0)) with
    | none => gfSolve k f (c + 1) rows
    | some p =>
      let pr := rows.getD p ([], [])
      let inv := gfInv (pr.1.getD c 0)
      let piv := (gfScale inv pr.1, gfScale inv pr.2)
      let rows := rows.zipIdx.map (fun r => if r.2 = p then piv else
        let m := r.1.1.getD c 0
        (gfAdd r.1.1 (gfScale m piv.1), gfAdd r.1.2 (gfScale m piv.2)))
      gfSolve k f (c + 1) rows

/-! ## Check word and header (R264) -/

/-- One byte through CRC-32C. -/
def crcByte (c : BitVec 32) (b : Byte) : BitVec 32 :=
  (List.range 8).foldl (fun c _ => if c.getLsbD 0 then (c >>> 1) ^^^ 0x82F63B78 else c >>> 1) (c ^^^ b.setWidth 32)

/-- CRC-32C of bytes. -/
def crc32c (bs : List Byte) : BitVec 32 := ~~~(bs.foldl crcByte 0xFFFFFFFF)

/-- The header fields below the check word, most significant first. -/
def headFields (f : Frag) : List (Nat × Nat) :=
  [(64, f.opnd.toNat), (32, f.mseq.toNat), (20, f.src.toNat), (3, f.spart.toNat), (5, f.srow.toNat),
   (4, f.sstrand.toNat), (1, f.grp.toNat), (20, f.dst.toNat), (3, f.dpart.toNat), (5, f.drow.toNat),
   (4, f.dstrand.toNat), (5, f.k.toNat), (4, f.m.toNat), (5, f.fidx.toNat), (7, f.ln.toNat), (3, f.plane.toNat),
   (6, f.hops.toNat), (3, f.cls.toNat), (4, f.op.toNat), (1, f.rty.toNat), (16, f.dtime.toNat), (8, f.pois.toNat),
   (1, f.rsv.toNat)]

/-- Payload bytes of a fragment. -/
def payloadBytes (f : Frag) : List Byte := bytesOfBV 512 f.payload

/-- The check word of a fragment: header bytes 0–27, then the payload. -/
def fragCrc (f : Frag) : BitVec 32 := crc32c (bytesOf 28 (pack (headFields f)) ++ payloadBytes f)

/-- A fragment with its check word. -/
def sealFrag (f : Frag) : Frag := { f with crc := fragCrc f }

/-- The header with every field zero. -/
def fragZero : Frag :=
  ⟨0, 0, 0, 0, 0, 0, 0, false, 0, 0, 0, 0, 0, 0, 0, 0, 0, 0, 0, 0, false, 0, 0, false, 0⟩

/-! ## Fabric time (R264, R270, R273, R279) -/

/-- Bits [21:6] of a fabric time. -/
def dtimeOf (ns : Nat) : BitVec 16 := bv 16 (ns / 64)

/-- Whether a deadline has passed at a fabric time (R270). -/
def passedAt (ns : Nat) (d : BitVec 16) : Bool :=
  let x := (dtimeOf ns - d).toNat
  decide (1 ≤ x ∧ x < 32768)

/-- Whether a deadline has passed (R270). -/
def State.passed (s : State) (d : BitVec 16) : Bool := passedAt s.fab.ftime d

/-- The mesh period in units of 1/1938 ns by fcode (R239, R241, log 2: DEDUCED). -/
def meshPeriod (fcode : BitVec 3) : Nat :=
  match fcode.toNat with
  | 0 => 1020
  | 1 => 1140
  | 2 => 1292
  | 3 => 1615
  | _ => 2040

/-- When the mesh cycle of a partition that the present moment ends, or stands in, began. -/
def State.cycleStart (s : State) (p : Nat) : Nat :=
  let P := meshPeriod (s.part p).lay.fcode
  let b := (s.part p).due - P
  if s.now ≤ b then b - P else b

/-- Fabric time at the start of the present mesh cycle of a partition; a partition that is not in force has no mesh cycles. -/
def State.ftimeStart (s : State) (p : Nat) : Nat :=
  if (s.part p).lay.v then s.fab.ftime - (s.now / 1938 - s.cycleStart p / 1938) else s.fab.ftime

/-- Whether a deadline had passed before the present mesh cycle of a partition: a fragment that arrives in the cycle in which the
comparison first holds has come in time (R270). -/
def State.passedBefore (s : State) (p : Nat) (d : BitVec 16) : Bool := s.passed d && passedAt (s.ftimeStart p) d

/-! ## Identity and counters -/

/-- This device's endpoint id (R262). -/
def State.myId (s : State) : Nat := bits s.fab.fabid 19 0

/-- Endpoints in the system (R262). -/
def State.nsys (s : State) : Nat := bits s.fab.fabid 39 20

/-- Change the fabric counters of a partition (R281). -/
def State.count (s : State) (p : Nat) (f : Counters → Counters) : State :=
  let x := s.part p
  s.setPart p { x with ctr := f x.ctr }

/-! ## Messages -/

/-- A message to be sent: operation, operand, number, source agent, destination, bytes, code, class, deadline, and where it comes from
where its destination is to know (R206, R236). -/
structure Msg where
  op : Nat
  opnd : Word
  mseq : BitVec 32
  src : AgentKey
  grp : Bool
  dst : Nat
  dag : AgentKey
  bytes : List PByte
  k : Nat
  m : Nat
  ln : Nat
  cls : Nat
  rty : Bool
  dtime : BitVec 16
  from_ : Option Origin := none
  deriving DecidableEq, Repr

/-- The poison bits of a payload: one for each 64 bytes (R264). -/
def unitPois (bs : List PByte) : BitVec 8 :=
  (List.range 8).foldl (fun v u => if ((bs.drop (64 * u)).take 64).any (·.2) then v ||| bv 8 (2 ^ u) else v) 0

/-- The header that all fragments of a message share (R264). -/
def State.msgHead (s : State) (m : Msg) : Frag :=
  { fragZero with
    opnd := m.opnd, mseq := m.mseq, src := bv 20 s.myId, spart := bv 3 m.src.part, srow := bv 5 m.src.row
    sstrand := bv 4 m.src.strand, grp := m.grp, dst := bv 20 m.dst, dpart := bv 3 m.dag.part, drow := bv 5 m.dag.row
    dstrand := bv 4 m.dag.strand, k := bv 5 m.k, m := bv 4 m.m, ln := bv 7 m.ln, cls := bv 3 m.cls, op := bv 4 m.op
    rty := m.rty, dtime := m.dtime }

/-- The fragments of a message in index order, on their planes (R267, R268). -/
def State.fragments (s : State) (m : Msg) : List Frag :=
  let h := s.msgHead m
  let datas := (List.range m.k).map (fun i => (m.bytes.drop (512 * i)).take 512)
  let full := datas.map (fun d => (d.map (·.1) ++ zeroPayload).take 512)
  let po := datas.map unitPois
  let allPo := po.foldl (· ||| ·) 0
  let data := (full.zip po).zipIdx.map (fun d =>
    { h with fidx := bv 5 d.2, pois := d.1.2, payload := bv 4096 (natOfBytes d.1.1) })
  let par := (List.range m.m).map (fun j =>
    { h with fidx := bv 5 (m.k + j), pois := allPo, payload := bv 4096 (natOfBytes (parityOf j full)) })
  (data ++ par).map (fun f => sealFrag { f with plane := bv 3 (f.fidx.toNat + m.mseq.toNat % 8) })

/-- Queue a message's fragments to leave (R268, R269, R324): to another device, within the device, or both for a group
whose entry has loc set. -/
def State.sendMsg (s : State) (m : Msg) (charged : Bool) (owner : Option (AgentKey × Nat)) : State × Nat :=
  let fs := s.fragments m
  let entry := KV.getD s.fab.groups m.dst 0
  let inside := if m.grp then entry.getLsbD 62 else m.dst == s.myId
  let outside := m.grp || m.dst != s.myId
  let outs := (if outside then fs.map (fun f => (⟨m.src.part, charged, false, owner, m.from_, f⟩ : OutFrag)) else []) ++
    (if inside then fs.map (fun f => (⟨m.src.part, false, true, owner, m.from_, sealFrag { f with plane := 0 }⟩ : OutFrag)) else [])
  ({ s with fab := { s.fab with outq := s.fab.outq ++ outs } }, outs.length)

/-- The source agent of a fragment. -/
def fragSrc (f : Frag) : AgentKey := ⟨f.spart.toNat, f.sstrand.toNat, f.srow.toNat⟩

/-- The destination agent of a fragment. -/
def fragDst (f : Frag) : AgentKey := ⟨f.dpart.toNat, f.dstrand.toNat, f.drow.toNat⟩

/-- The key of a fragment's message, report or resend request (R270). -/
def fragKey (f : Frag) : MKey :=
  ⟨⟨f.src.toNat, fragSrc f⟩, f.mseq.toNat,
    if f.op.toNat = 5 then some (fragDst f, 5, f.opnd.toNat % 256)
    else if f.op.toNat = 6 then some (fragDst f, 6, 0) else none⟩

/-- Send a report about a message whose header is `h`: k = m = 1, dtime 1,023 µs from now; never charged (R264, R269,
R276). (log 41: DEDUCED) -/
def State.report (s : State) (h : Frag) (status cause : Nat) : State :=
  (s.sendMsg
    { op := 5, opnd := bv 64 (status + 256 * cause), mseq := h.mseq, src := fragDst h, grp := false, dst := h.src.toNat
      dag := fragSrc h, bytes := [], k := 1, m := 1, ln := 0, cls := 0, rty := false
      dtime := dtimeOf (s.fab.ftime + 1023000) } false none).1

end Sys2Proof.Machine
end

