-- ==== Sys2Proof/Machine/Flags.lean ====
section
/-! DEFINITION. The sticky flags of fst and how the conditions of R94 set them; the overflow-table entries of R89 and R95. -/

namespace Sys2Proof.Machine

open Sys2Proof

/-- nv: invalid (R16). -/
def fNv : BitVec 5 := 0x01
/-- dz: divide by zero (R16). -/
def fDz : BitVec 5 := 0x02
/-- of: overflow (R16). -/
def fOf : BitVec 5 := 0x04
/-- uf: underflow (R16). -/
def fUf : BitVec 5 := 0x08
/-- ix: inexact (R16). -/
def fIx : BitVec 5 := 0x10

/-- A flag under a condition. -/
def fIf (c : Bool) (f : BitVec 5) : BitVec 5 := if c then f else 0

/-- A result of one element: its bits, the flags it sets, and whether it poisons its granule (R94, R95, R104). -/
structure Res where
  bits : Nat
  fl : BitVec 5
  pois : Bool
  deriving DecidableEq, Repr

/-- A result that raises no condition. -/
def Res.exact (b : Nat) : Res := ⟨b, 0, false⟩

/-- The flags of a word: the OR over its elements (R94). -/
def orFlags (l : List Res) : BitVec 5 := l.foldl (fun f r => f ||| r.fl) 0

/-- Whether any element poisons the granule (R104). -/
def resPois (l : List Res) : Bool := l.any (fun r => r.pois)

/-- An entry of the overflow table (R95). -/
inductive OvE where
  | largest | infinity | nan | poison
  deriving DecidableEq, Repr

/-- The code of an IEEE entry (R89). -/
def ieeeEntry (n : Nat) : OvE :=
  match n with
  | 1 => .infinity
  | 2 => .nan
  | _ => .largest

/-- The code of any other entry (R89). -/
def otherEntry (n : Nat) : OvE := if n = 1 then .poison else .largest

/-- Two bits of the overflow table. -/
def ovBits (ovf : BitVec 14) (lo : Nat) : Nat := ovf.toNat / 2 ^ lo % 4

/-- The f32 entry (R89). -/
def ovF32 (ovf : BitVec 14) : OvE := ieeeEntry (ovBits ovf 0)
/-- The bf16 entry (R89). -/
def ovBf16 (ovf : BitVec 14) : OvE := ieeeEntry (ovBits ovf 2)
/-- The m8 entry (R89). -/
def ovM8 (ovf : BitVec 14) : OvE := otherEntry (ovBits ovf 4)
/-- The i8 entry (R89). -/
def ovI8 (ovf : BitVec 14) : OvE := otherEntry (ovBits ovf 6)
/-- The i16 entry (R89). -/
def ovI16 (ovf : BitVec 14) : OvE := otherEntry (ovBits ovf 8)
/-- The i32 entry (R89). -/
def ovI32 (ovf : BitVec 14) : OvE := otherEntry (ovBits ovf 10)
/-- The fx128 entry (R89). -/
def ovFx (ovf : BitVec 14) : OvE := otherEntry (ovBits ovf 12)

end Sys2Proof.Machine
end

