-- ==== Sys2Proof/Machine/Number.lean ====
section
/-! DEFINITION. Number formats (spec/04): FP32 and BF16 with one rounding routine, min, max and compare, integers, the M8
marker format and its block conversion, FX128, and the FP32 sum of ATFADD. Values are exact until the one rounding. -/

namespace Sys2Proof.Machine

open Sys2Proof

/-! ## Rounding (R92) -/

/-- A rounding mode (R13, R92). -/
inductive RMode where
  | rne | rtz | rdn | rup | rna
  deriving DecidableEq, Repr

/-- The mode of the rnd field of fpc (R13). -/
def fpcMode (fpc : BitVec 4) : RMode :=
  match fpc.toNat % 8 with
  | 2 => .rtz
  | 3 => .rdn
  | 4 => .rup
  | 5 => .rna
  | _ => .rne

/-- The mode of a word: its rnd field, or fpc (R92). -/
def rndMode (r : Rnd) (fpc : BitVec 4) : RMode :=
  match r with
  | .fpc => fpcMode fpc
  | .rne => .rne
  | .rtz => .rtz
  | .rdn => .rdn
  | .rup => .rup
  | .rna => .rna

/-- m / 2^sh rounded to an integer, for a value of the given sign, and whether it is inexact (R92). -/
def roundShift (rm : RMode) (neg : Bool) (m sh : Nat) : Nat × Bool :=
  let q := m >>> sh
  let r := m - q <<< sh
  let half := (1 <<< sh) / 2
  let up : Bool := match rm with
    | .rne => decide (half < r) || (r == half && q % 2 == 1)
    | .rtz => false
    | .rdn => neg
    | .rup => !neg
    | .rna => decide (half ≤ r)
  if r = 0 then (q, false) else (if up then q + 1 else q, true)

/-- m · 2^e rounded to a multiple of 2^u: the multiple, and whether it is inexact. -/
def roundTo (rm : RMode) (neg : Bool) (m : Nat) (e u : Int) : Nat × Bool :=
  if u ≤ e then (m <<< (e - u).toNat, false) else roundShift rm neg m (u - e).toNat

/-! ## FP32 and BF16 (R90, R91, R93–R95) -/

/-- A floating-point value: a NaN, an infinity, or (−1)^neg · m · 2^e. -/
inductive Fp where
  | nan (sig : Bool)
  | inf (neg : Bool)
  | fin (neg : Bool) (m : Nat) (e : Int)
  deriving DecidableEq, Repr

/-- The value of the bits of a format with f fraction bits and 8 exponent bits: f = 23 for FP32, 7 for BF16 (R90, R93). -/
def fpUnpack (f x : Nat) : Fp :=
  let neg := x.testBit (f + 8)
  let ex := x >>> f % 256
  let fr := x % 2 ^ f
  if ex = 255 then (if fr = 0 then .inf neg else .nan (!fr.testBit (f - 1)))
  else if ex = 0 then .fin neg fr (-126 - (f : Int))
  else .fin neg (2 ^ f + fr) ((ex : Int) - 127 - (f : Int))

/-- The sign bit of a format. -/
def fpSign (f : Nat) (neg : Bool) : Nat := if neg then 2 ^ (f + 8) else 0

/-- An infinity. -/
def fpInf (f : Nat) (neg : Bool) : Nat := fpSign f neg + 255 * 2 ^ f

/-- The largest finite value. -/
def fpMax (f : Nat) (neg : Bool) : Nat := fpSign f neg + 255 * 2 ^ f - 1

/-- The canonical NaN (R91). -/
def fpNan (f : Nat) : Nat := 255 * 2 ^ f + 2 ^ (f - 1)

/-- How a word rounds: mode, flush, overflow entry. -/
structure FEnv where
  rm : RMode
  fz : Bool
  ent : OvE
  deriving DecidableEq, Repr

/-- The overflow result of an IEEE format (R95). -/
def fpOverflow (f : Nat) (env : FEnv) (neg : Bool) : Res :=
  let big := fpMax f neg
  let b := match env.ent with
    | .largest | .poison => big
    | .nan => fpNan f
    | .infinity => match env.rm with
      | .rne | .rna => fpInf f neg
      | .rtz => big
      | .rdn => if neg then fpInf f neg else big
      | .rup => if neg then big else fpInf f neg
  ⟨b, fOf ||| fIx, env.ent == .poison⟩

/-- Round a nonzero exact value once: overflow by the entry, flush by fz (R92–R95). -/
def fpRound (f : Nat) (env : FEnv) (neg : Bool) (m : Nat) (e : Int) : Res :=
  let top : Int := (Nat.log2 m : Int) + e
  let (qu, _) := roundTo env.rm neg m e (top - f)
  let topR : Int := if 2 ^ (f + 1) ≤ qu then top + 1 else top
  if 127 < topR then fpOverflow f env neg
  else
    let tiny : Bool := decide (topR < -126)
    if tiny && env.fz then ⟨fpSign f neg, fUf ||| fIx, false⟩
    else
      let u : Int := max (top - f) (-126 - (f : Int))
      let (q, inx) := roundTo env.rm neg m e u
      let b := (u + 126 + f).toNat * 2 ^ f + q
      ⟨fpSign f neg + b, fIf inx fIx ||| fIf (tiny && inx) fUf, false⟩

/-- Deliver a value in a format: one rounding, canonical NaN (R91, R92). -/
def fpOut (f : Nat) (env : FEnv) : Fp → Res
  | .nan sig => ⟨fpNan f, fIf sig fNv, false⟩
  | .inf neg => .exact (fpInf f neg)
  | .fin neg m e => if m = 0 then .exact (fpSign f neg) else fpRound f env neg m e

/-- A signed integer m · 2^e at a smaller exponent. -/
def signedAt (neg : Bool) (m : Nat) (e lo : Int) : Int :=
  let v : Int := (m <<< (e - lo).toNat : Nat)
  if neg then -v else v

/-- The exact sum of two finite values; an exact zero takes its sign as IEEE 754 prescribes (R121). -/
def finSum (rm : RMode) (n1 : Bool) (m1 : Nat) (e1 : Int) (n2 : Bool) (m2 : Nat) (e2 : Int) : Fp :=
  let lo := min e1 e2
  let v := signedAt n1 m1 e1 lo + signedAt n2 m2 e2 lo
  if v = 0 then .fin (if m1 = 0 ∧ m2 = 0 ∧ n1 = n2 then n1 else rm == .rdn) 0 lo
  else .fin (decide (v < 0)) v.natAbs lo

/-- Whether a value is a NaN. -/
def Fp.isNan : Fp → Bool
  | .nan _ => true
  | _ => false

/-- Whether a value is a signalling NaN. -/
def Fp.isSig : Fp → Bool
  | .nan s => s
  | _ => false

/-- The sign inverted. -/
def Fp.negate : Fp → Fp
  | .nan s => .nan s
  | .inf n => .inf (!n)
  | .fin n m e => .fin (!n) m e

/-- The exact product, invalid for 0 × ∞; no source is a NaN. -/
def fpProd : Fp → Fp → Option Fp
  | .fin n1 m1 e1, .fin n2 m2 e2 => some (.fin (n1 != n2) (m1 * m2) (e1 + e2))
  | .inf n1, .inf n2 => some (.inf (n1 != n2))
  | .inf n1, .fin n2 m _ | .fin n2 m _, .inf n1 => if m = 0 then none else some (.inf (n1 != n2))
  | _, _ => none

/-- The exact sum, invalid for ∞ − ∞; no source is a NaN. -/
def fpPlus (rm : RMode) : Fp → Fp → Option Fp
  | .fin n1 m1 e1, .fin n2 m2 e2 => some (finSum rm n1 m1 e1 n2 m2 e2)
  | .inf n1, .inf n2 => if n1 = n2 then some (.inf n1) else none
  | .inf n, _ | _, .inf n => some (.inf n)
  | _, _ => none

/-- The invalid result (R91). -/
def fpInvalid (f : Nat) : Res := ⟨fpNan f, fNv, false⟩

/-- Add (R121). -/
def fpAdd (f : Nat) (env : FEnv) (a b : Fp) : Res :=
  if a.isNan || b.isNan then ⟨fpNan f, fIf (a.isSig || b.isSig) fNv, false⟩
  else match fpPlus env.rm a b with
    | none => fpInvalid f
    | some v => fpOut f env v

/-- Multiply (R121). -/
def fpMul (f : Nat) (env : FEnv) (a b : Fp) : Res :=
  if a.isNan || b.isNan then ⟨fpNan f, fIf (a.isSig || b.isSig) fNv, false⟩
  else match fpProd a b with
    | none => fpInvalid f
    | some v => fpOut f env v

/-- ±(a × b) + c with one rounding; 0 × ∞ is invalid whatever the addend (R91, R121). -/
def fpFused (f : Nat) (env : FEnv) (negProd : Bool) (a b c : Fp) : Res :=
  let bad : Bool := !a.isNan && !b.isNan && (fpProd a b).isNone
  if a.isNan || b.isNan || c.isNan || bad then
    ⟨fpNan f, fIf (a.isSig || b.isSig || c.isSig || bad) fNv, false⟩
  else match fpProd a b with
    | none => fpInvalid f
    | some p => match fpPlus env.rm (if negProd then p.negate else p) c with
      | none => fpInvalid f
      | some v => fpOut f env v

/-- The place of a value in the order of its format: zeros of both signs are equal. -/
def fpKey (f x : Nat) : Int :=
  let m : Int := (x % 2 ^ (f + 8) : Nat)
  if x.testBit (f + 8) then -m else m

/-- Minimum or maximum, delivered unchanged (R91, R121). -/
def fpMinMax (f : Nat) (mx : Bool) (x y : Nat) : Res :=
  let a := fpUnpack f x
  let b := fpUnpack f y
  if a.isNan || b.isNan then ⟨fpNan f, fIf (a.isSig || b.isSig) fNv, false⟩
  else
    let kx := fpKey f x
    let ky := fpKey f y
    if kx = ky then .exact (if mx then x &&& y else x ||| y)
    else .exact (if decide (kx < ky) != mx then x else y)

/-- Truth of an integer compare (R44). -/
def condHolds (c : ICond) (x y : Int) : Bool :=
  match c with
  | .eq => decide (x = y)
  | .ne => decide (x ≠ y)
  | .lt => decide (x < y)
  | .le => decide (x ≤ y)
  | .gt => decide (y < x)
  | .ge => decide (y ≤ x)

/-- The order of a floating-point compare, where it has one. -/
def condOrder : Cond → Option ICond
  | .eq => some .eq
  | .ne => some .ne
  | .lt => some .lt
  | .le => some .le
  | .gt => some .gt
  | .ge => some .ge
  | .un | .or => none

/-- A floating-point compare: its truth and its flags (R91, R123). -/
def fpCompare (f : Nat) (c : Cond) (x y : Nat) : Bool × BitVec 5 :=
  let a := fpUnpack f x
  let b := fpUnpack f y
  let sig := a.isSig || b.isSig
  if a.isNan || b.isNan then
    (match c with
      | .eq | .or => (false, fIf sig fNv)
      | .ne | .un => (true, fIf sig fNv)
      | _ => (false, fNv))
  else match condOrder c with
    | some o => (condHolds o (fpKey f x) (fpKey f y), 0)
    | none => (c == Cond.or, 0)

/-- VABS and VNEG of one lane (R122). -/
def fpSignOp (f : Nat) (neg : Bool) (x : Nat) : Res :=
  match fpUnpack f x with
  | .nan sig => ⟨fpNan f, fIf sig fNv, false⟩
  | _ => .exact (if neg then x ^^^ 2 ^ (f + 8) else x % 2 ^ (f + 8))

/-! ## Integers (R100) -/

/-- A w-bit two's-complement number. -/
def sgn (w x : Nat) : Int := (BitVec.ofNat w x).toInt

/-- The w low bits of an integer. -/
def wrapInt (w : Nat) (v : Int) : Nat := (BitVec.ofInt w v).toNat

/-- The format's minimum and maximum. -/
def intMin (w : Nat) : Int := -(2 ^ (w - 1) : Nat)
/-- The format's maximum. -/
def intMax (w : Nat) : Int := ((2 ^ (w - 1) : Nat) : Int) - 1

/-- Clamp to the range of a format. -/
def satInt (w : Nat) (v : Int) : Int := if v < intMin w then intMin w else if intMax w < v then intMax w else v

/-- Wrap or saturate (R100). -/
def fitInt (w : Nat) (sat : Bool) (v : Int) : Nat := wrapInt w (if sat then satInt w v else v)

/-- An integer narrowed to w bits: out of range follows the entry and sets of and ix (R100). -/
def narrowInt (w : Nat) (ent : OvE) (v : Int) : Res :=
  if satInt w v = v then .exact (wrapInt w v) else ⟨wrapInt w (satInt w v), fOf ||| fIx, ent == .poison⟩

/-- A floating-point value to a w-bit integer at scale 2^−k: rounded, out of range by the entry with nv and ix (R100, R102). -/
def fpToInt (w k : Nat) (rm : RMode) (ent : OvE) : Fp → Res
  | .nan _ => ⟨0, fNv, ent == .poison⟩
  | .inf neg => ⟨wrapInt w (if neg then intMin w else intMax w), fNv ||| fIx, ent == .poison⟩
  | .fin neg m e =>
    let (q, inx) := roundTo rm neg m e (-(k : Int))
    let v : Int := if neg then -(q : Int) else q
    if satInt w v = v then ⟨wrapInt w v, fIf inx fIx, false⟩
    else ⟨wrapInt w (satInt w v), fNv ||| fIx, ent == .poison⟩

/-- An integer as an exact value. -/
def intFp (v : Int) : Fp := .fin (decide (v < 0)) v.natAbs 0

/-! ## M8 (R96–R99) -/

/-- The number of leading zeros of the low 7 bits. -/
def m8Zeros (b : Nat) : Nat := if b = 0 then 7 else 6 - Nat.log2 b

/-- The value of a code with the scale E (R96, R97). -/
def m8Fp (code : Nat) (scale : Int) : Fp :=
  let s := code.testBit 7
  let b := code % 128
  if b = 0 then .fin s 0 0
  else
    let k := m8Zeros b
    let f := 4 - k
    let lo : Int := if k ≤ 4 then -3 - 4 * (k : Int) else if k = 5 then -21 else -22
    let fld := b % 2 ^ (6 - k)
    .fin s (2 ^ f + fld % 2 ^ f) (lo + (fld >>> f : Nat) - (f : Int) + scale)

/-- Bucket of an unscaled exponent from −22 to 0: k, its lowest exponent. -/
def m8Bucket (x : Int) : Nat × Int :=
  if -3 ≤ x then (0, -3) else if -7 ≤ x then (1, -7) else if -11 ≤ x then (2, -11) else if -15 ≤ x then (3, -15)
  else if -19 ≤ x then (4, -19) else if -21 ≤ x then (5, -21) else (6, -22)

/-- The nearest code to m · 2^e, ties to the even code, never beyond 0x7F, and whether it differs from the value (R99). -/
def m8Round (m : Nat) (e : Int) : Nat × Bool :=
  if m = 0 then (0, false)
  else
    let x : Int := (Nat.log2 m : Int) + e
    if x < -22 then
      -- between 0 and the smallest code: above 2^-23 the smallest code is nearer
      (if x = -23 ∧ m ≠ 2 ^ Nat.log2 m then 1 else 0, true)
    else if 0 < x then (0x7F, true)
    else
      let (k, lo) := m8Bucket x
      let f := 4 - k
      let u : Int := x - (f : Int)
      let code := fun (q : Nat) => 2 ^ (6 - k) + (x - lo).toNat * 2 ^ f + q - 2 ^ f
      if u ≤ e then (code (m <<< (e - u).toNat), false)
      else
        let sh := (u - e).toNat
        let q := m >>> sh
        let r := m - q <<< sh
        let half := (1 <<< sh) / 2
        let c := code q
        if r = 0 then (c, false)
        else (min 0x7F (if half < r ∨ (r = half ∧ c % 2 = 1) then c + 1 else c), true)

/-- A converted block: 32 codes, the scale, whether it is poisoned, its flags. -/
structure M8Block where
  codes : List Nat
  scale : Int
  pois : Bool
  fl : BitVec 5
  deriving DecidableEq, Repr

/-- A block of zeros. -/
def M8Block.zero (n : Nat) (pois : Bool) (fl : BitVec 5) : M8Block := ⟨List.replicate n 0, 0, pois, fl⟩

/-- The codes of a block under a scale (R99). -/
def m8Codes (E : Int) (xs : List Fp) : List (Nat × BitVec 5) :=
  xs.map (fun x => match x with
    | .fin neg m e =>
      let (c, inx) := m8Round m (e - E)
      if c = 0 then (0, fIf inx fIx ||| fIf (decide (m ≠ 0)) fUf) else (if neg then c + 128 else c, fIf inx fIx)
    | .inf neg => (if neg then 0xFF else 0x7F, 0)
    | .nan _ => (0, 0))

/-- convert_block (R99). -/
def convertBlock (ent : OvE) (xs : List Fp) : M8Block :=
  let out := fun (E : Int) (fl : BitVec 5) =>
    let cs := m8Codes E xs
    (⟨cs.map (·.1), E, false, cs.foldl (fun f c => f ||| c.2) fl⟩ : M8Block)
  if xs.any (·.isNan) then .zero xs.length true fNv
  else if xs.any (fun x => match x with | .inf _ => true | _ => false) then
    (if ent = .poison then .zero xs.length true (fOf ||| fIx) else out 127 (fOf ||| fIx))
  else
    -- the largest magnitude, as an integer in units of 2^lo
    let lo := xs.foldl (fun (l : Int) x => match x with | .fin _ m e => if m = 0 then l else min l e | _ => l) 0
    let mx := xs.foldl (fun (a : Nat) x => match x with | .fin _ m e => if m = 0 then a else max a (m <<< (e - lo).toNat) | _ => a) 0
    if mx = 0 then out 0 0
    else
      let l := Nat.log2 mx
      let E : Int := (l : Int) + lo + (if 63 * 2 ^ l ≤ mx * 32 then 1 else 0)
      if 127 < E then (if ent = .poison then .zero xs.length true (fOf ||| fIx) else out 127 (fOf ||| fIx))
      else out (max (-128) E) 0

/-! ## FX128 (R102) -/

/-- FP32 to FX128, to nearest with ties to even (R102). -/
def fxFromF32 (ent : OvE) (x : Nat) : Res := fpToInt 128 64 .rne ent (fpUnpack 23 x)

/-- The FX128 sum (R102). Under a poison overflow entry it saturates, though R102 has the bits not depend on the order of the
additions (R95, log 56: DEDUCED). -/
def fxAdd (ent : OvE) (a b : Nat) : Res := narrowInt 128 ent (sgn 128 a + sgn 128 b)

/-- FX128 to FP32 (R102): one rounding; the result is never tiny and never overflows. -/
def fxToF32 (rm : RMode) (x : Nat) : Res :=
  let v := sgn 128 x
  fpOut 23 ⟨rm, false, .infinity⟩ (if v = 0 then .fin false 0 0 else .fin (decide (v < 0)) v.natAbs (-64))

/-! ## Engine arithmetic (R108) -/

/-- The FP32 sum of ATFADD: RNE, no flush, the f32 entry in force when it issued (R108). -/
def atFadd (ovf : BitVec 14) (a b : BitVec 32) : BitVec 32 :=
  BitVec.ofNat 32 (fpAdd 23 ⟨.rne, false, ovF32 ovf⟩ (fpUnpack 23 a.toNat) (fpUnpack 23 b.toNat)).bits

end Sys2Proof.Machine
end

