-- ==== Sys2Proof/Machine/Agen.lean ====
section
/-! DEFINITION. AGEN performs (spec/09): one step carries out the next item of the oldest command, after its token, its
checks in the order of R194, and its translation; then commands complete in order. -/

namespace Sys2Proof.Machine

open Sys2Proof

/-! ## Records and completion -/

/-- The tgt register of an A2 word as a record shows it; FEED and DRAIN show 0 (R285). -/
def tgtOf : Instr → Option (BitVec 4)
  | .fillf l _ _ | .spillf l _ _ | .tld l _ _ | .tst l _ _ => some l
  | .tdesc s _ => some s
  | .kbld .. | .pref _ => some 0
  | _ => none

/-- a[ac] of a command: its sample, or the value of its primer entry (R169, R306). -/
def ACmd.acVal (c : ACmd) (f : Xfer) : Word := if c.seq = 0 then c.addr else c.a[f.ac.toFin]

/-- a[tgt] of a command: its sample, or the value of its primer entry (R169, R306). -/
def ACmd.tgtVal (c : ACmd) (r : BitVec 4) : Word := if c.seq = 0 then c.val else c.a[r.toFin]

/-- Sampled operands as a record shows them (R285). -/
def ACmd.ops (c : ACmd) : Word × Word :=
  match c.ins with
  | .lds .. => (c.addr, 0)
  | .sts .. => (c.addr, c.val)
  | .arow ad _ _ _ _ => (c.a[ad.toFin], 0)
  | i => match xferOf i, atomOf i with
    | some f, _ => (c.acVal f, (tgtOf i).elim 0 c.tgtVal)
    | none, some x => (c.a[x.ac.toFin], c.a[x.aop.toFin])
    | none, none => (0, 0)

/-- The record of an engine fault of an AGEN command (R193, R284, R285). -/
def State.agenRec (s : State) (k : AgentKey) (c : ACmd) (kind cause col item aux : Nat) : FaultRec :=
  { s.recForAgent k with
    word := c.raw, seq := bv 64 c.seq, stc := bv 64 c.sc, op0 := c.ops.1, op1 := c.ops.2, item := bv 16 item
    col := bv 6 col, rep := 2, kind := bv 4 kind, cause := bv 8 cause, bank := c.bank, tidx := bv 14 c.tidx, aux := bv 32 aux }

/-- Replace the command at the head of AGEN's queue. -/
def State.setHead (s : State) (k : AgentKey) (c : ACmd) : State :=
  let a := s.agent k
  s.setAgent k { a with acmds := c :: a.acmds.tail }

/-- A HALTING FAULT of AGEN: the engine stops at the item, with a record (R193); `aux`: the destination's own cause (R285). -/
def State.agenHalt (s : State) (k : AgentKey) (c : ACmd) (cause col : Nat) (aux : Nat := 0) : State :=
  let a := s.agent k
  let s := s.setAgent k { a with haltA := true, acmds := { c with halted := true } :: a.acmds.tail }
  s.record k.sk (s.agenRec k c 9 cause col c.item aux)

/-- A non-halting fault of AGEN at the present item: a record only (R194, R284). -/
def State.agenNote (s : State) (k : AgentKey) (c : ACmd) (cause col : Nat) : State :=
  s.record k.sk (s.agenRec k c 10 cause col c.item 0)

/-- The tok bit of a command. -/
def ACmd.tok (c : ACmd) : Bool :=
  match c.ins with
  | .arow _ _ _ _ t => t
  | i => match xferOf i, atomOf i with
    | some f, _ => f.tok
    | none, some x => x.tok
    | none, none => false

/-- The wtk bit of a command. -/
def ACmd.wtk (c : ACmd) : Bool := (xferOf c.ins).elim false (·.wtk)

/-- COMPLETE the head command when its last effect can take place: the q8 token, then the counter (R171, R172). -/
def State.agenComplete (s : State) (k : AgentKey) (c : ACmd) : State :=
  let a := s.agent k
  if c.tok ∧ 255 ≤ a.q.q8.length then s.setHead k { c with fin := true }
  else s.setAgent k { a with
    acmds := a.acmds.tail
    tca := if c.seq = 0 then a.tca else c.seq
    q := if c.tok then { a.q with q8 := a.q.q8 ++ [c.seq] } else a.q }

/-! ## Shapes of items (R178) -/

/-- Beats, rows, units and bytes of an item. -/
structure Shape where
  beats : Nat
  rows : Nat
  units : Nat
  bytes : Nat
  deriving DecidableEq, Repr

/-- The shape of a format (R178). I16 takes the shape of BF16, whose tile it shares (R227, log 21: DEDUCED). -/
def shapeOf (fmt : Nat) : Shape :=
  match fmt with
  | 0 | 1 => ⟨16, 32, 128, 4096⟩
  | 2 | 3 => ⟨16, 16, 64, 2048⟩
  | 4 => ⟨4, 9, 33, 1056⟩
  | 5 => ⟨4, 8, 32, 1024⟩
  | _ => ⟨1, 2, 8, 256⟩

/-- Whether any byte of a run is poisoned. -/
def anyPois (l : List PByte) : Bool := l.any (·.2)

/-- The value of bytes as a bit vector. -/
def bvOfBytes (w : Nat) (l : List PByte) : BitVec w := bv w (natOfBytes (l.map (·.1)))

/-- Poison of the eight slots of a beat's data. -/
def slotPois (l : List PByte) : BitVec 8 :=
  (List.range 8).foldl (fun v i => if anyPois ((l.drop (32 * i)).take 32) then v ||| bv 8 (2 ^ i) else v) 0

/-- The beats of an item (R177, R178). -/
def toBeats (fmt : Nat) (l : List PByte) : List Beat :=
  let sh := shapeOf fmt
  (List.range sh.beats).map fun b =>
    if fmt = 2 ∨ fmt = 3 then
      let d := (l.drop (128 * b)).take 128
      ⟨bvOfBytes 2048 d, 0, slotPois d, true⟩
    else
      let d := (l.drop (256 * b)).take 256
      let sc := if fmt = 4 then (l.drop (1024 + 8 * b)).take 8 else []
      let scP := (sc.zipIdx).foldl (fun (v : BitVec 8) x => if x.1.2 then v ||| bv 8 (2 ^ x.2) else v) 0
      ⟨bvOfBytes 2048 d, bvOfBytes 64 sc, slotPois d ||| scP, true⟩

/-- The bytes of an item from its beats: a poisoned slot poisons the lines it reaches (R177, R178). -/
def ofBeats (fmt : Nat) (bs : List Beat) : List PByte :=
  let n := if fmt = 2 ∨ fmt = 3 then 128 else 256
  let data := bs.flatMap (fun b => ((bytesOfBV n b.data).zipIdx).map (fun x => (x.1, b.pois.getLsbD (x.2 / 32))))
  if fmt = 4 then
    data ++ bs.flatMap (fun b => ((bytesOfBV 8 b.scale).zipIdx).map (fun x => (x.1, b.pois.getLsbD x.2)))
  else data

/-- The places of core storage of an item and their values (R177, R178). -/
def toPlaces (row : Bool) (fmt base : Nat) (l : List PByte) : List (Place × PlaceV) :=
  let sh := shapeOf fmt
  if row then (List.range sh.rows).map fun r =>
    let d := (l.drop (128 * r)).take 128
    (.row (base + r), ⟨bvOfBytes 1024 d, anyPois d⟩)
  else (List.range sh.units).map fun u =>
    let d := (l.drop (32 * u)).take 32
    (.unit (base + u), ⟨bvOfBytes 1024 d, anyPois d⟩)

/-- Bytes of a place of core storage, each with its poison. -/
def placeBytes (n : Nat) (v : PlaceV) : List PByte := (bytesOfBV n v.data).map (fun b => (b, v.pois))

/-- The places of an item in core storage (R178). -/
def corePlaces (rows : Bool) (fmt base : Nat) : List Place :=
  let sh := shapeOf fmt
  if rows then (List.range sh.rows).map (fun r => .row (base + r)) else (List.range sh.units).map (fun u => .unit (base + u))

/-- The bytes of an item read from core storage (R29, R178). -/
def Agent.fromPlaces (a : Agent) (serial row col seq key : Nat) (rows : Bool) (fmt base : Nat) : List PByte :=
  let sh := shapeOf fmt
  let l := if rows then (List.range sh.rows).flatMap fun r =>
      placeBytes 128 (a.engineRead serial row col false seq (key + r) (.row (base + r)))
    else (List.range sh.units).flatMap fun u =>
      placeBytes 32 (a.engineRead serial row col false seq (key + u) (.unit (base + u)))
  l.take sh.bytes

/-- Write places of core storage for a command; a primer's writes are there when fetch starts (R29, R136). The lines are stored
anew (R215). -/
def State.writePlaces (s : State) (k : AgentKey) (col : Nat) (w : Writer) (l : List (Place × PlaceV)) : State :=
  let serial := (s.strand k.sk).serial
  let a := l.foldl (fun (a : Agent) p =>
    if w = .own false 0 then a.setCore col ((a.core col).putPlace p.2 p.1)
    else a.engineWrite serial k.row col w p.1 p.2) (s.agent k)
  l.foldl (fun s p => s.wrotePlace k col p.1) (s.setAgent k a)

/-! ## Where the items of a transfer lie (R165, R167, R177, R180) -/

/-- The columns of a set, rising: the element at rank j has rank j (R167). -/
def ColSet.cols (c : ColSet) : List Nat := (List.range 48).filter (fun i => c.mask.getLsbD i)

/-- The columns a command works on: a store from a broadcast set takes the lowest only (R167). -/
def ColSet.work (c : ColSet) (store : Bool) : List Nat := if store && !c.scatter then c.cols.take 1 else c.cols

/-- The rank that moves an item along the tensor. -/
def ColSet.move (c : ColSet) (j : Nat) : Nat := if c.scatter then j else 0

/-- Coordinates of item i at rank j (R177). -/
def itemCoord (c : ACmd) (f : Xfer) (j i : Nat) : Word :=
  let step := (fieldOf c.a[f.step.toFin] f.sdim)
  let base := c.acVal f
  let moved := addField base f.sdim (step * bv 16 i)
  addField moved c.set.sdim (bv 16 (c.set.move j))

/-- Byte offset of item i at rank j in a flat tensor (R167, R177). -/
def itemOffset (c : ACmd) (f : Xfer) (j i size : Nat) : Nat :=
  bits (c.acVal f) 47 0 + (c.set.move j * (f.nm1.toNat + 1) + i) * size

/-- Whether a command stores to device memory. -/
def isStore : Instr → Bool
  | .drain .. | .spillf .. | .tst .. | .sts .. => true
  | _ => false

/-- Whether a transfer works column by column. -/
def isCore : Instr → Bool
  | .fillf .. | .spillf .. | .tld .. | .tst .. | .kbld .. => true
  | _ => false

/-- Whether a transfer is KBLD. -/
def isKbld : Instr → Bool
  | .kbld .. => true
  | _ => false

/-- Whether a transfer's places are tile-store rows. -/
def isRows : Instr → Bool
  | .tld .. | .tst .. => true
  | _ => false

/-- The locator register of a transfer. -/
def locReg : Instr → BitVec 4
  | .fillf l _ _ | .spillf l _ _ | .tld l _ _ | .tst l _ _ => l
  | _ => 0

/-- The base place that a kind-0 or kind-1 locator names: the unit or the row (R165). -/
def locBase (rows : Bool) (l : Word) : Nat := if rows then bits l 53 44 else bits l 17 0 / 32

/-- The checks of an item before its translation, in the order of R194; the first that fails. On a flat tensor a store's offset is a multiple
of 8 and KBLD's one of 4; a load's may be any byte (log 99: DESIGN CHOICE). -/
def Agent.itemCheck (x : Agent) (ln : Launch) (c : ACmd) (f : Xfer) (j : Nat) : Option Nat :=
  match x.td[f.td.toFin] with
  | none => some 1
  | some d =>
    let l := c.tgtVal (locReg c.ins)
    let rows := isRows c.ins
    let core := isCore c.ins && !isKbld c.ins
    let sh := shapeOf (dFmt d)
    let kb := isKbld c.ins
    let size := if kb then 4 * (f.nm1.toNat + 1) else sh.bytes
    let off := if kb then bits (c.acVal f) 47 0 + c.set.move j * size else itemOffset c f j c.item size
    let base := locBase rows l + c.item * (if rows then sh.rows else sh.units)
    if core ∧ bits l 63 60 ≠ (if rows then 1 else 0) then some 3
    else if kb ∧ !dFlat d then some 4
    else if kb ∧ off % 4 ≠ 0 then some 5
    else if !kb ∧ dFlat d ∧ isStore c.ins ∧ off % 8 ≠ 0 then some 5
    else if core ∧ !rows ∧ bits l 17 0 % 32 ≠ 0 then some 5
    else if dFlat d ∧ dSize d < off + size then some 6
    else if !dFlat d ∧ !inTensor d (itemCoord c f j c.item) then some 6
    else if core ∧ (if rows then ln.nrows < base + sh.rows else ln.nunits < base + sh.units) then some 7
    else none

/-- A wait for a page: post the record and stay at the item (R233). -/
def State.agenPage (s : State) (k : AgentKey) (c : ACmd) (d : Desc) (coord : Word) (kind gfn col : Nat) (wr : Bool) : State :=
  s.postPage (.agen k c.seq) k.part (pageRecord d gfn coord c.seq kind k false wr col)

/-- Numbers as the bytes of a request's payload. -/
def reqBytes (ws : List Nat) : List PByte := ws.flatMap (fun w => (bytesOf 8 w).map (fun b => (b, false)))

/-- The operand word of a message that carries an AGEN item: the kind that no locator has, a free value of the item's place, and its
tensor (log 29: DESIGN CHOICE). -/
def itemOpnd (tid coord : Nat) : Word :=
  (0xF : Word) <<< 60 ||| ((Config.remoteOpnd tid coord &&& 0xFFFFFFF) <<< 32) ||| bv 64 (tid % 2 ^ 32)

/-- The column that a command works on: AROW's own, or that of the present rank. -/
def ACmd.col (c : ACmd) : Nat :=
  match c.ins with
  | .arow _ col _ _ _ => col.toNat
  | i => if isCore i then ((c.set.work (isStore i))[c.rank]?).getD 0 else 0

/-- Send the remote access of an item (R206, R236): crt0 as sampled, the item's bytes for a store; a request for bytes names the code
and the deadline of its reply, as XRD's does. An item that the code cannot carry halts AGEN as it halts XCHG (R194,
log 29: DESIGN CHOICE). -/
def State.agenRemote (s : State) (k : AgentKey) (c : ACmd) (d : Desc) (coord : Word) (ep part : Nat) (data : Option (List PByte))
    (len : Nat) : State :=
  if 512 * c.crt.k < len then s.agenHalt k c 0x10 c.col
  else
    let (key, s) := s.draw
    let q := Config.remoteSeq key
    let (s, _) := s.sendMsg
      { op := if data.isSome then 1 else 2, opnd := itemOpnd (dTid d) coord.toNat, mseq := q, src := k, grp := false
        dst := ep, dag := ⟨part, 0, 0⟩, bytes := data.getD (reqBytes [c.crt.k, c.crt.ddl]), k := if data.isSome then c.crt.k else 1
        m := c.crt.m, ln := (len + 63) / 64 - 1, cls := 0, rty := c.crt.rty, dtime := dtimeOf (s.fab.ftime + 1000 * c.crt.ddl)
        from_ := some ⟨(s.strand k.sk).serial, c.seq, c.seen, some (coord, len)⟩ }
      true none
    let c := (s.agent k).acmds.headD c
    s.setHead k { c with rem := some ⟨q, none, none⟩ }

/-- Where an item lies, and by which frames (R226, R227, R231). -/
def State.agenLoc (s : State) (k : AgentKey) (f : Xfer) (d : Desc) (coord : Word) (off size : Nat) (wr : Bool) : Loc × State :=
  if dFlat d then s.flatLoc k .agen f.td.toNat d off size wr else s.tileLoc k .agen f.td.toNat d coord wr

/-- What a record of an item shows as its coordinates (R233). -/
def itemRef (d : Desc) (coord : Word) (off : Nat) : Word := if dFlat d then bv 64 off else coord

/-- An item fails a check that stands after the format of its tile-table entry in the table of R194: the entry's format decides first,
where the item has an entry. -/
def State.agenLate (s : State) (k : AgentKey) (c : ACmd) (f : Xfer) (d : Desc) (coord : Word) (off size col : Nat) (wr : Bool)
    (e : Nat) : State :=
  if (e = 5 ∨ e = 7) ∧ (if dFlat d then decide (off + size ≤ dSize d) else inTensor d coord) then
    match s.agenLoc k f d coord off size wr with
    | (.fault 4, s) => s.agenHalt k c 4 col
    | (.page 1 g, s) => s.agenPage k c d (itemRef d coord off) 1 g col wr
    | (_, s) => s.agenHalt k c e col
  else s.agenHalt k c e col

/-- Bring an item's bytes in, or say what the engine waits for (R177, R196, R197, R231, R236). -/
def State.agenLoad (s : State) (k : AgentKey) (c : ACmd) (f : Xfer) (d : Desc) (coord : Word) (off size col : Nat) :
    Option (List PByte) × State :=
  let go := fun (s : State) (a : Access) =>
    let (a, s) := s.readOn (some k) a
    let c := (s.agent k).acmds.headD c
    if a.finished then (some a.got, s.setHead k { c with acc := none }) else (none, s.setHead k { c with acc := some a })
  match c.rem, c.acc with
  | some r, _ => (match r.cause, r.done with
    | some x, _ => (none, s.agenHalt k { c with rem := none } x.1 col x.2)
    | none, some b => (some b, s.setHead k { c with rem := none })
    | none, none => (none, s))
  | none, some a => go s a
  | none, none =>
    match s.agenLoc k f d coord off size false with
    | (.fault x, s) => (none, s.agenHalt k c x col)
    | (.page kd g, s) => (none, s.agenPage k c d (itemRef d coord off) kd g col false)
    | (.remote e p _, s) => (none, s.agenRemote k c d (itemRef d coord off) e p none size)
    | (.runs l, s) => go s ⟨l, [], 0⟩

/-- Send an item's bytes out; true when the item has performed (R177, R197). -/
def State.agenStore (s : State) (k : AgentKey) (c : ACmd) (f : Xfer) (d : Desc) (coord : Word) (off col : Nat) (b : List PByte) :
    Bool × State :=
  let go := fun (s : State) (a : Access) =>
    let (a, s) := s.writeOn k c.seen a
    let c := (s.agent k).acmds.headD c
    if a.finished then (true, s.setHead k { c with acc := none }) else (false, s.setHead k { c with acc := some a })
  match c.rem, c.acc with
  | some r, _ => (match r.cause, r.done with
    | some x, _ => (false, s.agenHalt k { c with rem := none } x.1 col x.2)
    | none, some _ => (true, s.setHead k { c with rem := none })
    | none, none => (false, s))
  | none, some a => go s a
  | none, none =>
    match s.agenLoc k f d coord off b.length true with
    | (.fault x, s) => (false, s.agenHalt k c x col)
    | (.page kd g, s) => (false, s.agenPage k c d (itemRef d coord off) kd g col true)
    | (.remote e p _, s) => (false, s.agenRemote k c d (itemRef d coord off) e p (some b) b.length)
    | (.runs l, s) => go s ⟨l, b, 0⟩

/-- Append beats to a beat queue (R24); their lines are stored anew (R215). -/
def State.pushBeats (s : State) (k : AgentKey) (n : Nat) (bs : List Beat) : State :=
  let x := s.agent k
  let b := x.q.beat n
  let s := s.setAgent k { x with q := x.q.setBeat n { b with items := b.items ++ bs } }
  (List.range bs.length).foldl (fun s i => s.wroteEntry k n (b.items.length + i)) s

/-- Take up to `m` beats from the head of a beat queue, reading their lines (R216); inside a replayable phase their places stay
taken (R220). -/
def State.popBeats (s : State) (k : AgentKey) (n : Nat) : Nat → List Beat × State
  | 0 => ([], s)
  | m + 1 =>
    if ((s.agent k).q.beat n).items.isEmpty then ([], s)
    else
      let s := s.readHead k n
      let x := s.agent k
      let b := x.q.beat n
      let (l, s) := (s.setAgent k { x with q := x.q.setBeat n (b.pop x.marked) }).popBeats k n m
      (b.items.take 1 ++ l, s)

/-- After an item has performed: the next item, the next column, or the end of the command (R177). -/
def State.agenNext (s : State) (k : AgentKey) (f : Xfer) (ncols : Nat) : State :=
  match (s.agent k).acmds with
  | [] => s
  | c :: _ =>
    let items := if isKbld c.ins then 1 else f.nm1.toNat + 1
    if c.item + 1 < items then s.setHead k { c with item := c.item + 1, buf := [] }
    else if c.rank + 1 < ncols then s.setHead k { c with item := 0, rank := c.rank + 1, buf := [] }
    else s.agenComplete k { c with fin := true, buf := [] }

/-- One step of a transfer (R160, R161, R176–R181). An empty column set has no work, and its slot is not tested
(log 81: DESIGN CHOICE). -/
def State.agenXfer (s : State) (k : AgentKey) (c : ACmd) (f : Xfer) : State :=
  let x := s.agent k
  let st := s.strand k.sk
  let cols := if isCore c.ins then c.set.work (isStore c.ins) else [0]
  match cols[c.rank]? with
  | none => s.agenComplete k { c with fin := true }
  | some col =>
    let d := (x.td[f.td.toFin]).getD 0
    let fmt := dFmt d
    let sh := shapeOf fmt
    let coord := itemCoord c f c.rank c.item
    let size := if isKbld c.ins then 4 * (f.nm1.toNat + 1) else sh.bytes
    let off := if isKbld c.ins then bits (c.acVal f) 47 0 + c.set.move c.rank * size else itemOffset c f c.rank c.item sh.bytes
    let base := locBase (isRows c.ins) (c.tgtVal (locReg c.ins)) + c.item * (if isRows c.ins then sh.rows else sh.units)
    match (if c.acc.isSome ∨ c.rem.isSome then none else x.itemCheck st.l c f c.rank) with
    | some e => s.agenLate k c f d coord off size (if isCore c.ins then col else 0) (isStore c.ins) e
    | none =>
      match c.ins with
      | .feed q _ =>
        let (ready, s) := if c.buf.isEmpty then
            (match s.agenLoad k c f d coord off size 0 with
              | (some b, s) => (some (toBeats fmt b), s)
              | (none, s) => (none, s))
          else (some c.buf, s)
        (match ready with
          | none => s
          | some bs =>
            let b := (s.agent k).q.beat q.toNat
            let room := b.depth - (b.items.length + b.kept)
            let s := s.pushBeats k q.toNat (bs.take room)
            let c := (s.agent k).acmds.headD c
            if bs.length ≤ room then (s.setHead k { c with buf := [] }).agenNext k f 1
            else s.setHead k { c with buf := bs.drop room })
      | .drain q5 _ =>
        let n := if q5 then 5 else 4
        if c.buf.length < sh.beats then
          -- the item is checked and translated before its first beat moves (R177, R196)
          match s.agenLoc k f d coord off size true with
          | (.fault e, s) => s.agenHalt k c e 0
          | (.page kd g, s) => s.agenPage k c d (itemRef d coord off) kd g 0 true
          | (_, s) =>
            let (got, s) := s.popBeats k n (sh.beats - c.buf.length)
            let c := (s.agent k).acmds.headD c
            s.setHead k { c with buf := c.buf ++ got }
        else match s.agenStore k c f d coord off 0 (ofBeats fmt c.buf) with
          | (true, s) => s.agenNext k f 1
          | (false, s) => s
      | .fillf .. | .tld .. =>
        (match s.agenLoad k c f d coord off size col with
          | (some b, s) => (s.writePlaces k col (.own false c.seq) (toPlaces (isRows c.ins) fmt base b)).agenNext k f cols.length
          | (none, s) => s)
      | .spillf .. | .tst .. =>
        let s := if c.acc.isSome || c.rem.isSome then s else s.readPlaces k col (corePlaces (isRows c.ins) fmt base)
        let b := (s.agent k).fromPlaces st.serial k.row col c.seq s.fresh (isRows c.ins) fmt base
        (match (s.draw.2).agenStore k c f d coord off col b with
          | (true, s) => s.agenNext k f cols.length
          | (false, s) => s)
      | .kbld n _ _ =>
        (match s.agenLoad k c f d coord off size col with
          | (some b, s) =>
            let ws := (List.range (f.nm1.toNat + 1)).map (fun i =>
              let w := (b.drop (4 * i)).take 4
              ((.kb (n.toNat + i) : Place), (⟨bvOfBytes 1024 w, anyPois w⟩ : PlaceV)))
            (s.writePlaces k col (.own false c.seq) ws).agenNext k f cols.length
          | (none, s) => s)
      | _ => s

/-- TDESC performs (R182, R225, R232): the catalogue entry at the index, read through the agent's view, or from the home of td0's
frame (R236); poison of its bytes is not used (log 93: DESIGN CHOICE). Until the program observes it, XCHG may still use the descriptor
before it (R169). -/
def State.agenTdesc (s : State) (k : AgentKey) (c : ACmd) (slot : BitVec 4) (f : Xfer) : State :=
  let ln := (s.strand k.sk).l
  let i := bits (c.acVal f) 15 0
  match (s.agent k).td[(0 : Fin 16)] with
  | none => s.agenHalt k c 1 0
  | some d =>
    if ln.catn ≤ i then s.agenHalt k c 2 0
    else match s.agenLoad k c { f with td := 0 } d 0 (ln.catb + 64 * i) 64 0 with
      | (none, s) => s
      | (some b, s) =>
        let e : Desc := bvOfBytes 512 b
        let c := (s.agent k).acmds.headD c
        if dOk e then
          let x := (s.agent k).dropSlot slot.toNat
          let old := if c.seq = 0 then [] else [(⟨slot.toNat, c.seq, x.td[slot.toFin]⟩ : TdAlt)]
          (s.setAgent k { x with td := x.td.set slot.toFin (some e), tdAlt := x.tdAlt ++ old }).agenComplete k { c with fin := true }
        else s.agenHalt k c 2 0

/-- PREF performs (R183): it resolves translations and moves no architectural data; a failure has no effect, a place beyond the tensor
too (R194, log 77: DESIGN CHOICE). -/
def State.agenPref (s : State) (k : AgentKey) (c : ACmd) (f : Xfer) : State :=
  match (s.agent k).td[f.td.toFin] with
  | none => s.agenHalt k c 1 0
  | some d =>
    let s := (List.range (f.nm1.toNat + 1)).foldl (fun s i =>
      if dFlat d then (s.flatLoc k .agen f.td.toNat d (itemOffset c f 0 i 256) 256 false).2
      else (s.tileLoc k .agen f.td.toNat d (itemCoord c f 0 i) false).2) s
    s.agenComplete k { c with fin := true }

/-! ## Scalar accesses and atomics (R78, R184, R185) -/

/-- Push a value to a result queue in place of a reserved entry (R78, R185). -/
def State.pushRes (s : State) (k : AgentKey) (q : Nat) (v : Word) (seq : Nat) (last : Bool) : State :=
  let a := s.agent k
  let r := a.q.res q
  (s.setAgent k { a with q := a.q.setRes q { r with items := r.items ++ [⟨v, seq, last⟩], resv := r.resv - 1 } }).wroteEntry k q
    r.items.length

/-- A command of an agent will show what senders had observed before (R206): each with the last XCHG command it had observed. -/
def State.causedBy (s : State) (k : AgentKey) (xchg : Bool) (seq : Nat) (l : List (Sender × Nat)) : State :=
  let a := s.agent k
  s.setAgent k { a with caused := a.caused ++ l.map (fun e => ⟨xchg, seq, e.1, e.2⟩) }

/-- A frame that migrates on touch (R236): AGEN waits at the item, without a record, until the front end has brought the frame here
and resumes it (log 22: DESIGN CHOICE). -/
def State.agenMot (s : State) (k : AgentKey) (c : ACmd) : State := s.setHead k { c with page := .moving }

/-- Where a scalar or an atomic of td0 or of another flat slot lies, after the checks before its translation: alignment, whose record
gives way to that of its entry's format (R194). -/
def State.scalarLoc (s : State) (k : AgentKey) (td : BitVec 4) (d : Desc) (x n : Nat) (wr : Bool) : Loc × State :=
  if x % n = 0 then s.flatLoc k .agen td.toNat d x n wr
  else if dSize d < x + n then (.fault 5, s)
  else match s.flatLoc k .agen td.toNat d x n wr with
    | (.fault 4, s) => (.fault 4, s)
    | (.page 1 g, s) => (.page 1 g, s)
    | (_, s) => (.fault 5, s)

/-- LDS or STS performs (R78): one word of td0. (log 34: DEDUCED) -/
def State.agenScalar (s : State) (k : AgentKey) (c : ACmd) : State :=
  let x := c.addr.toNat
  let wr := isStore c.ins
  match (s.agent k).td[(0 : Fin 16)] with
  | none => s.agenHalt k c 1 0
  | some d =>
    if !dFlat d then s.agenHalt k c 4 0
    else match s.scalarLoc k 0 d x 8 wr with
      | (.fault e, s) => s.agenHalt k c e 0
      | (.page kd g, s) => s.agenPage k c d c.addr kd g 0 wr
      | (.remote _ _ mot, s) => if mot then s.agenMot k c else s.agenHalt k c 9 0
      | (.runs l, s) =>
        let a := (l.head?.map (·.1)).getD 0
        match c.ins with
        | .lds q7 _ _ =>
          let (v, s) := s.memRead k a
          let s := s.pushRes k (if q7 then 7 else 6) v.1 c.seq true
          let s := s.agenComplete k { c with fin := true }
          if v.2 then s.agenNote k c 0x21 0 else s
        | _ => (s.memWrite k a c.val false c.seen).agenComplete k { c with fin := true }

/-- The new memory value of an atomic, as numbers of 8w bits (R184). -/
def atomNew (i : Instr) (w : Nat) (ovf : BitVec 14) (old op cmp : Nat) : Nat :=
  let m := 2 ^ (8 * w)
  let lt := (bv (8 * w) old).slt (bv (8 * w) op)
  match i with
  | .atadd _ => (old + op) % m
  | .atcas _ => if old = cmp then op else old
  | .atxch _ => op
  | .atmax _ => if lt then op else old
  | .atmin _ => if lt then old else op
  | .atand _ => old &&& op
  | .ator _ => old ||| op
  | .atfadd _ => (atFadd ovf (bv 32 old) (bv 32 op)).toNat
  | _ => old

/-- Bytes of an atomic width. -/
def AWid.bytes : AWid → Nat
  | .w32 => 4 | .w64 => 8 | .w128 => 16

/-- A register, or a pair low first, as an atomic of w bytes takes it (R184). -/
def pairOf (r : Vector Word 16) (i : BitVec 4) (w : Nat) : Nat :=
  (r[i.toFin].toNat + 2 ^ 64 * r[(i + 1).toFin].toNat) % 2 ^ (8 * w)

/-- THE ATOMIC STEP (R185, R204): rel, read and write of G as one step, acq, the old value to its queue, ret. -/
def State.agenAtomic (s : State) (k : AgentKey) (c : ACmd) (t : Atom) : State :=
  let w := match t.wid with | .w32 => 4 | .w64 => 8 | .w128 => 16
  let x := bits c.a[t.ac.toFin] 47 0
  match (s.agent k).td[t.td.toFin] with
  | none => s.agenHalt k c 1 0
  | some d =>
    if !dFlat d then s.agenHalt k c 4 0
    else match s.scalarLoc k t.td d x w true with
      | (.fault e, s) => s.agenHalt k c e 0
      | (.page kd g, s) => s.agenPage k c d (bv 64 x) kd g 0 true
      | (.remote .., s) => s.agenHalt k c 9 0
      | (.runs l, s) =>
        let a := (l.head?.map (·.1)).getD 0
        let s := if t.rel then s.phaseStep k else s
        let w0 := a / 8 * 8
        let lo8 := KV.getD s.flags w0 []
        let hi8 := if w = 16 then KV.getD s.flags (w0 + 8) [] else []
        let ((lo, p), s) := s.gRead w0
        let (hi, s) := if w = 16 then (let (v, s) := s.gRead (w0 + 8); (v.1, s)) else ((0 : Word), s)
        let whole := lo.toNat + 2 ^ 64 * hi.toNat
        let sh := 8 * (a % 8)
        let old := whole / 2 ^ sh % 2 ^ (8 * w)
        let new := atomNew c.ins w c.ovf old (pairOf c.a t.aop w) (pairOf c.a t.ad w)
        let whole' := whole - old * 2 ^ sh + new * 2 ^ sh
        let s := s.gWrite ((w0, bv 64 whole', p) :: (if w = 16 then [(w0 + 8, bv 64 (whole' / 2 ^ 64), p)] else [])) (some k)
        let me := s.selfOf k
        let s := s.noteFlag w0 me c.seen lo8
        let s := if w = 16 then s.noteFlag (w0 + 8) me c.seen hi8 else s
        let s := if t.acq then (s.refresh k).causedBy k false c.seq ((lo8 ++ hi8).filter (fun e => e.1 ≠ me)) else s
        let q := if t.rq then 7 else 6
        let s := s.pushRes k q (bv 64 old) c.seq (w ≠ 16)
        let s := if w = 16 then s.pushRes k q (bv 64 (old / 2 ^ 64)) c.seq true else s
        let s := if t.ret then s.setAgent k ((s.agent k).engineA c.seq t.ad (bv 64 old)) else s
        let s := if t.ret ∧ w = 16 then s.setAgent k ((s.agent k).engineA c.seq (t.ad + 1) (bv 64 (old / 2 ^ 64))) else s
        let s := s.agenComplete k { c with fin := true }
        if p then s.agenNote k c 0x21 0 else s

/-- AROW performs (R186). -/
def State.agenArow (s : State) (k : AgentKey) (c : ACmd) (ad : BitVec 4) (col : BitVec 6) (v : BitVec 10) (quad : BitVec 3) : State :=
  let s := s.readPlaces k col.toNat [.row v.toNat]
  let x := s.agent k
  let r := x.engineRead (s.strand k.sk).serial k.row col.toNat false c.seq s.fresh (.row v.toNat)
  let s := s.draw.2
  if r.pois then s.agenHalt k c 0x0A col.toNat
  else
    let q := r.data >>> (128 * quad.toNat)
    let x := ((s.agent k).engineA c.seq ad (q.setWidth 64)).engineA c.seq (ad + 1) ((q >>> 64).setWidth 64)
    (s.setAgent k x).agenComplete k { c with fin := true }

/-- The table entries that an item of a transfer lies in (R227). -/
def itemEntries (d : Desc) (coord : Word) (off size : Nat) : List Nat :=
  if dFlat d then (List.range ((off % 65536 + size + 65535) / 65536)).map (fun i => off / 65536 + i)
  else [tileNumber d coord / tilesPerFrame (dFmt d)]

/-- Whether an item at a table entry may still become a remote access (R203): the frame that the command has used, or else the table as it
stands or a translation that is kept. While the page of the entry itself is not here, nothing tells; an entry that faults is not taken as one
(log 100: DESIGN CHOICE). -/
def State.mayBeRemote (s : State) (k : AgentKey) (c : ACmd) (slot : Nat) (d : Desc) (e : Nat) : Bool :=
  let away : Walk → Bool := fun w => match w with
    | .remote .. => true
    | .page kind _ => kind == 1
    | _ => false
  match KV.get? c.frames e with
  | some (.away ..) => true
  | some (.here _) => false
  | none => away (s.walk k.part d e false).1.1 ||
      ((KV.get? (s.agent k).tcache (slot, e)).bind (fun t => t.use d false)).any away

/-- Whether a command in AGEN's queue has an item still to come that is, or may become, an access to another home (R203); a TDESC of
the slot ahead of it leaves that open until it is done. An item that has been answered, or whose beats only wait for queue room, is no
longer to come. -/
def State.remoteAhead (s : State) (k : AgentKey) (c : ACmd) : Bool :=
  let x := s.agent k
  match xferOf c.ins with
  | none => false
  | some f =>
    match c.ins with
    | .pref _ => false
    | _ =>
      let tdesc : Bool := (match c.ins with | .tdesc .. => true | _ => false)
      let slot := if tdesc then (0 : BitVec 4) else f.td
      let feed : Bool := (match c.ins with | .feed .. => true | _ => false)
      let done := if (feed && !c.buf.isEmpty) || c.rem.any (·.done.isSome) then 1 else 0
      let off := fun (size j i : Nat) =>
        if tdesc then (s.strand k.sk).l.catb + 64 * bits (c.acVal f) 15 0
        else if isKbld c.ins then bits (c.acVal f) 47 0 + c.set.move j * size
        else itemOffset c f j i size
      !c.fin && (x.acmds.any (fun e => decide (e.seq < c.seq) && (match e.ins with | .tdesc n _ => n == slot | _ => false)) ||
        (x.td[slot.toFin]).any (fun d =>
          let size := if isKbld c.ins then 4 * (f.nm1.toNat + 1) else if tdesc then 64 else (shapeOf (dFmt d)).bytes
          let ranks := if isCore c.ins then (c.set.work (isStore c.ins)).length else 1
          (List.range ranks).any (fun j => decide (c.rank ≤ j) &&
            (List.range (if isKbld c.ins ∨ tdesc then 1 else f.nm1.toNat + 1)).any (fun i =>
              (decide (c.rank < j) || decide (c.item + done ≤ i)) &&
              (dHrem d || (itemEntries d (itemCoord c f j i) (off size j i) size).any (s.mayBeRemote k c slot.toNat d))))))

/-- Whether the engines of a strand take steps: not while it is absent, or its image is being written, or it is out on an image
(R28, R201, R291). -/
def Strand.enginesRun (x : Strand) : Bool :=
  !(x.st == .absent || x.st == .evicted || (x.st == .evicting && x.work.any (·.begun)))

/-- One step of the head command. -/
def State.agenPerform (s : State) (k : AgentKey) (c : ACmd) : State :=
  match c.ins with
  | .tdesc slot f => s.agenTdesc k c slot f
  | .pref f => s.agenPref k c f
  | .lds .. | .sts .. => s.agenScalar k c
  | .arow ad col v quad _ => s.agenArow k c ad col v quad
  | i => match xferOf i, atomOf i with
    | some f, _ => s.agenXfer k c f
    | none, some t => s.agenAtomic k c t
    | none, none => s

/-- An agent's view for its first step: G as it stands just before (R196). -/
def State.begin_ (s : State) (k : AgentKey) : State :=
  let a := s.agent k
  if a.begun then s else s.setAgent k { a with begun := true, v := s.snapshot }

/-- AGEN takes its next step: the token, the next words of its item, or the completion that waited for room (R171, R172, R177). (log 37: DESIGN CHOICE) -/
def State.agenStep (s : State) (k : AgentKey) : State :=
  let a := s.agent k
  match a.acmds with
  | [] => s
  | c :: _ =>
    if a.haltA || c.held || !(s.strand k.sk).enginesRun || c.page != .none then s
    else if c.fin then s.agenComplete k c
    else if c.wtk && !c.took then
      if a.q.q9 = 0 then s
      else
        let c := { c with took := true }
        let s := s.begin_ k
        let a := s.agent k
        (s.setAgent k { a with q := { a.q with q9 := a.q.q9 - 1 }, acmds := c :: a.acmds.tail }).agenPerform k c
    else (s.begin_ k).agenPerform k c

/-- AGEN_COMMAND_PERFORM (R171, R177). -/
def execAgenCommandPerform (a : AgentKey) (s : State) : Out := .next (s.agenStep a)

end Sys2Proof.Machine
end

