-- ==== Sys2Proof/Machine/ColumnOps.lean ====
section
/-! DEFINITION. What a CORE word sees and does at one column (R20, R111, R112, R143, R144): reads of rows, folio units,
bank words and beat slots as they stand at t+c, and results that land later. -/

namespace Sys2Proof.Machine

open Sys2Proof

/-- A CORE word at a column: the agent as the strand cycle finds it, where it runs, the word, and the beat that arrives. -/
structure Ctx where
  a : Agent
  key : AgentKey
  serial : Nat
  l : Launch
  u : Nat
  c : Nat
  w : PipeWord
  beat : Beat

/-- The core of the column. -/
def Ctx.core (x : Ctx) : Core := x.a.core x.c

/-- The issue time of the word. -/
def Ctx.t (x : Ctx) : Nat := x.u - x.c

/-- What a word does at a column: results with their latency, the beat it sends east, whether it read a poisoned source
(R221), a product it starts, and whether it breaks a chain (R147). -/
structure Eff where
  lands : List (Nat × Land)
  beat : Option Beat
  read : Bool
  run : Option MmaRun
  breaks : Bool
  deriving DecidableEq, Repr

/-- No effect. -/
def Eff.none : Eff := ⟨[], Option.none, false, Option.none, false⟩

/-- Scalar register of the core; s0 reads zero (R15). -/
def Ctx.s (x : Ctx) (r : BitVec 4) : BitVec 32 := if r = 0 then 0 else x.core.s[r.toFin]

/-- Core predicate; p0 is true (R42, R45). -/
def Ctx.p (x : Ctx) (r : BitVec 4) : Bool := if 8 ≤ r.toNat then x.core.p.getLsbD (r.toNat - 8) else true

/-- A row as read at t+c (R21, R29). -/
def Ctx.row (x : Ctx) (v : BitVec 10) : PlaceV := x.a.coreRead x.serial x.key.row x.c x.t (.row v.toNat)

/-- A folio unit as read at t+c; beyond the window it is zero and poisoned (R144). -/
def Ctx.unit (x : Ctx) (n : Nat) : PlaceV :=
  if n < x.l.nunits then x.a.coreRead x.serial x.key.row x.c x.t (.unit n) else ⟨0, true⟩

/-- A run of folio units. -/
def Ctx.units (x : Ctx) (u n : Nat) : List PlaceV := (List.range n).map (fun i => x.unit (u + i))

/-- A constant-bank word. -/
def Ctx.kb (x : Ctx) (n : Nat) : PlaceV := x.a.coreRead x.serial x.key.row x.c x.t (.kb n)

/-- The rows of a tile, 0 to 31 (R15). -/
def Ctx.tile (x : Ctx) (m : BitVec 5) : List PlaceV :=
  (List.range 32).map (fun i => x.a.coreRead x.serial x.key.row x.c x.t (.row (32 * m.toNat + i)))

/-- A folio unit address: the scalar taken as unsigned, without wrap (R143). -/
def Ctx.unitAt (x : Ctx) (s : BitVec 4) (disp : Nat) : Nat := (x.s s).toNat + disp

/-- A 32-bit word repeated 32 times (R112). -/
def repWord (v : BitVec 32) : BitVec 1024 := v.replicate 32

/-- Slot n of a beat. -/
def Beat.slot (b : Beat) (n : Nat) : BitVec 256 := b.data.extractLsb' (256 * n) 256

/-- Scale byte n of a beat. -/
def Beat.scaleOf (b : Beat) (n : Nat) : Byte := b.scale.extractLsb' (8 * n) 8

/-- Poison of slots n to n+k−1. -/
def Beat.slotPois (b : Beat) (n k : Nat) : Bool := (List.range k).any (fun i => b.pois.getLsbD (n + i))

/-- The B operand of a C1 word (R112). -/
def Ctx.b (x : Ctx) : BSrc → PlaceV
  | .row v => x.row v
  | .kb n => let k := x.kb n.toNat; ⟨repWord (k.data.setWidth 32), k.pois⟩
  | .lit w => ⟨repWord w, false⟩
  | .slot n => ⟨(x.beat.slot n.toNat).replicate 4, x.beat.slotPois n.toNat 1⟩

/-- The lanes of a row, w bits wide (R15). -/
def lanesOf (w : Nat) (r : BitVec 1024) : List Nat := (List.range (1024 / w)).map (fun i => r.toNat >>> (w * i) % 2 ^ w)

/-- Elements of w bits packed from the lowest up. -/
def packN (w : Nat) (l : List Nat) : Nat := l.foldr (fun v acc => v % 2 ^ w + acc * 2 ^ w) 0

/-- A row from its lanes. -/
def packRow (w : Nat) (l : List Nat) : BitVec 1024 := bv 1024 (packN w l)

/-- A row operation by lanes: the results, one for each lane of the three sources. -/
def lanes3 (w : Nat) (a b v : BitVec 1024) (op : Nat → Nat → Nat → Res) : List Res :=
  ((lanesOf w a).zip ((lanesOf w b).zip (lanesOf w v))).map (fun p => op p.1 p.2.1 p.2.2)

/-- A flag landing, where there is a flag to set (R94). -/
def flagLand (L : Nat) (f : BitVec 5) : List (Nat × Land) := if f = 0 then [] else [(L, .flags f)]

/-- A row result: data, poison of the sources, own poison, flags (R103, R104, R111). -/
def Ctx.putRow (x : Ctx) (vd : BitVec 10) (L : Nat) (srcPois own : Bool) (fl : BitVec 5) (d : BitVec 1024) : Eff :=
  { Eff.none with lands := (L, .row vd.toNat ⟨d, srcPois || own || x.w.held⟩) :: flagLand L fl, read := srcPois }

/-- A row result formed lane by lane. -/
def Ctx.putLanes (x : Ctx) (vd : BitVec 10) (L w : Nat) (srcPois : Bool) (rs : List Res) : Eff :=
  x.putRow vd L srcPois (resPois rs) (orFlags rs) (packRow w (rs.map (·.bits)))

/-- A scalar result, L = 1; a write to s0 is discarded (R114). -/
def putS (sd : BitVec 4) (v : BitVec 32) : Eff :=
  { Eff.none with lands := if sd = 0 then [] else [(1, .sreg sd v)] }

/-- A predicate result, L = 1 (R118). -/
def putP (pd : BitVec 4) (v read : Bool) : Eff := { Eff.none with lands := [(1, .pred pd v)], read := read }

/-- Store slots of a beat from slot n on; the beat becomes valid (R18, R157). -/
def Beat.putSlots (b : Beat) (n k : Nat) (d : Nat) (scale : Option Byte) (pois : Bool) : Beat :=
  let m : BitVec 2048 := (BitVec.allOnes (256 * k)).setWidth 2048 <<< (256 * n)
  let pm : BitVec 8 := (BitVec.allOnes k).setWidth 8 <<< n
  { data := (b.data &&& ~~~m) ||| ((bv 2048 d <<< (256 * n)) &&& m)
    scale := match scale with
      | some v => (b.scale &&& ~~~((0xFF : BitVec 64) <<< (8 * n))) ||| (v.setWidth 64 <<< (8 * n))
      | none => b.scale
    pois := if pois then b.pois ||| pm else b.pois &&& ~~~pm
    valid := true }

end Sys2Proof.Machine
end

