-- ==== Sys2Proof/Machine/Special.lean ====
section
/-! DEFINITION. The special functions (R125): a lower bound so near to the exact value that no number of a format, and no midpoint of
two, lies between them (log 24: DEDUCED), rounded once as a value just above it. The reciprocal and the roots are decided exactly. -/

namespace Sys2Proof.Machine

open Sys2Proof

/-- Fraction bits of the working format. -/
def fixP : Nat := 320

/-- π in units of 2^−640, rounded down. -/
def piFix : Nat := 0x3243f6a8885a308d313198a2e03707344a4093822299f31d0082efa98ec4e6c89452821e638d01377be5466cf34e90c6cc0ac29b7c97c50dd3f84d5b5b54709179216d5d98979fb1bd1310ba698dfb5ac

/-- ln 2 in units of 2^−320, rounded down. -/
def ln2Fix : Nat := 0xb17217f7d1cf79abc9e3b39803f2f6af40f343267298b62d8a0d175b8baafa2be7b876206debac98

/-- One in the working format. -/
def oneFix : Nat := 2 ^ fixP

/-- The special functions (R125). -/
inductive SpFn where
  | rcp | rsq | sqrt | exp2 | log2 | tanh | sigm | sin | cos
  deriving DecidableEq, Repr

/-- The rounding of a value just above lo · 2^e (log 24: DEDUCED). -/
def openRound (f : Nat) (env : FEnv) (neg : Bool) (lo : Nat) (e : Int) : Res := fpRound f env neg (4 * lo + 1) (e - 2)

/-- The rounding of a value near v · 2^e: the truncations of the working format leave it within 2^20 of its units (log 24: DEDUCED). -/
def nearRound (f : Nat) (env : FEnv) (neg : Bool) (v : Nat) (e : Int) : Res := openRound f env neg (v - 2 ^ 20) e

/-- The integer square root, by its 90 low bits. -/
def isqrt (n : Nat) : Nat :=
  (List.range 90).foldl (fun r i => let c := r + 2 ^ (89 - i); if c * c ≤ n then c else r) 0

/-- Σ of a power series: `step k t` is the term after t. -/
def series (step : Nat → Nat → Nat) : Nat → Nat → Nat → Nat
  | 0, _, _ => 0
  | n + 1, k, t => if t = 0 then 0 else t + series step n (k + 1) (step k t)

/-- e^r for 0 ≤ r < 1. -/
def expFix (r : Nat) : Nat := series (fun k t => t * r / ((k + 1) * oneFix)) 90 0 oneFix

/-- The even or odd half of the exponential series with alternating signs: cos r (odd = false) or sin r. -/
def trigHalf (r : Nat) (odd : Bool) (neg : Bool) : Nat :=
  let d := if odd then 1 else 0
  -- terms of one sign: every fourth power of r
  let r2 := r * r / oneFix
  let r4 := r2 * r2 / oneFix
  let t0 := if odd then r else oneFix
  let t := if neg then t0 * r2 / (oneFix * ((d + 1) * (d + 2))) else t0
  let b := if neg then d + 2 else d
  series (fun k t => let n := b + 4 * k; t * r4 / (oneFix * ((n + 1) * (n + 2) * (n + 3) * (n + 4)))) 30 0 t

/-- sin r for 0 ≤ r ≤ π/2. -/
def sinFix (r : Nat) : Nat := trigHalf r true false - trigHalf r true true

/-- cos r for 0 ≤ r ≤ π/2. -/
def cosFix (r : Nat) : Nat := trigHalf r false false - trigHalf r false true

/-- 2 · atanh z for 0 ≤ z ≤ 1/3. -/
def atanh2Fix (z : Nat) : Nat :=
  let z2 := z * z / oneFix
  let s := (List.range 120).foldl (fun (a : Nat × Nat) k => (a.1 + a.2 / (2 * k + 1), a.2 * z2 / oneFix)) (0, z)
  2 * s.1

/-- m · 2^e in the working format; e is at least −320. -/
def toFix (m : Nat) (e : Int) : Nat := m <<< (e + (fixP : Int)).toNat

/-- e^(−a) = v · 2^(−k) for a in the working format: (v, k). -/
def expNeg (a : Nat) : Nat × Nat :=
  let k := a / ln2Fix + 1
  (expFix (k * ln2Fix - a), k)

/-- |m · 2^e| < 2^x. -/
def below (m : Nat) (e x : Int) : Bool := decide ((Nat.log2 m : Int) + e < x)

/-- The reduced argument of a trigonometric function: the quadrant and the rest, in the working format (R125). -/
def reduce (m : Nat) (e : Int) : Nat × Nat :=
  let x := m <<< (e + 640).toNat
  let h := piFix / 2
  (x / h % 4, x % h / 2 ^ 320)

/-- A special function of a positive or negative nonzero finite value ±m · 2^e, not an exact case of a root's domain. -/
def spFinite (f : Nat) (env : FEnv) (fn : SpFn) (neg : Bool) (m : Nat) (e : Int) : Res :=
  match fn with
  | .rcp =>
    let q := 2 ^ 64 / m
    fpRound f env neg (2 * q + (if q * m = 2 ^ 64 then 0 else 1)) (-65 - e)
  | .sqrt =>
    let (m, e) := if e % 2 = 0 then (m, e) else (2 * m, e - 1)
    let n := m <<< 64
    let r := isqrt n
    fpRound f env false (2 * r + (if r * r = n then 0 else 1)) (e / 2 - 33)
  | .rsq =>
    let (m, e) := if e % 2 = 0 then (m, e) else (2 * m, e - 1)
    let n := 2 ^ 128 / m
    let r := isqrt n
    fpRound f env false (2 * r + (if r * r * m = 2 ^ 128 then 0 else 1)) (-65 - e / 2)
  | .exp2 =>
    if !below m e 12 then (if neg then fpRound f env false 1 (-4096) else fpRound f env false 3 4096)
    else
      let v : Int := if neg then -(toFix m e : Int) else toFix m e
      let n := v / (oneFix : Int)
      let r := (v % (oneFix : Int)).toNat
      if r = 0 then fpRound f env false 1 n
      else nearRound f env false (expFix (r * ln2Fix / oneFix)) (n - (fixP : Int))
  | .log2 =>
    let k := Nat.log2 m
    let n := (k : Int) + e
    if m = 2 ^ k then (if n = 0 then .exact 0 else fpRound f env (decide (n < 0)) n.natAbs 0)
    else
      let l := atanh2Fix (((m - 2 ^ k) <<< fixP) / (m + 2 ^ k)) * oneFix / ln2Fix
      let v := n * (oneFix : Int) + (l : Int)
      nearRound f env (decide (v < 0)) v.natAbs (-(fixP : Int))
  | .tanh =>
    if below m e (-20) then
      let hi := m <<< (-2 * e).toNat
      openRound f env neg (hi - m * m * m) (3 * e)
    else if !below m e 5 then openRound f env neg (2 ^ 80 - 1) (-80)
    else
      let (v, k) := expNeg (2 * toFix m e)
      let t := v >>> k
      nearRound f env neg ((oneFix - t) * oneFix / (oneFix + t)) (-(fixP : Int))
  | .sigm =>
    if !below m e 10 then
      (if neg then fpRound f env false 1 (-1400) else openRound f env false (2 ^ 80 - 1) (-80))
    else if !neg && !below m e 6 then openRound f env false (2 ^ 80 - 1) (-80)
    else
      let (v, k) := expNeg (toFix m e)
      let t := v >>> k
      if neg then nearRound f env false (v * oneFix / (oneFix + t)) (-(fixP : Int) - (k : Int))
      else nearRound f env false (oneFix * oneFix / (oneFix + t)) (-(fixP : Int))
  | .sin =>
    if below m e (-20) then
      let hi := m <<< (-2 * e).toNat
      openRound f env neg (hi - m * m * m) (3 * e)
    else
      let (q, r) := reduce m e
      let v := if q % 2 = 0 then sinFix r else cosFix r
      nearRound f env (neg != decide (2 ≤ q)) v (-(fixP : Int))
  | .cos =>
    if below m e (-20) then
      let hi := 1 <<< (-2 * e).toNat
      openRound f env false (hi - m * m) (2 * e)
    else
      let (q, r) := reduce m e
      let v := if q % 2 = 0 then cosFix r else sinFix r
      nearRound f env (q == 1 || q == 2) v (-(fixP : Int))

/-- An exact infinite result of a finite source (R91, R94). -/
def divZero (f : Nat) (neg : Bool) : Res := ⟨fpInf f neg, fDz, false⟩

/-- One and one half in a format. -/
def fpOne (f : Nat) (neg : Bool) : Nat := fpSign f neg + 127 * 2 ^ f
/-- One half in a format. -/
def fpHalf (f : Nat) : Nat := 126 * 2 ^ f

/-- A special function of one lane, with the boundary values of R91 and R125. -/
def spLane (f : Nat) (env : FEnv) (fn : SpFn) (x : Nat) : Res :=
  match fpUnpack f x with
  | .nan sig => ⟨fpNan f, fIf sig fNv, false⟩
  | .inf neg =>
    (match fn with
      | .rcp => .exact (fpSign f neg)
      | .rsq => if neg then fpInvalid f else .exact 0
      | .sqrt | .log2 => if neg then fpInvalid f else .exact (fpInf f false)
      | .exp2 => .exact (if neg then 0 else fpInf f false)
      | .tanh => .exact (fpOne f neg)
      | .sigm => .exact (if neg then 0 else fpOne f false)
      | .sin | .cos => fpInvalid f)
  | .fin neg m e =>
    if m = 0 then
      (match fn with
        | .rcp | .rsq => divZero f neg
        | .log2 => divZero f true
        | .sqrt | .tanh | .sin => .exact (fpSign f neg)
        | .exp2 | .cos => .exact (fpOne f false)
        | .sigm => .exact (fpHalf f))
    else match fn with
      | .rsq | .sqrt | .log2 => if neg then fpInvalid f else spFinite f env fn neg m e
      | _ => spFinite f env fn neg m e

end Sys2Proof.Machine
end

