-- ==== Sys2Proof/Machine/Vector.lean ====
section
/-! DEFINITION. The vector words at a column (R111–R113, R121–R126, R129–R134), one definition for each word. -/

namespace Sys2Proof.Machine

open Sys2Proof

/-! ## Shared forms -/

/-- Fraction bits of a lane type (R90). -/
def fracOf : FTy → Nat
  | .f32 => 23
  | .bf16 => 7

/-- Lane width of a floating-point type. -/
def widthF : FTy → Nat
  | .f32 => 32
  | .bf16 => 16

/-- Lane width of an integer type. -/
def widthI : ITy → Nat
  | .i32 => 32
  | .i16 => 16

/-- Lane width of a type (R111). -/
def widthT : Ty → Nat
  | .f32 | .i32 => 32
  | .bf16 | .i16 => 16

/-- How a word rounds to a lane type: its mode, fz of its snapshot, the entry in force (R92, R93, R95). -/
def Ctx.env (x : Ctx) (ty : FTy) (r : Rnd) : FEnv :=
  ⟨rndMode r x.w.fpc, x.w.fpc.getLsbD 3, match ty with | .f32 => ovF32 x.w.ovf | .bf16 => ovBf16 x.w.ovf⟩

/-- A floating-point word of two sources (R121). -/
def Ctx.fp2 (x : Ctx) (ty : FTy) (vd va : BitVec 10) (b : BSrc) (L : Nat) (op : Nat → Nat → Res) : Eff :=
  let ra := x.row va
  let rb := x.b b
  x.putLanes vd L (widthF ty) (ra.pois || rb.pois) (lanes3 (widthF ty) ra.data rb.data 0 (fun p q _ => op p q))

/-- A floating-point word that also reads vd (R121, R135). -/
def Ctx.fp3 (x : Ctx) (ty : FTy) (vd va : BitVec 10) (b : BSrc) (op : Fp → Fp → Fp → Res) : Eff :=
  let ra := x.row va
  let rb := x.b b
  let rv := x.row vd
  let f := fracOf ty
  x.putLanes vd 4 (widthF ty) (ra.pois || rb.pois || rv.pois)
    (lanes3 (widthF ty) ra.data rb.data rv.data (fun p q v => op (fpUnpack f p) (fpUnpack f q) (fpUnpack f v)))

/-- A floating-point word of one source (R122, R125). -/
def Ctx.fp1 (x : Ctx) (ty : FTy) (vd va : BitVec 10) (L : Nat) (op : Nat → Res) : Eff :=
  let ra := x.row va
  x.putLanes vd L (widthF ty) ra.pois ((lanesOf (widthF ty) ra.data).map op)

/-- An integer or logic word: no flag, L = 2 (R126). -/
def Ctx.int2 (x : Ctx) (ty : ITy) (vd va : BitVec 10) (b : BSrc) (op : Nat → Nat → Nat) : Eff :=
  let ra := x.row va
  let rb := x.b b
  x.putLanes vd 2 (widthI ty) (ra.pois || rb.pois)
    (lanes3 (widthI ty) ra.data rb.data 0 (fun p q _ => .exact (op p q)))

/-! ## Floating-point words (R121–R123) -/

/-- VADD (R121). -/
def colVadd (ty : FTy) (r : Rnd) (vd va : BitVec 10) (b : BSrc) (x : Ctx) : Eff :=
  let f := fracOf ty
  x.fp2 ty vd va b 4 (fun p q => fpAdd f (x.env ty r) (fpUnpack f p) (fpUnpack f q))
/-- VSUB (R121). -/
def colVsub (ty : FTy) (r : Rnd) (vd va : BitVec 10) (b : BSrc) (x : Ctx) : Eff :=
  let f := fracOf ty
  x.fp2 ty vd va b 4 (fun p q => fpAdd f (x.env ty r) (fpUnpack f p) (fpUnpack f q).negate)
/-- VMUL (R121). -/
def colVmul (ty : FTy) (r : Rnd) (vd va : BitVec 10) (b : BSrc) (x : Ctx) : Eff :=
  let f := fracOf ty
  x.fp2 ty vd va b 4 (fun p q => fpMul f (x.env ty r) (fpUnpack f p) (fpUnpack f q))
/-- VFMA: A × B + vd (R121). -/
def colVfma (ty : FTy) (r : Rnd) (vd va : BitVec 10) (b : BSrc) (x : Ctx) : Eff :=
  x.fp3 ty vd va b (fun p q v => fpFused (fracOf ty) (x.env ty r) false p q v)
/-- VFMS: vd − A × B (R121). -/
def colVfms (ty : FTy) (r : Rnd) (vd va : BitVec 10) (b : BSrc) (x : Ctx) : Eff :=
  x.fp3 ty vd va b (fun p q v => fpFused (fracOf ty) (x.env ty r) true p q v)
/-- VFMH: vd × A + B (R121). -/
def colVfmh (ty : FTy) (r : Rnd) (vd va : BitVec 10) (b : BSrc) (x : Ctx) : Eff :=
  x.fp3 ty vd va b (fun p q v => fpFused (fracOf ty) (x.env ty r) false v p q)
/-- VMIN (R91, R121). -/
def colVmin (ty : FTy) (vd va : BitVec 10) (b : BSrc) (x : Ctx) : Eff := x.fp2 ty vd va b 2 (fpMinMax (fracOf ty) false)
/-- VMAX (R91, R121). -/
def colVmax (ty : FTy) (vd va : BitVec 10) (b : BSrc) (x : Ctx) : Eff := x.fp2 ty vd va b 2 (fpMinMax (fracOf ty) true)
/-- VABS (R122). -/
def colVabs (ty : FTy) (vd va : BitVec 10) (x : Ctx) : Eff := x.fp1 ty vd va 2 (fpSignOp (fracOf ty) false)
/-- VNEG (R122). -/
def colVneg (ty : FTy) (vd va : BitVec 10) (x : Ctx) : Eff := x.fp1 ty vd va 2 (fpSignOp (fracOf ty) true)

/-- All ones or zero in a lane. -/
def maskLane (w : Nat) (c : Bool) : Nat := if c then 2 ^ w - 1 else 0

/-- VCMP (R123). -/
def colVcmp (c : Cond) (ty : FTy) (vd va : BitVec 10) (b : BSrc) (x : Ctx) : Eff :=
  x.fp2 ty vd va b 2 (fun p q => let r := fpCompare (fracOf ty) c p q; ⟨maskLane (widthF ty) r.1, r.2, false⟩)

/-- VSEL: A where B is not zero, else vd (R124). -/
def colVsel (ty : Ty) (vd va : BitVec 10) (b : BSrc) (x : Ctx) : Eff :=
  let ra := x.row va
  let rb := x.b b
  let rv := x.row vd
  x.putLanes vd 2 (widthT ty) (ra.pois || rb.pois || rv.pois)
    (lanes3 (widthT ty) ra.data rb.data rv.data (fun p q v => .exact (if q ≠ 0 then p else v)))

/-! ## Special functions (R125) -/

/-- A special function of every lane, L = 10 (R125). -/
def Ctx.special (x : Ctx) (fn : SpFn) (ty : FTy) (r : Rnd) (vd va : BitVec 10) : Eff :=
  x.fp1 ty vd va 10 (spLane (fracOf ty) (x.env ty r) fn)

/-- VRCP (R125). -/
def colVrcp (ty : FTy) (r : Rnd) (vd va : BitVec 10) (x : Ctx) : Eff := x.special .rcp ty r vd va
/-- VRSQ (R125). -/
def colVrsq (ty : FTy) (r : Rnd) (vd va : BitVec 10) (x : Ctx) : Eff := x.special .rsq ty r vd va
/-- VSQRT (R125). -/
def colVsqrt (ty : FTy) (r : Rnd) (vd va : BitVec 10) (x : Ctx) : Eff := x.special .sqrt ty r vd va
/-- VEXP2 (R125). -/
def colVexp2 (ty : FTy) (r : Rnd) (vd va : BitVec 10) (x : Ctx) : Eff := x.special .exp2 ty r vd va
/-- VLOG2 (R125). -/
def colVlog2 (ty : FTy) (r : Rnd) (vd va : BitVec 10) (x : Ctx) : Eff := x.special .log2 ty r vd va
/-- VTANH (R125). -/
def colVtanh (ty : FTy) (r : Rnd) (vd va : BitVec 10) (x : Ctx) : Eff := x.special .tanh ty r vd va
/-- VSIGM (R125). -/
def colVsigm (ty : FTy) (r : Rnd) (vd va : BitVec 10) (x : Ctx) : Eff := x.special .sigm ty r vd va
/-- VSIN (R125). -/
def colVsin (ty : FTy) (r : Rnd) (vd va : BitVec 10) (x : Ctx) : Eff := x.special .sin ty r vd va
/-- VCOS (R125). -/
def colVcos (ty : FTy) (r : Rnd) (vd va : BitVec 10) (x : Ctx) : Eff := x.special .cos ty r vd va

/-! ## Integer and logic words (R123, R126) -/

/-- VIADD (R126). -/
def colViadd (ty : ITy) (sat : Bool) (vd va : BitVec 10) (b : BSrc) (x : Ctx) : Eff :=
  let w := widthI ty
  x.int2 ty vd va b (fun p q => fitInt w sat (sgn w p + sgn w q))
/-- VISUB (R126). -/
def colVisub (ty : ITy) (sat : Bool) (vd va : BitVec 10) (b : BSrc) (x : Ctx) : Eff :=
  let w := widthI ty
  x.int2 ty vd va b (fun p q => fitInt w sat (sgn w p - sgn w q))
/-- VIMUL (R126). -/
def colVimul (ty : ITy) (sat : Bool) (vd va : BitVec 10) (b : BSrc) (x : Ctx) : Eff :=
  let w := widthI ty
  x.int2 ty vd va b (fun p q => fitInt w sat (sgn w p * sgn w q))
/-- VAND (R126). -/
def colVand (ty : ITy) (vd va : BitVec 10) (b : BSrc) (x : Ctx) : Eff := x.int2 ty vd va b (fun p q => p &&& q)
/-- VOR (R126). -/
def colVor (ty : ITy) (vd va : BitVec 10) (b : BSrc) (x : Ctx) : Eff := x.int2 ty vd va b (fun p q => p ||| q)
/-- VXOR (R126). -/
def colVxor (ty : ITy) (vd va : BitVec 10) (b : BSrc) (x : Ctx) : Eff := x.int2 ty vd va b (fun p q => p ^^^ q)
/-- VSHL (R126). -/
def colVshl (ty : ITy) (vd va : BitVec 10) (b : BSrc) (x : Ctx) : Eff :=
  x.int2 ty vd va b (fun p q => p <<< (q % widthI ty) % 2 ^ widthI ty)
/-- VSHR (R126). -/
def colVshr (ty : ITy) (vd va : BitVec 10) (b : BSrc) (x : Ctx) : Eff :=
  x.int2 ty vd va b (fun p q => p >>> (q % widthI ty))
/-- VSRA (R126). -/
def colVsra (ty : ITy) (vd va : BitVec 10) (b : BSrc) (x : Ctx) : Eff :=
  let w := widthI ty
  x.int2 ty vd va b (fun p q => ((BitVec.ofNat w p).sshiftRight (q % w)).toNat)
/-- VIMIN (R126). -/
def colVimin (ty : ITy) (vd va : BitVec 10) (b : BSrc) (x : Ctx) : Eff :=
  let w := widthI ty
  x.int2 ty vd va b (fun p q => if sgn w p ≤ sgn w q then p else q)
/-- VIMAX (R126). -/
def colVimax (ty : ITy) (vd va : BitVec 10) (b : BSrc) (x : Ctx) : Eff :=
  let w := widthI ty
  x.int2 ty vd va b (fun p q => if sgn w p ≤ sgn w q then q else p)
/-- VICMP (R123). -/
def colVicmp (c : ICond) (ty : ITy) (vd va : BitVec 10) (b : BSrc) (x : Ctx) : Eff :=
  let w := widthI ty
  x.int2 ty vd va b (fun p q => maskLane w (condHolds c (sgn w p) (sgn w q)))

/-! ## FX128 words (R102, R129) -/

/-- VFXC (R129). -/
def colVfxc (vd va : BitVec 10) (x : Ctx) : Eff :=
  let ra := x.row va
  x.putLanes vd 4 128 ra.pois (((lanesOf 32 ra.data).take 8).map (fxFromF32 (ovFx x.w.ovf)))

/-- VFXA (R129); a slot's two quads repeat (R112). -/
def colVfxa (vd va : BitVec 10) (b : BFx) (x : Ctx) : Eff :=
  let ra := x.row va
  let rb := x.b (match b with | .row v => .row v | .slot n => .slot n)
  x.putLanes vd 4 128 (ra.pois || rb.pois) (lanes3 128 ra.data rb.data 0 (fun p q _ => fxAdd (ovFx x.w.ovf) p q))

/-- VFXF (R129): lanes 8 to 31 become +0. -/
def colVfxf (r : Rnd) (vd va : BitVec 10) (x : Ctx) : Eff :=
  let ra := x.row va
  x.putLanes vd 4 32 ra.pois ((lanesOf 128 ra.data).map (fxToF32 (rndMode r x.w.fpc)))

/-! ## Reductions and lane movement (R106, R130, R131) -/

/-- One level of the pairwise tree (R106). -/
def treeLevel (op : Nat → Nat → Res) : List Nat → List Res
  | a :: b :: l => op a b :: treeLevel op l
  | [a] => [.exact a]
  | [] => []

/-- The pairwise tree: the result and the flags of all levels (R106). -/
def treeReduce (op : Nat → Nat → Res) : Nat → List Nat → Nat × BitVec 5
  | 0, l => (l.headD 0, 0)
  | n + 1, l =>
    let rs := treeLevel op l
    let (v, f) := treeReduce op n (rs.map (·.bits))
    (v, orFlags rs ||| f)

/-- A reduction: the result in every lane, L = 6 (R130). -/
def Ctx.reduceRow (x : Ctx) (w : Nat) (vd va : BitVec 10) (op : Nat → Nat → Res) : Eff :=
  let ra := x.row va
  let (v, f) := treeReduce op (if w = 32 then 5 else 6) (lanesOf w ra.data)
  x.putRow vd 6 ra.pois false f (packRow w (List.replicate (1024 / w) v))

/-- VRSUM (R130). -/
def colVrsum (ty : Ty) (r : Rnd) (sat : Bool) (vd va : BitVec 10) (x : Ctx) : Eff :=
  let w := widthT ty
  let fp := fun (t : FTy) (p q : Nat) => fpAdd (fracOf t) (x.env t r) (fpUnpack (fracOf t) p) (fpUnpack (fracOf t) q)
  x.reduceRow w vd va (match ty with
    | .f32 => fp .f32
    | .bf16 => fp .bf16
    | .i32 | .i16 => fun p q => .exact (fitInt w sat (sgn w p + sgn w q)))

/-- Minimum or maximum of a lane type (R91, R126). -/
def minMaxT (ty : Ty) (mx : Bool) (p q : Nat) : Res :=
  let int := fun (w : Nat) => Res.exact (if decide (sgn w p ≤ sgn w q) != mx then p else q)
  match ty with
  | .f32 => fpMinMax 23 mx p q
  | .bf16 => fpMinMax 7 mx p q
  | .i32 => int 32
  | .i16 => int 16

/-- VRMAX (R130). -/
def colVrmax (ty : Ty) (vd va : BitVec 10) (x : Ctx) : Eff := x.reduceRow (widthT ty) vd va (minMaxT ty true)
/-- VRMIN (R130). -/
def colVrmin (ty : Ty) (vd va : BitVec 10) (x : Ctx) : Eff := x.reduceRow (widthT ty) vd va (minMaxT ty false)

/-- A permutation of lanes, L = 6 (R131). -/
def Ctx.move (x : Ctx) (w : Nat) (vd : BitVec 10) (src : PlaceV) (pois : Bool) (at_ : Nat → Nat) : Eff :=
  let a := lanesOf w src.data
  x.putRow vd 6 pois false 0 (packRow w ((List.range (1024 / w)).map (fun i => a.getD (at_ i % (1024 / w)) 0)))

/-- VPERM (R131). -/
def colVperm (ty : Ty) (vd va : BitVec 10) (b : BSrc) (x : Ctx) : Eff :=
  let ra := x.row va
  let rb := x.b b
  let idx := lanesOf (widthT ty) rb.data
  x.move (widthT ty) vd ra (ra.pois || rb.pois) (fun i => idx.getD i 0)
/-- VBCAST (R131). -/
def colVbcast (ty : Ty) (vd va : BitVec 10) (lane : BitVec 6) (x : Ctx) : Eff :=
  let ra := x.row va
  x.move (widthT ty) vd ra ra.pois (fun _ => lane.toNat)
/-- VROT (R131). -/
def colVrot (ty : Ty) (vd va : BitVec 10) (k : BitVec 6) (x : Ctx) : Eff :=
  let ra := x.row va
  x.move (widthT ty) vd ra ra.pois (fun i => i + k.toNat)

/-! ## Lane accumulates (R107, R132) -/

/-- A lane accumulate: the sum goes east in the slot and into the lowest lanes of vd (R132). -/
def Ctx.accumulate (x : Ctx) (w : Nat) (vd va : BitVec 10) (slot : BitVec 3) (op : Nat → Nat → Res) : Eff :=
  let ra := x.row va
  let sl := x.beat.slot slot.toNat
  let p := ra.pois || x.beat.slotPois slot.toNat 1
  let rs := (((lanesOf w (sl.setWidth 1024)).zip (lanesOf w ra.data)).take (256 / w)).map (fun q => op q.1 q.2)
  let d := packN w (rs.map (·.bits))
  let e := x.putRow vd 4 p (resPois rs) (orFlags rs) (bv 1024 d)
  { e with beat := some (x.beat.putSlots slot.toNat 1 d none (p || resPois rs || x.w.held)) }

/-- VLADD (R107, R132). -/
def colVladd (ty : FTy) (r : Rnd) (vd va : BitVec 10) (slot : BitVec 3) (x : Ctx) : Eff :=
  let f := fracOf ty
  x.accumulate (widthF ty) vd va slot (fun p q => fpAdd f (x.env ty r) (fpUnpack f p) (fpUnpack f q))
/-- VFXL (R107, R132). -/
def colVfxl (vd va : BitVec 10) (slot : BitVec 3) (x : Ctx) : Eff :=
  x.accumulate 128 vd va slot (fxAdd (ovFx x.w.ovf))

/-! ## Immediate words and moves (R133, R134) -/

/-- An f20 immediate as FP32 bits (R43). -/
def f20 (imm : BitVec 20) : BitVec 32 := imm.setWidth 32 <<< 12

/-- VADDI (R133). -/
def colVaddi (vd va : BitVec 10) (imm : BitVec 20) (x : Ctx) : Eff :=
  x.fp2 .f32 vd va (.lit (f20 imm)) 4 (fun p q => fpAdd 23 (x.env .f32 .fpc) (fpUnpack 23 p) (fpUnpack 23 q))
/-- VMULI (R133). -/
def colVmuli (vd va : BitVec 10) (imm : BitVec 20) (x : Ctx) : Eff :=
  x.fp2 .f32 vd va (.lit (f20 imm)) 4 (fun p q => fpMul 23 (x.env .f32 .fpc) (fpUnpack 23 p) (fpUnpack 23 q))
/-- VFMHI (R133): vd × A + f20. -/
def colVfmhi (vd va : BitVec 10) (imm : BitVec 20) (x : Ctx) : Eff :=
  x.fp3 .f32 vd va (.lit (f20 imm)) (fun p q v => fpFused 23 (x.env .f32 .fpc) false v p q)
/-- VMINI (R133). -/
def colVmini (vd va : BitVec 10) (imm : BitVec 20) (x : Ctx) : Eff := x.fp2 .f32 vd va (.lit (f20 imm)) 2 (fpMinMax 23 false)
/-- VMAXI (R133). -/
def colVmaxi (vd va : BitVec 10) (imm : BitVec 20) (x : Ctx) : Eff := x.fp2 .f32 vd va (.lit (f20 imm)) 2 (fpMinMax 23 true)
/-- VIADDI (R133). -/
def colViaddi (vd va : BitVec 10) (imm : BitVec 20) (x : Ctx) : Eff :=
  x.int2 .i32 vd va (.lit (imm.signExtend 32)) (fun p q => (p + q) % 2 ^ 32)
/-- VANDI (R133). -/
def colVandi (vd va : BitVec 10) (imm : BitVec 20) (x : Ctx) : Eff :=
  x.int2 .i32 vd va (.lit (imm.signExtend 32)) (fun p q => p &&& q)
/-- VSHLI (R133). -/
def colVshli (vd va : BitVec 10) (imm : BitVec 5) (x : Ctx) : Eff :=
  x.int2 .i32 vd va (.lit (imm.setWidth 32)) (fun p q => p <<< q % 2 ^ 32)
/-- VLI (R133). -/
def colVli (vd : BitVec 10) (imm : BitVec 20) (x : Ctx) : Eff :=
  x.putRow vd 2 false false 0 (repWord (imm.signExtend 32))

/-- VMOV: the B row with its poison (R134). -/
def colVmov (vd : BitVec 10) (b : BSrc) (x : Ctx) : Eff :=
  let rb := x.b b
  x.putRow vd 2 rb.pois false 0 rb.data

end Sys2Proof.Machine
end

