-- ==== Sys2Proof/Machine/Convert.lean ====
section
/-! DEFINITION. VCVT (R127, R128) and the conversions of the moves between rows and the beat or folio side (R155). -/

namespace Sys2Proof.Machine

open Sys2Proof

/-- Element width of a VCVT format (R127). -/
def cvtWidth : CvtFmt → Nat
  | .f32 | .i32 => 32
  | .bf16 | .i16 => 16
  | .m8 | .i8 => 8

/-- Whether a format holds integers. -/
def cvtInt : CvtFmt → Bool
  | .i32 | .i16 | .i8 => true
  | _ => false

/-- The exact value of a source element, with its scale byte (R97, R127). -/
def cvtValue (src : CvtFmt) (v : Nat) (scale : Nat) : Fp :=
  match src with
  | .f32 => fpUnpack 23 v
  | .bf16 => fpUnpack 7 v
  | .m8 => m8Fp v (sgn 8 scale)
  | .i32 => intFp (sgn 32 v)
  | .i16 => intFp (sgn 16 v)
  | .i8 => intFp (sgn 8 v)

/-- The overflow entry of an integer format (R89). -/
def cvtEntry (ovf : BitVec 14) : CvtFmt → OvE
  | .f32 => ovF32 ovf
  | .bf16 => ovBf16 ovf
  | .m8 => ovM8 ovf
  | .i8 => ovI8 ovf
  | .i16 => ovI16 ovf
  | .i32 => ovI32 ovf

/-- The integer an exact integer value stands for. -/
def fpInt : Fp → Int
  | .fin neg m _ => if neg then -(m : Int) else m
  | _ => 0

/-- One element converted to a format other than M8 (R100, R127). -/
def cvtElem (dst src : CvtFmt) (rm : RMode) (fz : Bool) (ovf : BitVec 14) (v scale : Nat) : Res :=
  let ent := cvtEntry ovf dst
  let x := cvtValue src v scale
  match dst with
  | .f32 => fpOut 23 ⟨rm, fz, ent⟩ x
  | .bf16 => fpOut 7 ⟨rm, fz, ent⟩ x
  | _ => if cvtInt src then narrowInt (cvtWidth dst) ent (fpInt x) else fpToInt (cvtWidth dst) 0 rm ent x

/-- Replace the n bits from bit `lo` on of a row. -/
def putBits (r : BitVec 1024) (lo n v : Nat) : BitVec 1024 :=
  let m : BitVec 1024 := (BitVec.allOnes n).setWidth 1024 <<< lo
  (r &&& ~~~m) ||| ((bv 1024 v <<< lo) &&& m)

/-- Byte b of a row. -/
def rowByte (r : BitVec 1024) (b : Nat) : Nat := r.toNat >>> (8 * b) % 256

/-- The source elements of VCVT with their scales (R128). -/
def cvtSource (dst src : CvtFmt) (h : Nat) (a : BitVec 1024) : List (Nat × Nat) :=
  match cvtWidth src with
  | 32 => (lanesOf 32 a).map (fun v => (v, 0))
  | 16 =>
    let l := (lanesOf 16 a).map (fun v => (v, 0))
    if cvtWidth dst = 32 then (l.drop (32 * h)).take 32 else l
  | _ =>
    let grp := fun (g : Nat) => (List.range 32).map (fun i => (rowByte a (32 * g + i), rowByte a (64 + g)))
    if cvtWidth dst = 16 then grp 0 ++ grp 1 else grp h

/-- VCVT (R127, R128): every byte the conversion does not write keeps its value, and the row's old poison counts
(log 58: DEDUCED). -/
def colVcvt (dst src : CvtFmt) (r : Rnd) (hb : Bool) (vd va : BitVec 10) (x : Ctx) : Eff :=
  let ra := x.row va
  let rv := x.row vd
  let h := hb.toNat
  let es := cvtSource dst src h ra.data
  let p := ra.pois || rv.pois
  match dst with
  | .m8 =>
    let vals := es.map (fun e => cvtValue src e.1 e.2)
    let blocks := if es.length = 64 then [(0, vals.take 32), (1, vals.drop 32)] else [(h, vals)]
    let cs := blocks.map (fun b => (b.1, convertBlock (ovM8 x.w.ovf) b.2))
    let d := cs.foldl (fun d b => putBits (putBits d (256 * b.1) 256 (packN 8 b.2.codes)) (8 * (64 + b.1)) 8 (wrapInt 8 b.2.scale)) rv.data
    x.putRow vd 4 p (cs.any (fun b => b.2.pois)) (cs.foldl (fun f b => f ||| b.2.fl) 0) d
  | _ =>
    let dw := cvtWidth dst
    let rs := es.map (fun e => cvtElem dst src (rndMode r x.w.fpc) (x.w.fpc.getLsbD 3) x.w.ovf e.1 e.2)
    let off := if dw = 32 ∨ es.length = 64 then 0 else 32 * dw * h
    x.putRow vd 4 p (resPois rs) (orFlags rs) (putBits rv.data off (dw * es.length) (packN dw (rs.map (·.bits))))

/-! ## Moves (R155) -/

/-- Slots or units that a row of 32 elements occupies (R155). -/
def cvtUnits : Cvt → Nat
  | .raw | .f32 | .i32 => 4
  | .bf16 => 2
  | .m8 | .i8 => 1

/-- The elements of the beat or folio side as a row of 32 lanes, with the flags (R155). A BF16 NaN is widened as any other value: it keeps
its sign and payload and sets no flag (R90, R91, log 75: DESIGN CHOICE). -/
def loadRow (c : Cvt) (v : Nat) (scale : Byte) : BitVec 1024 × BitVec 5 :=
  let el := fun (w : Nat) => (List.range 32).map (fun i => v >>> (w * i) % 2 ^ w)
  match c with
  | .raw | .f32 | .i32 => (bv 1024 v, 0)
  | .bf16 => (packRow 32 ((el 16).map (fun e => e * 2 ^ 16)), 0)
  | .i8 => (packRow 32 ((el 8).map (fun e => wrapInt 32 (sgn 8 e))), 0)
  | .m8 =>
    let rs := (el 8).map (fun e => fpOut 23 ⟨.rne, false, .infinity⟩ (m8Fp e scale.toInt))
    (packRow 32 (rs.map (·.bits)), orFlags rs)

/-- A stored row: its bits, the scale byte of an M8 block, flags, and its own poison. -/
structure Stored where
  bits : Nat
  scale : Byte
  fl : BitVec 5
  pois : Bool
  deriving DecidableEq, Repr

/-- A row as the elements of the beat or folio side (R155). -/
def storeRow (c : Cvt) (fpc : BitVec 4) (ovf : BitVec 14) (r : BitVec 1024) : Stored :=
  match c with
  | .raw | .f32 | .i32 => ⟨r.toNat, 0, 0, false⟩
  | .bf16 =>
    let rs := (lanesOf 32 r).map (fun v => fpOut 7 ⟨fpcMode fpc, fpc.getLsbD 3, ovBf16 ovf⟩ (fpUnpack 23 v))
    ⟨packN 16 (rs.map (·.bits)), 0, orFlags rs, false⟩
  | .i8 =>
    let rs := (lanesOf 32 r).map (fun v => narrowInt 8 (ovI8 ovf) (sgn 32 v))
    ⟨packN 8 (rs.map (·.bits)), 0, orFlags rs, resPois rs⟩
  | .m8 =>
    let b := convertBlock (ovM8 ovf) ((lanesOf 32 r).map (fpUnpack 23))
    ⟨packN 8 b.codes, bv 8 (wrapInt 8 b.scale), b.fl, b.pois⟩

/-- The bits of a run of folio units, and whether any is poisoned. -/
def joinUnits (l : List PlaceV) : Nat × Bool :=
  (packN 256 (l.map (fun p => p.data.toNat)), l.any (·.pois))

/-- Landings of folio units; those beyond the window are discarded (R144, R158). -/
def Ctx.putUnits (x : Ctx) (L u n : Nat) (v : Nat) (pois : Bool) : List (Nat × Land) :=
  ((List.range n).filter (fun i => decide (u + i < x.l.nunits))).map (fun i =>
    (L, .unit (u + i) ⟨bv 256 (v >>> (256 * i)), pois || x.w.held⟩))

/-- VGETL (R156). -/
def colVgetl (c : Cvt) (v : BitVec 10) (slot : BitVec 3) (x : Ctx) : Eff :=
  let n := cvtUnits c
  let s := slot.toNat
  let (d, f) := loadRow c (x.beat.data.toNat >>> (256 * s) % 2 ^ (256 * n)) (x.beat.scaleOf s)
  x.putRow v 2 (x.beat.slotPois s n) false f d

/-- VPUTL (R157). -/
def colVputl (c : Cvt) (slot : BitVec 3) (v : BitVec 10) (x : Ctx) : Eff :=
  let r := x.row v
  let st := storeRow c x.w.fpc x.w.ovf r.data
  let sc := if c = .m8 then some st.scale else none
  { Eff.none with
    lands := flagLand 1 st.fl, read := r.pois
    beat := some (x.beat.putSlots slot.toNat (cvtUnits c) st.bits sc (r.pois || st.pois || x.w.held)) }

/-- FLDV (R158). -/
def colFldv (c : Cvt) (v : BitVec 10) (s : BitVec 4) (disp : BitVec 13) (x : Ctx) : Eff :=
  let (d, p) := joinUnits (x.units (x.unitAt s disp.toNat) (cvtUnits c))
  let (r, f) := loadRow c d 0
  x.putRow v 2 p false f r

/-- FSTV (R158). -/
def colFstv (c : Cvt) (s : BitVec 4) (disp : BitVec 13) (v : BitVec 10) (x : Ctx) : Eff :=
  let r := x.row v
  let st := storeRow c x.w.fpc x.w.ovf r.data
  { Eff.none with
    lands := x.putUnits 2 (x.unitAt s disp.toNat) (cvtUnits c) st.bits (r.pois || st.pois) ++ flagLand 2 st.fl
    read := r.pois }

/-- A tile result: 32 rows that land together (R22). -/
def Ctx.putTile (x : Ctx) (m : BitVec 5) (L : Nat) (rows : List (BitVec 1024 × Bool)) : List (Nat × Land) :=
  rows.zipIdx.map (fun r => (L, .row (32 * m.toNat + r.2) ⟨r.1.1, r.1.2 || x.w.held⟩))

/-- FLDM (R159): a poisoned M8 scale unit poisons every row. -/
def colFldm (c : Cvt) (m : BitVec 5) (s : BitVec 4) (disp : BitVec 13) (x : Ctx) : Eff :=
  let n := cvtUnits c
  let u := x.unitAt s disp.toNat
  let scale : PlaceV := if c = .m8 then x.unit (u + 32) else ⟨0, false⟩
  let rows := (List.range 32).map (fun r =>
    let (d, p) := joinUnits (x.units (u + n * r) n)
    let (v, f) := loadRow c d (scale.data.extractLsb' (8 * r) 8)
    (v, p || scale.pois, f))
  { Eff.none with
    lands := x.putTile m 4 (rows.map (fun r => (r.1, r.2.1))) ++ flagLand 4 (rows.foldl (fun f r => f ||| r.2.2) 0)
    read := rows.any (fun r => r.2.1) }

/-- FSTM (R159): row r's poison goes to its units, and any row's to the scale unit. -/
def colFstm (c : Cvt) (s : BitVec 4) (disp : BitVec 13) (m : BitVec 5) (x : Ctx) : Eff :=
  let n := cvtUnits c
  let u := x.unitAt s disp.toNat
  let rows := (x.tile m).map (fun r => (storeRow c x.w.fpc x.w.ovf r.data, r.pois))
  let units := rows.zipIdx.flatMap (fun r => x.putUnits 4 (u + n * r.2) n r.1.1.bits (r.1.2 || r.1.1.pois))
  let scale := if c = .m8 then
    x.putUnits 4 (u + 32) 1 (packN 8 (rows.map (fun r => r.1.scale.toNat))) (rows.any (fun r => r.2 || r.1.pois)) else []
  { Eff.none with
    lands := units ++ scale ++ flagLand 4 (rows.foldl (fun f r => f ||| r.1.fl) 0)
    read := rows.any (fun r => r.2) }

end Sys2Proof.Machine
end

