-- ==== Sys2Proof/Machine/Matrix.lean ====
section
/-! DEFINITION. The matrix words at a column (R105, R141–R153): operand layouts, the down-converter, the exact chunk sums
and the one rounding per beat, chains, MZERO and MTRN. -/

namespace Sys2Proof.Machine

open Sys2Proof

/-- The beats a product occupies (R54, R150). -/
def mmaBeats : MFmt → Nat
  | .m8 | .i8 => 4
  | .bf16 => 16

/-- The latency of MMA (R54, R146). -/
def mmaLat (fmt : MFmt) : MmaA → Nat
  | .tile _ => mmaBeats fmt + 8
  | _ => mmaBeats fmt + 6

/-- Units of a folio operand (R142). -/
def mmaUnits : MFmt → Nat
  | .m8 => 33
  | .i8 => 32
  | .bf16 => 64

/-- The overflow entry of the accumulators and of the down-converter (R95, R105, R148). -/
def ovrEntry (o : MOvr) (table : OvE) : OvE :=
  match o with
  | .table => table
  | .largest => .largest
  | .poison => .poison

/-- Element i of a block of 32 one-byte elements. -/
def blockByte (b : BitVec 256) (i : Nat) : Nat := b.toNat >>> (8 * i) % 256

/-- A column block of A or a row or column of B: 32 elements of a format, from one unit or two (R141, R142). -/
def blockOf (fmt : MFmt) (us : List (BitVec 256)) (k i : Nat) : Nat :=
  match fmt with
  | .m8 | .i8 => blockByte (us.getD k 0) i
  | .bf16 => (us.getD (2 * k + i / 16) 0).toNat >>> (16 * (i % 16)) % 2 ^ 16

/-- The scale byte of a block, where the format has one; it is byte k of the unit after the elements (R142). -/
def scaleAt (fmt : MFmt) (us : List (BitVec 256)) (k : Nat) : Int :=
  match fmt with
  | .m8 => sgn 8 (blockByte (us.getD 32 0) k)
  | _ => 0

/-- The exact chunk sum: its value and the flags of invalid cases (R91, R105). A zero sum is −0 only when every product is. -/
def chunkSum (ps : List (Fp × Fp)) : Fp × BitVec 5 :=
  let one := fun (p : Fp × Fp) => if p.1.isNan || p.2.isNan then (none : Option Fp) else fpProd p.1 p.2
  let nan := ps.any (fun p => (one p).isNone)
  let sig := ps.any (fun p => p.1.isSig || p.2.isSig || (!p.1.isNan && !p.2.isNan && (fpProd p.1 p.2).isNone))
  let vs := ps.filterMap one
  let pinf := vs.any (fun v => v == .inf false)
  let ninf := vs.any (fun v => v == .inf true)
  if nan || (pinf && ninf) then (.nan false, fIf (sig || (pinf && ninf)) fNv)
  else if pinf || ninf then (.inf ninf, 0)
  else
    let lo := vs.foldl (fun (l : Int) v => match v with | .fin _ m e => if m = 0 then l else min l e | _ => l) 0
    let s := vs.foldl (fun (a : Int) v => match v with | .fin n m e => if m = 0 then a else a + signedAt n m e lo | _ => a) 0
    let negz := vs.all (fun v => match v with | .fin n m _ => n && m == 0 | _ => false)
    (.fin (if s = 0 then negz else decide (s < 0)) s.natAbs lo, 0)

/-- acc ± S, rounded once under RNE, never flushed (R105). A tiny result that is inexact sets uf and ix as R94 states (R93, log 98: DESIGN CHOICE). -/
def accStep (sub : Bool) (ent : OvE) (acc : Nat) (s : Fp × BitVec 5) : Res :=
  let r := fpAdd 23 ⟨.rne, false, ent⟩ (fpUnpack 23 acc) (if sub then s.1.negate else s.1)
  { r with fl := r.fl ||| s.2 }

/-- The blocks of one chunk of A as fetched: element (i, k) and the scale of block k, k within the chunk. -/
structure AChunk where
  elem : Nat → Nat → Nat
  scale : Nat → Int

/-- Products of a chunk (R105). -/
def chunkLen : MFmt → Nat
  | .m8 | .i8 => 8
  | .bf16 => 2

/-- The value of an element of A or B. -/
def mmaValue (fmt : MFmt) (v : Nat) (scale : Int) : Fp :=
  match fmt with
  | .m8 => m8Fp v scale
  | .bf16 => fpUnpack 7 v
  | .i8 => intFp (sgn 8 v)

/-- One beat of a product: chunk b of A against B into the accumulators, row by row (R101, R105, R146). -/
def mmaChunk (fmt : MFmt) (sub : Bool) (tb : Bool) (ent : OvE) (b : Nat) (a : AChunk) (bu : List (BitVec 256))
    (acc : List (BitVec 1024)) : List (BitVec 1024) × BitVec 5 × Bool :=
  let ks := List.range (chunkLen fmt)
  -- column j of the chunk of B
  let cols := (List.range 32).map (fun j => ks.map (fun k =>
    let kk := chunkLen fmt * b + k
    if tb then mmaValue fmt (blockOf fmt bu j kk) (scaleAt fmt bu j)
    else mmaValue fmt (blockOf fmt bu kk j) (scaleAt fmt bu kk)))
  let rows := acc.zipIdx.map (fun r =>
    let arow := ks.map (fun k => mmaValue fmt (a.elem r.2 k) (a.scale k))
    ((lanesOf 32 r.1).zip cols).map (fun p =>
      match fmt with
      | .i8 =>
        let s := (arow.zip p.2).foldl (fun (s : Int) q => s + fpInt q.1 * fpInt q.2) 0
        (.exact (wrapInt 32 (sgn 32 p.1 + (if sub then -s else s))) : Res)
      | _ => accStep sub ent p.1 (chunkSum (arow.zip p.2))))
  (rows.map (fun r => packRow 32 (r.map (·.bits))), rows.foldl (fun f r => f ||| orFlags r) 0, rows.any resPois)

/-- Chunk b of A from the beat that carries it (R141). -/
def laneChunk (fmt : MFmt) (bt : Beat) : AChunk :=
  let us := (List.range 8).map bt.slot
  ⟨fun i k => blockOf fmt us k i, fun k => match fmt with | .m8 => (bt.scaleOf k).toInt | _ => 0⟩

/-- Whether the slots that a chunk reads carry poison (R141). -/
def lanePois (fmt : MFmt) (bt : Beat) : Bool :=
  match fmt with
  | .m8 | .i8 => bt.slotPois 0 8
  | .bf16 => bt.slotPois 0 4

/-- Chunk b of A from an operand fixed when the word executed. -/
def fixedChunk (fmt : MFmt) (b : Nat) (us : List (BitVec 256)) (sc : List Byte) : AChunk :=
  ⟨fun i k => blockOf fmt us (chunkLen fmt * b + k) i,
   fun k => match fmt with | .m8 => (sc.getD (chunkLen fmt * b + k) 0).toInt | _ => 0⟩

/-- The down-converter: tile ma as an A operand, with its scales, flags and poison (R148). -/
def downConvert (fmt : MFmt) (ovr : MOvr) (ovf : BitVec 14) (rows : List (BitVec 1024)) :
    List (BitVec 256) × List Byte × BitVec 5 × Bool :=
  let lanes := rows.map (lanesOf 32)
  let block := fun (k : Nat) => lanes.map (fun l => l.getD k 0)
  match fmt with
  | .m8 =>
    let bs := (List.range 32).map (fun k => convertBlock (ovrEntry ovr (ovM8 ovf)) ((block k).map (fpUnpack 23)))
    (bs.map (fun b => bv 256 (packN 8 b.codes)), bs.map (fun b => bv 8 (wrapInt 8 b.scale)),
      bs.foldl (fun f b => f ||| b.fl) 0, bs.any (·.pois))
  | .bf16 =>
    let rs := (List.range 32).map (fun k => (block k).map (fun v => fpOut 7 ⟨.rne, false, ovrEntry ovr (ovBf16 ovf)⟩ (fpUnpack 23 v)))
    (rs.flatMap (fun r => [bv 256 (packN 16 ((r.take 16).map (·.bits))), bv 256 (packN 16 ((r.drop 16).map (·.bits)))]), [],
      rs.foldl (fun f r => f ||| orFlags r) 0, rs.any resPois)
  | .i8 =>
    let rs := (List.range 32).map (fun k => (block k).map (fun v => narrowInt 8 (ovrEntry ovr (ovI8 ovf)) (sgn 32 v)))
    (rs.map (fun r => bv 256 (packN 8 (r.map (·.bits)))), [], rs.foldl (fun f r => f ||| orFlags r) 0, rs.any resPois)

/-- The earlier result that an MMA chains on: it names the same tile and is due later than this read (R147). -/
def Ctx.chained (x : Ctx) (md : BitVec 5) : Option LastM :=
  x.core.lastM.filter (fun w => w.md = md.toNat ∧ x.u < w.due)

/-- The accumulator input of MMA (R147): the chained result, the tile as read, or +0; its rows, poison, and whether a
poisoned row was read. -/
def Ctx.accInput (x : Ctx) (mode : MMode) (md : BitVec 5) : List (BitVec 1024) × Bool × Bool :=
  match mode with
  | .ovw => (List.replicate 32 0, false, false)
  | _ =>
    match x.chained md with
    | some w => (w.rows.map (·.data), w.rows.any (·.pois), false)
    | none =>
      let t := x.tile md
      let p := t.any (·.pois)
      (t.map (·.data), p, p)

/-- MMA as it executes at a column (R146): the operands read at t+c and the product it starts. -/
def colMma (fmt : MFmt) (mode : MMode) (ovr : MOvr) (md : BitVec 5) (a : MmaA) (sb : BitVec 4) (bdisp : BitVec 10)
    (x : Ctx) : Eff :=
  let bu := x.units (x.unitAt sb bdisp.toNat) (mmaUnits fmt)
  let bp := bu.any (·.pois)
  let (acc, accP, accR) := x.accInput mode md
  let fixed : Option (List (BitVec 256) × List Byte) × BitVec 5 × Bool × Bool := match a with
    | .lane => (none, 0, false, false)
    | .folio s =>
      let us := x.units (x.unitAt s 0) (mmaUnits fmt)
      let d := us.map (fun p => p.data.setWidth 256)
      let p := us.any (·.pois)
      (some (d, (List.range 32).map (fun k => bv 8 (blockByte (d.getD 32 0) k))), 0, p, p)
    | .tile m =>
      let t := x.tile m
      let (us, sc, f, own) := downConvert fmt ovr x.w.ovf (t.map (·.data))
      let p := t.any (·.pois)
      (some (us, sc), f, p || own, p)
  let run : MmaRun :=
    { t := x.t, ins := x.w.ins, md := md.toNat, ovf := x.w.ovf, a := fixed.1
      b := bu.map (fun p => p.data.setWidth 256), n := 0, acc := acc
      pois := bp || accP || fixed.2.2.1 || x.w.held, fl := fixed.2.1, latest := true }
  { Eff.none with run := some run, breaks := true, read := bp || accR || fixed.2.2.2 }

/-- MZERO (R152). -/
def colMzero (md : BitVec 5) (x : Ctx) : Eff :=
  { Eff.none with lands := x.putTile md 2 (List.replicate 32 (0, false)), breaks := true }

/-- MTRN (R153). -/
def colMtrn (md ma : BitVec 5) (x : Ctx) : Eff :=
  let t := x.tile ma
  let p := t.any (·.pois)
  let lanes := t.map (fun r => lanesOf 32 r.data)
  let rows := (List.range 32).map (fun i => (packRow 32 (lanes.map (fun l => l.getD i 0)), p))
  { Eff.none with lands := x.putTile md 8 rows, breaks := true, read := p }

/-- A product takes its next beat (R146, R151): the run after it, and whether it read a poisoned slot. -/
def MmaRun.advance (r : MmaRun) (bt : Beat) : MmaRun × Bool :=
  match r.ins with
  | .mma _ fmt mode tb ovr _ _ _ _ =>
    let (ch, p) := match r.a with
      | some (us, sc) => (fixedChunk fmt r.n us sc, false)
      | none => (laneChunk fmt bt, lanePois fmt bt)
    let (acc, f, own) := mmaChunk fmt (mode == .sub) tb (ovrEntry ovr (ovF32 r.ovf)) r.n ch r.b r.acc
    ({ r with n := r.n + 1, acc := acc, fl := r.fl ||| f, pois := r.pois || p || own }, p)
  | _ => (r, false)

/-- The beats and the due time of a product's word. -/
def MmaRun.shape (r : MmaRun) : Nat × Nat :=
  match r.ins with
  | .mma _ fmt _ _ _ _ a _ _ => (mmaBeats fmt, mmaLat fmt a)
  | _ => (0, 0)

end Sys2Proof.Machine
end

