-- ==== Sys2Proof/Machine/CoreIssue.lean ====
section
/-! DEFINITION. The CORE words as they issue (R14, R20, R42, R57, R143, R150): operands renamed and checked whatever the
guard, the stage guard and the samples fixed, and the word put into the row's pipe; the columns execute it later. -/

namespace Sys2Proof.Machine

open Sys2Proof

/-- A folio operand whose last unit, with the scalar taken as 0, lies beyond the window (R143). -/
def State.folioViol (s : State) (disp units : Nat) : Viol :=
  if disp + units ≤ s.myStrand.l.nunits then none else some (3, disp + units - 1)

/-- Units of a tile move (R159). -/
def tileUnits : Cvt → Nat
  | .raw | .f32 | .i32 => 128
  | .bf16 => 64
  | .m8 => 33
  | .i8 => 32

/-- The B operand renamed (R14, R112). -/
def State.renameB (s : State) : BSrc → BSrc
  | .row v => .row (s.row10 v)
  | b => b

/-- The check of a B operand (R57, R112). -/
def State.bViol (s : State) : BSrc → Viol
  | .row v => s.rowViol v
  | .kb n => s.kbViol n.toNat
  | _ => none

/-- The B operand of VFXA renamed. -/
def State.renameFx (s : State) : BFx → BFx
  | .row v => .row (s.row10 v)
  | b => b

/-- The check of the B operand of VFXA. -/
def State.fxViol (s : State) : BFx → Viol
  | .row v => s.rowViol v
  | _ => none

/-- A CORE word enters the pipe of its row (R20, R30). (log 55: DEDUCED) -/
def State.pipeWord (s : State) (i : Instr) (g : Guard) (x : Word) : State :=
  let q := s.sqr
  let a := s.me
  let w : PipeWord := ⟨i, q.stageGuard g, q.fpc, q.ovf, x, q.rowsz, s.idx, q.bank, s.textWord s.cur q.bank s.idx, false⟩
  s.setMe { a with pipe := KV.put a.pipe s.t w }

/-- A CORE word issues: its window checks, then the pipe (R57, R111). -/
def State.issueCore (s : State) (i : Instr) (g : Guard) (vs : List Viol) (x : Word) : State :=
  s.checked (firstViol vs) (fun s => s.pipeWord i g x)

/-- A matrix word issues: its window checks, the matrix attribute, then the pipe (R57, R145). -/
def State.issueMatrix (s : State) (i : Instr) (g : Guard) (vs : List Viol) : State :=
  s.checked (firstViol vs) (fun s =>
    if s.myStrand.mat then s.pipeWord i g 0 else s.raise s.idx 8 0 0 0 0)

/-- SADD at issue (R114). -/
def execSadd (g : Guard) (sd sa : BitVec 4) (b : SSrc) (s : State) : Out :=
  .next (s.issueCore (.sadd g sd sa b) g [] 0)

/-- SSUB at issue (R114). -/
def execSsub (g : Guard) (sd sa : BitVec 4) (b : SSrc) (s : State) : Out :=
  .next (s.issueCore (.ssub g sd sa b) g [] 0)

/-- SMUL at issue (R114). -/
def execSmul (g : Guard) (sd sa : BitVec 4) (b : SSrc) (s : State) : Out :=
  .next (s.issueCore (.smul g sd sa b) g [] 0)

/-- SAND at issue (R114). -/
def execSand (g : Guard) (sd sa : BitVec 4) (b : SSrc) (s : State) : Out :=
  .next (s.issueCore (.sand g sd sa b) g [] 0)

/-- SOR at issue (R114). -/
def execSor (g : Guard) (sd sa : BitVec 4) (b : SSrc) (s : State) : Out :=
  .next (s.issueCore (.sor g sd sa b) g [] 0)

/-- SXOR at issue (R114). -/
def execSxor (g : Guard) (sd sa : BitVec 4) (b : SSrc) (s : State) : Out :=
  .next (s.issueCore (.sxor g sd sa b) g [] 0)

/-- SSHL at issue (R114). -/
def execSshl (g : Guard) (sd sa : BitVec 4) (b : SSrc) (s : State) : Out :=
  .next (s.issueCore (.sshl g sd sa b) g [] 0)

/-- SSHR at issue (R114). -/
def execSshr (g : Guard) (sd sa : BitVec 4) (b : SSrc) (s : State) : Out :=
  .next (s.issueCore (.sshr g sd sa b) g [] 0)

/-- SSRA at issue (R114). -/
def execSsra (g : Guard) (sd sa : BitVec 4) (b : SSrc) (s : State) : Out :=
  .next (s.issueCore (.ssra g sd sa b) g [] 0)

/-- SMIN at issue (R114). -/
def execSmin (g : Guard) (sd sa : BitVec 4) (b : SSrc) (s : State) : Out :=
  .next (s.issueCore (.smin g sd sa b) g [] 0)

/-- SMAX at issue (R114). -/
def execSmax (g : Guard) (sd sa : BitVec 4) (b : SSrc) (s : State) : Out :=
  .next (s.issueCore (.smax g sd sa b) g [] 0)

/-- SMOVX at issue (R115). -/
def execSmovx (g : Guard) (sd xa : BitVec 4) (s : State) : Out :=
  .next (s.issueCore (.smovx g sd xa) g [] (s.xr xa))

/-- SGET at issue (R116). -/
def execSget (g : Guard) (sd : BitVec 4) (sel : SgetSel) (s : State) : Out :=
  .next (s.issueCore (.sget g sd sel) g [] 0)

/-- SLI at issue (R117). -/
def execSli (g : Guard) (sd : BitVec 4) (v : SliSrc) (s : State) : Out :=
  .next (s.issueCore (.sli g sd v) g [] 0)

/-- SCMP at issue (R118). -/
def execScmp (g : Guard) (c : ICond) (pd sa sb : BitVec 4) (s : State) : Out :=
  .next (s.issueCore (.scmp g c pd sa sb) g [] 0)

/-- PAND at issue (R119). -/
def execPand (g : Guard) (pd pa pb : BitVec 4) (s : State) : Out :=
  .next (s.issueCore (.pand g pd pa pb) g [] 0)

/-- POR at issue (R119). -/
def execPor (g : Guard) (pd pa pb : BitVec 4) (s : State) : Out :=
  .next (s.issueCore (.por g pd pa pb) g [] 0)

/-- PXOR at issue (R119). -/
def execPxor (g : Guard) (pd pa pb : BitVec 4) (s : State) : Out :=
  .next (s.issueCore (.pxor g pd pa pb) g [] 0)

/-- PNOT at issue (R119). -/
def execPnot (g : Guard) (pd pa : BitVec 4) (s : State) : Out :=
  .next (s.issueCore (.pnot g pd pa) g [] 0)

/-- VANY at issue (R120). -/
def execVany (g : Guard) (pd : BitVec 4) (va : BitVec 10) (s : State) : Out :=
  .next (s.issueCore (.vany g pd (s.row10 va)) g [s.rowViol va] 0)

/-- VALL at issue (R120). -/
def execVall (g : Guard) (pd : BitVec 4) (va : BitVec 10) (s : State) : Out :=
  .next (s.issueCore (.vall g pd (s.row10 va)) g [s.rowViol va] 0)

/-- VADD at issue (R121). -/
def execVadd (g : Guard) (ty : FTy) (r : Rnd) (vd va : BitVec 10) (b : BSrc) (s : State) : Out :=
  .next (s.issueCore (.vadd g ty r (s.row10 vd) (s.row10 va) (s.renameB b)) g [s.rowViol vd, s.rowViol va, s.bViol b] 0)

/-- VSUB at issue (R121). -/
def execVsub (g : Guard) (ty : FTy) (r : Rnd) (vd va : BitVec 10) (b : BSrc) (s : State) : Out :=
  .next (s.issueCore (.vsub g ty r (s.row10 vd) (s.row10 va) (s.renameB b)) g [s.rowViol vd, s.rowViol va, s.bViol b] 0)

/-- VMUL at issue (R121). -/
def execVmul (g : Guard) (ty : FTy) (r : Rnd) (vd va : BitVec 10) (b : BSrc) (s : State) : Out :=
  .next (s.issueCore (.vmul g ty r (s.row10 vd) (s.row10 va) (s.renameB b)) g [s.rowViol vd, s.rowViol va, s.bViol b] 0)

/-- VFMA at issue (R121). -/
def execVfma (g : Guard) (ty : FTy) (r : Rnd) (vd va : BitVec 10) (b : BSrc) (s : State) : Out :=
  .next (s.issueCore (.vfma g ty r (s.row10 vd) (s.row10 va) (s.renameB b)) g [s.rowViol vd, s.rowViol va, s.bViol b] 0)

/-- VFMS at issue (R121). -/
def execVfms (g : Guard) (ty : FTy) (r : Rnd) (vd va : BitVec 10) (b : BSrc) (s : State) : Out :=
  .next (s.issueCore (.vfms g ty r (s.row10 vd) (s.row10 va) (s.renameB b)) g [s.rowViol vd, s.rowViol va, s.bViol b] 0)

/-- VFMH at issue (R121). -/
def execVfmh (g : Guard) (ty : FTy) (r : Rnd) (vd va : BitVec 10) (b : BSrc) (s : State) : Out :=
  .next (s.issueCore (.vfmh g ty r (s.row10 vd) (s.row10 va) (s.renameB b)) g [s.rowViol vd, s.rowViol va, s.bViol b] 0)

/-- VMIN at issue (R121). -/
def execVmin (g : Guard) (ty : FTy) (r : Rnd) (vd va : BitVec 10) (b : BSrc) (s : State) : Out :=
  .next (s.issueCore (.vmin g ty r (s.row10 vd) (s.row10 va) (s.renameB b)) g [s.rowViol vd, s.rowViol va, s.bViol b] 0)

/-- VMAX at issue (R121). -/
def execVmax (g : Guard) (ty : FTy) (r : Rnd) (vd va : BitVec 10) (b : BSrc) (s : State) : Out :=
  .next (s.issueCore (.vmax g ty r (s.row10 vd) (s.row10 va) (s.renameB b)) g [s.rowViol vd, s.rowViol va, s.bViol b] 0)

/-- VABS at issue (R122). -/
def execVabs (g : Guard) (ty : FTy) (vd va : BitVec 10) (s : State) : Out :=
  .next (s.issueCore (.vabs g ty (s.row10 vd) (s.row10 va)) g [s.rowViol vd, s.rowViol va] 0)

/-- VNEG at issue (R122). -/
def execVneg (g : Guard) (ty : FTy) (vd va : BitVec 10) (s : State) : Out :=
  .next (s.issueCore (.vneg g ty (s.row10 vd) (s.row10 va)) g [s.rowViol vd, s.rowViol va] 0)

/-- VCMP at issue (R123). -/
def execVcmp (g : Guard) (c : Cond) (ty : FTy) (vd va : BitVec 10) (b : BSrc) (s : State) : Out :=
  .next (s.issueCore (.vcmp g c ty (s.row10 vd) (s.row10 va) (s.renameB b)) g [s.rowViol vd, s.rowViol va, s.bViol b] 0)

/-- VSEL at issue (R124). -/
def execVsel (g : Guard) (ty : Ty) (vd va : BitVec 10) (b : BSrc) (s : State) : Out :=
  .next (s.issueCore (.vsel g ty (s.row10 vd) (s.row10 va) (s.renameB b)) g [s.rowViol vd, s.rowViol va, s.bViol b] 0)

/-- VRCP at issue (R125). -/
def execVrcp (g : Guard) (ty : FTy) (r : Rnd) (vd va : BitVec 10) (s : State) : Out :=
  .next (s.issueCore (.vrcp g ty r (s.row10 vd) (s.row10 va)) g [s.rowViol vd, s.rowViol va] 0)

/-- VRSQ at issue (R125). -/
def execVrsq (g : Guard) (ty : FTy) (r : Rnd) (vd va : BitVec 10) (s : State) : Out :=
  .next (s.issueCore (.vrsq g ty r (s.row10 vd) (s.row10 va)) g [s.rowViol vd, s.rowViol va] 0)

/-- VSQRT at issue (R125). -/
def execVsqrt (g : Guard) (ty : FTy) (r : Rnd) (vd va : BitVec 10) (s : State) : Out :=
  .next (s.issueCore (.vsqrt g ty r (s.row10 vd) (s.row10 va)) g [s.rowViol vd, s.rowViol va] 0)

/-- VEXP2 at issue (R125). -/
def execVexp2 (g : Guard) (ty : FTy) (r : Rnd) (vd va : BitVec 10) (s : State) : Out :=
  .next (s.issueCore (.vexp2 g ty r (s.row10 vd) (s.row10 va)) g [s.rowViol vd, s.rowViol va] 0)

/-- VLOG2 at issue (R125). -/
def execVlog2 (g : Guard) (ty : FTy) (r : Rnd) (vd va : BitVec 10) (s : State) : Out :=
  .next (s.issueCore (.vlog2 g ty r (s.row10 vd) (s.row10 va)) g [s.rowViol vd, s.rowViol va] 0)

/-- VTANH at issue (R125). -/
def execVtanh (g : Guard) (ty : FTy) (r : Rnd) (vd va : BitVec 10) (s : State) : Out :=
  .next (s.issueCore (.vtanh g ty r (s.row10 vd) (s.row10 va)) g [s.rowViol vd, s.rowViol va] 0)

/-- VSIGM at issue (R125). -/
def execVsigm (g : Guard) (ty : FTy) (r : Rnd) (vd va : BitVec 10) (s : State) : Out :=
  .next (s.issueCore (.vsigm g ty r (s.row10 vd) (s.row10 va)) g [s.rowViol vd, s.rowViol va] 0)

/-- VSIN at issue (R125). -/
def execVsin (g : Guard) (ty : FTy) (r : Rnd) (vd va : BitVec 10) (s : State) : Out :=
  .next (s.issueCore (.vsin g ty r (s.row10 vd) (s.row10 va)) g [s.rowViol vd, s.rowViol va] 0)

/-- VCOS at issue (R125). -/
def execVcos (g : Guard) (ty : FTy) (r : Rnd) (vd va : BitVec 10) (s : State) : Out :=
  .next (s.issueCore (.vcos g ty r (s.row10 vd) (s.row10 va)) g [s.rowViol vd, s.rowViol va] 0)

/-- VIADD at issue (R126). -/
def execViadd (g : Guard) (ty : ITy) (sat : Bool) (vd va : BitVec 10) (b : BSrc) (s : State) : Out :=
  .next (s.issueCore (.viadd g ty sat (s.row10 vd) (s.row10 va) (s.renameB b)) g [s.rowViol vd, s.rowViol va, s.bViol b] 0)

/-- VISUB at issue (R126). -/
def execVisub (g : Guard) (ty : ITy) (sat : Bool) (vd va : BitVec 10) (b : BSrc) (s : State) : Out :=
  .next (s.issueCore (.visub g ty sat (s.row10 vd) (s.row10 va) (s.renameB b)) g [s.rowViol vd, s.rowViol va, s.bViol b] 0)

/-- VIMUL at issue (R126). -/
def execVimul (g : Guard) (ty : ITy) (sat : Bool) (vd va : BitVec 10) (b : BSrc) (s : State) : Out :=
  .next (s.issueCore (.vimul g ty sat (s.row10 vd) (s.row10 va) (s.renameB b)) g [s.rowViol vd, s.rowViol va, s.bViol b] 0)

/-- VAND at issue (R126). -/
def execVand (g : Guard) (ty : ITy) (vd va : BitVec 10) (b : BSrc) (s : State) : Out :=
  .next (s.issueCore (.vand g ty (s.row10 vd) (s.row10 va) (s.renameB b)) g [s.rowViol vd, s.rowViol va, s.bViol b] 0)

/-- VOR at issue (R126). -/
def execVor (g : Guard) (ty : ITy) (vd va : BitVec 10) (b : BSrc) (s : State) : Out :=
  .next (s.issueCore (.vor g ty (s.row10 vd) (s.row10 va) (s.renameB b)) g [s.rowViol vd, s.rowViol va, s.bViol b] 0)

/-- VXOR at issue (R126). -/
def execVxor (g : Guard) (ty : ITy) (vd va : BitVec 10) (b : BSrc) (s : State) : Out :=
  .next (s.issueCore (.vxor g ty (s.row10 vd) (s.row10 va) (s.renameB b)) g [s.rowViol vd, s.rowViol va, s.bViol b] 0)

/-- VSHL at issue (R126). -/
def execVshl (g : Guard) (ty : ITy) (vd va : BitVec 10) (b : BSrc) (s : State) : Out :=
  .next (s.issueCore (.vshl g ty (s.row10 vd) (s.row10 va) (s.renameB b)) g [s.rowViol vd, s.rowViol va, s.bViol b] 0)

/-- VSHR at issue (R126). -/
def execVshr (g : Guard) (ty : ITy) (vd va : BitVec 10) (b : BSrc) (s : State) : Out :=
  .next (s.issueCore (.vshr g ty (s.row10 vd) (s.row10 va) (s.renameB b)) g [s.rowViol vd, s.rowViol va, s.bViol b] 0)

/-- VSRA at issue (R126). -/
def execVsra (g : Guard) (ty : ITy) (vd va : BitVec 10) (b : BSrc) (s : State) : Out :=
  .next (s.issueCore (.vsra g ty (s.row10 vd) (s.row10 va) (s.renameB b)) g [s.rowViol vd, s.rowViol va, s.bViol b] 0)

/-- VIMIN at issue (R126). -/
def execVimin (g : Guard) (ty : ITy) (vd va : BitVec 10) (b : BSrc) (s : State) : Out :=
  .next (s.issueCore (.vimin g ty (s.row10 vd) (s.row10 va) (s.renameB b)) g [s.rowViol vd, s.rowViol va, s.bViol b] 0)

/-- VIMAX at issue (R126). -/
def execVimax (g : Guard) (ty : ITy) (vd va : BitVec 10) (b : BSrc) (s : State) : Out :=
  .next (s.issueCore (.vimax g ty (s.row10 vd) (s.row10 va) (s.renameB b)) g [s.rowViol vd, s.rowViol va, s.bViol b] 0)

/-- VICMP at issue (R123). -/
def execVicmp (g : Guard) (c : ICond) (ty : ITy) (vd va : BitVec 10) (b : BSrc) (s : State) : Out :=
  .next (s.issueCore (.vicmp g c ty (s.row10 vd) (s.row10 va) (s.renameB b)) g [s.rowViol vd, s.rowViol va, s.bViol b] 0)

/-- VCVT at issue (R127). -/
def execVcvt (g : Guard) (dst src : CvtFmt) (r : Rnd) (h : Bool) (vd va : BitVec 10) (s : State) : Out :=
  .next (s.issueCore (.vcvt g dst src r h (s.row10 vd) (s.row10 va)) g [s.rowViol vd, s.rowViol va] 0)

/-- VFXC at issue (R129). -/
def execVfxc (g : Guard) (vd va : BitVec 10) (s : State) : Out :=
  .next (s.issueCore (.vfxc g (s.row10 vd) (s.row10 va)) g [s.rowViol vd, s.rowViol va] 0)

/-- VFXA at issue (R129). -/
def execVfxa (g : Guard) (vd va : BitVec 10) (b : BFx) (s : State) : Out :=
  .next (s.issueCore (.vfxa g (s.row10 vd) (s.row10 va) (s.renameFx b)) g [s.rowViol vd, s.rowViol va, s.fxViol b] 0)

/-- VFXF at issue (R129). -/
def execVfxf (g : Guard) (r : Rnd) (vd va : BitVec 10) (s : State) : Out :=
  .next (s.issueCore (.vfxf g r (s.row10 vd) (s.row10 va)) g [s.rowViol vd, s.rowViol va] 0)

/-- VRSUM at issue (R130). -/
def execVrsum (g : Guard) (ty : Ty) (r : Rnd) (sat : Bool) (vd va : BitVec 10) (s : State) : Out :=
  .next (s.issueCore (.vrsum g ty r sat (s.row10 vd) (s.row10 va)) g [s.rowViol vd, s.rowViol va] 0)

/-- VRMAX at issue (R130). -/
def execVrmax (g : Guard) (ty : Ty) (vd va : BitVec 10) (s : State) : Out :=
  .next (s.issueCore (.vrmax g ty (s.row10 vd) (s.row10 va)) g [s.rowViol vd, s.rowViol va] 0)

/-- VRMIN at issue (R130). -/
def execVrmin (g : Guard) (ty : Ty) (vd va : BitVec 10) (s : State) : Out :=
  .next (s.issueCore (.vrmin g ty (s.row10 vd) (s.row10 va)) g [s.rowViol vd, s.rowViol va] 0)

/-- VPERM at issue (R131). -/
def execVperm (g : Guard) (ty : Ty) (vd va : BitVec 10) (b : BSrc) (s : State) : Out :=
  .next (s.issueCore (.vperm g ty (s.row10 vd) (s.row10 va) (s.renameB b)) g [s.rowViol vd, s.rowViol va, s.bViol b] 0)

/-- VBCAST at issue (R131). -/
def execVbcast (g : Guard) (ty : Ty) (vd va : BitVec 10) (lane : BitVec 6) (s : State) : Out :=
  .next (s.issueCore (.vbcast g ty (s.row10 vd) (s.row10 va) lane) g [s.rowViol vd, s.rowViol va] 0)

/-- VROT at issue (R131). -/
def execVrot (g : Guard) (ty : Ty) (vd va : BitVec 10) (k : BitVec 6) (s : State) : Out :=
  .next (s.issueCore (.vrot g ty (s.row10 vd) (s.row10 va) k) g [s.rowViol vd, s.rowViol va] 0)

/-- VLADD at issue (R132). -/
def execVladd (g : Guard) (ty : FTy) (r : Rnd) (vd va : BitVec 10) (slot : BitVec 3) (s : State) : Out :=
  .next (s.issueCore (.vladd g ty r (s.row10 vd) (s.row10 va) slot) g [s.rowViol vd, s.rowViol va] 0)

/-- VFXL at issue (R132). -/
def execVfxl (g : Guard) (vd va : BitVec 10) (slot : BitVec 3) (s : State) : Out :=
  .next (s.issueCore (.vfxl g (s.row10 vd) (s.row10 va) slot) g [s.rowViol vd, s.rowViol va] 0)

/-- VADDI at issue (R133). -/
def execVaddi (p : BitVec 3) (vd va : BitVec 10) (imm : BitVec 20) (s : State) : Out :=
  .next (s.issueCore (.vaddi p (s.row10 vd) (s.row10 va) imm) ⟨false, p.setWidth 4⟩ [s.rowViol vd, s.rowViol va] 0)

/-- VMULI at issue (R133). -/
def execVmuli (p : BitVec 3) (vd va : BitVec 10) (imm : BitVec 20) (s : State) : Out :=
  .next (s.issueCore (.vmuli p (s.row10 vd) (s.row10 va) imm) ⟨false, p.setWidth 4⟩ [s.rowViol vd, s.rowViol va] 0)

/-- VFMHI at issue (R133). -/
def execVfmhi (p : BitVec 3) (vd va : BitVec 10) (imm : BitVec 20) (s : State) : Out :=
  .next (s.issueCore (.vfmhi p (s.row10 vd) (s.row10 va) imm) ⟨false, p.setWidth 4⟩ [s.rowViol vd, s.rowViol va] 0)

/-- VMINI at issue (R133). -/
def execVmini (p : BitVec 3) (vd va : BitVec 10) (imm : BitVec 20) (s : State) : Out :=
  .next (s.issueCore (.vmini p (s.row10 vd) (s.row10 va) imm) ⟨false, p.setWidth 4⟩ [s.rowViol vd, s.rowViol va] 0)

/-- VMAXI at issue (R133). -/
def execVmaxi (p : BitVec 3) (vd va : BitVec 10) (imm : BitVec 20) (s : State) : Out :=
  .next (s.issueCore (.vmaxi p (s.row10 vd) (s.row10 va) imm) ⟨false, p.setWidth 4⟩ [s.rowViol vd, s.rowViol va] 0)

/-- VIADDI at issue (R133). -/
def execViaddi (p : BitVec 3) (vd va : BitVec 10) (imm : BitVec 20) (s : State) : Out :=
  .next (s.issueCore (.viaddi p (s.row10 vd) (s.row10 va) imm) ⟨false, p.setWidth 4⟩ [s.rowViol vd, s.rowViol va] 0)

/-- VANDI at issue (R133). -/
def execVandi (p : BitVec 3) (vd va : BitVec 10) (imm : BitVec 20) (s : State) : Out :=
  .next (s.issueCore (.vandi p (s.row10 vd) (s.row10 va) imm) ⟨false, p.setWidth 4⟩ [s.rowViol vd, s.rowViol va] 0)

/-- VSHLI at issue (R133). -/
def execVshli (p : BitVec 3) (vd va : BitVec 10) (imm : BitVec 5) (s : State) : Out :=
  .next (s.issueCore (.vshli p (s.row10 vd) (s.row10 va) imm) ⟨false, p.setWidth 4⟩ [s.rowViol vd, s.rowViol va] 0)

/-- VLI at issue (R133). -/
def execVli (p : BitVec 3) (vd : BitVec 10) (imm : BitVec 20) (s : State) : Out :=
  .next (s.issueCore (.vli p (s.row10 vd) imm) ⟨false, p.setWidth 4⟩ [s.rowViol vd] 0)

/-- VMOV at issue (R134). -/
def execVmov (g : Guard) (ty : Ty) (vd : BitVec 10) (b : BSrc) (s : State) : Out :=
  .next (s.issueCore (.vmov g ty (s.row10 vd) (s.renameB b)) g [s.rowViol vd, s.bViol b] 0)

/-- VGETL at issue (R156). -/
def execVgetl (g : Guard) (cvt : Cvt) (v : BitVec 10) (slot : BitVec 3) (s : State) : Out :=
  .next (s.issueCore (.vgetl g cvt (s.row10 v) slot) g [s.rowViol v] 0)

/-- VPUTL at issue (R157). -/
def execVputl (g : Guard) (cvt : Cvt) (slot : BitVec 3) (v : BitVec 10) (s : State) : Out :=
  .next (s.issueCore (.vputl g cvt slot (s.row10 v)) g [s.rowViol v] 0)

/-- FLDV at issue (R158). -/
def execFldv (g : Guard) (cvt : Cvt) (v : BitVec 10) (sk : BitVec 4) (disp : BitVec 13) (s : State) : Out :=
  .next (s.issueCore (.fldv g cvt (s.row10 v) sk disp) g [s.rowViol v, s.folioViol disp.toNat (cvtUnits cvt)] 0)

/-- FSTV at issue (R158). -/
def execFstv (g : Guard) (cvt : Cvt) (sk : BitVec 4) (disp : BitVec 13) (v : BitVec 10) (s : State) : Out :=
  .next (s.issueCore (.fstv g cvt sk disp (s.row10 v)) g [s.rowViol v, s.folioViol disp.toNat (cvtUnits cvt)] 0)

/-- FLDM at issue (R159). -/
def execFldm (g : Guard) (cvt : Cvt) (m : BitVec 5) (sk : BitVec 4) (disp : BitVec 13) (s : State) : Out :=
  .next (s.issueCore (.fldm g cvt (s.tile5 m) sk disp) g [s.tileViol m, s.folioViol disp.toNat (tileUnits cvt)] 0)

/-- FSTM at issue (R159). -/
def execFstm (g : Guard) (cvt : Cvt) (sk : BitVec 4) (disp : BitVec 13) (m : BitVec 5) (s : State) : Out :=
  .next (s.issueCore (.fstm g cvt sk disp (s.tile5 m)) g [s.tileViol m, s.folioViol disp.toNat (tileUnits cvt)] 0)

/-- The A operand of MMA renamed (R145). -/
def State.renameA (s : State) : MmaA → MmaA
  | .tile m => .tile (s.tile5 m)
  | a => a

/-- The check of the A operand of MMA (R143, R145). -/
def State.aViol (s : State) (fmt : MFmt) : MmaA → Viol
  | .tile m => s.tileViol m
  | .folio _ => s.folioViol 0 (mmaUnits fmt)
  | .lane => none

/-- MMA at issue (R145, R150): an array still occupied makes it an illegal word; else it occupies the array, unless a check stops it. -/
def execMma (g : Guard) (fmt : MFmt) (mode : MMode) (tb : Bool) (ovr : MOvr) (md : BitVec 5) (a : MmaA) (sb : BitVec 4)
    (bdisp : BitVec 10) (s : State) : Out :=
  .next (if s.t < s.sqr.mmaFree then s.illegal .arrayBusy
  else
    let s := s.issueMatrix (.mma g fmt mode tb ovr (s.tile5 md) (s.renameA a) sb bdisp) g
      [s.tileViol md, s.aViol fmt a, s.folioViol bdisp.toNat (mmaUnits fmt)]
    if s.sqr.bad then s else s.setSqr { s.sqr with mmaFree := s.t + mmaBeats fmt })

/-- MZERO at issue (R152). -/
def execMzero (g : Guard) (md : BitVec 5) (s : State) : Out :=
  .next (s.issueMatrix (.mzero g (s.tile5 md)) g [s.tileViol md])

/-- MTRN at issue (R153). -/
def execMtrn (g : Guard) (md ma : BitVec 5) (s : State) : Out :=
  .next (s.issueMatrix (.mtrn g (s.tile5 md) (s.tile5 ma)) g [s.tileViol md, s.tileViol ma])

end Sys2Proof.Machine
end

