-- ==== Sys2Proof/Machine/Xchg.lean ====
section
/-! DEFINITION. XCHG performs (spec/09): locators and the places they name, sends, requests, receives and cancels, and
completion in issue order. -/

namespace Sys2Proof.Machine

open Sys2Proof

/-! ## Places that locators name (R165, R188) -/

/-- The image of a kind-3 place: the tile's bytes; M8 adds the scale plane and pad bytes (R188). -/
def imageBytes (fmt : Nat) : Nat := if fmt = 4 then 1088 else tileBytes fmt

/-- The checks of a place of `len` bytes in an agent's context, in the order of R194. `al` is the alignment of a kind-2
place; `kinds` are the kinds the operand accepts. -/
def Agent.placeCheck (x : Agent) (ln : Launch) (seq : Nat) (l : Word) (len al : Nat) (kinds : List Nat) : Option Nat :=
  let d := x.tdAny seq (lTd l)
  let kd := lKind l
  if (kd = 2 ∨ kd = 3) ∧ kinds.contains kd ∧ d.isNone then some 1
  else if !kinds.contains kd then some 3
  else match kd with
    | 0 =>
      let off := bits l 17 0
      if off % 32 ≠ 0 then some 5
      else if 47 < lCol l ∨ 32 * ln.nunits < off + len then some 7 else none
    | 1 => if 47 < lCol l ∨ ln.nrows < bits l 53 44 + (len + 127) / 128 then some 7 else none
    | 2 =>
      let off := bits l 47 0
      if !dFlat (d.getD 0) then some 4
      else if off % al ≠ 0 then some 5
      else if dSize (d.getD 0) < off + len then some 6 else none
    | _ =>
      let c := l &&& 0x0000FFFFFFFFFFFF
      if dFlat (d.getD 0) then some 4
      else if !inTensor (d.getD 0) c ∨ imageBytes (dFmt (d.getD 0)) < len then some 6 else none

/-- Cut runs to the first n bytes. -/
def cutRuns : List (Nat × Nat) → Nat → List (Nat × Nat)
  | [], _ => []
  | r :: l, n => if n ≤ r.2 then (if n = 0 then [] else [(r.1, n)]) else r :: cutRuns l (n - r.2)

/-- Where the bytes of a tensor place lie, for a command of the agent's own XCHG or a message, with its number. -/
def State.placeLoc (s : State) (k : AgentKey) (own : Bool) (seq : Nat) (l : Word) (len : Nat) (wr : Bool) : Loc × State :=
  let u : By := .xchg (if own then some seq else none)
  match (s.agent k).tdAny seq (lTd l) with
  | none => (.fault 1, s)
  | some d =>
    if lKind l = 2 then s.flatLoc k u (lTd l).toNat d (bits l 47 0) len wr
    else match s.tileLoc k u (lTd l).toNat d (l &&& 0x0000FFFFFFFFFFFF) wr with
      | (.runs rs, s) => (.runs (cutRuns rs len), s)
      | r => r

/-- Whether a place that fails a check has a table entry whose format decides before it in the table of R194: a misaligned place inside its
flat tensor, or a tile of which more is asked than its image holds. -/
def Agent.entryFirst (x : Agent) (seq : Nat) (l : Word) (len e : Nat) : Bool :=
  if lKind l = 2 then e == 5 && (x.tdAny seq (lTd l)).any (fun d => decide (bits l 47 0 + len ≤ dSize d))
  else lKind l == 3 && e == 6 && (x.tdAny seq (lTd l)).any (fun d => inTensor d (l &&& 0x0000FFFFFFFFFFFF))

/-- Check a place and say where it lies; core storage has no runs (R194). The format of a tile-table entry decides before what stands
after it in the table of R194. -/
def State.place (s : State) (k : AgentKey) (own : Bool) (seq : Nat) (l : Word) (len al : Nat) (kinds : List Nat) (wr : Bool) : Loc × State :=
  match (s.agent k).placeCheck (s.strand k.sk).l seq l len al kinds with
  | some e =>
    if (s.agent k).entryFirst seq l len e then
      match s.placeLoc k own seq l len wr with
      | (.fault 4, s) => (.fault 4, s)
      | (.page 1 g, s) => (.page 1 g, s)
      | (_, s) => (.fault e, s)
    else (.fault e, s)
  | none => if lKind l < 2 then (.runs [], s) else s.placeLoc k own seq l len wr

/-- Pad bytes with clean zeros. -/
def padTo (n : Nat) (b : List PByte) : List PByte := (b ++ List.replicate n (0, false)).take n

/-- The places of core storage that a locator and a length name. -/
def locPlaces (l : Word) (len : Nat) : List Place :=
  if lKind l = 1 then (List.range ((len + 127) / 128)).map (fun r => .row (bits l 53 44 + r))
  else (List.range ((len + 31) / 32)).map (fun u => .unit (bits l 17 0 / 32 + u))

/-- Read a core-storage place of an agent for XCHG (R29). -/
def Agent.readCorePlace (x : Agent) (serial row seq key : Nat) (l : Word) (len : Nat) : List PByte :=
  if lKind l = 1 then
    ((List.range ((len + 127) / 128)).flatMap fun r =>
      placeBytes 128 (x.engineRead serial row (lCol l) true seq (key + r) (.row (bits l 53 44 + r)))).take len
  else
    ((List.range ((len + 31) / 32)).flatMap fun u =>
      placeBytes 32 (x.engineRead serial row (lCol l) true seq (key + u) (.unit (bits l 17 0 / 32 + u)))).take len

/-- Write bytes to a core-storage place (R29); part of a row keeps its other bytes, which are read (R216), and adds its poison (R219). -/
def State.writeCorePlace (s : State) (k : AgentKey) (w : Writer) (l : Word) (b : List PByte) : State :=
  let col := lCol l
  let size := if lKind l = 1 then 128 else 32
  let part := fun (i : Nat) => (b.drop (size * i)).take size
  let s := if b.length % size = 0 then s else s.readPlaces k col ((locPlaces l b.length).drop (b.length / size))
  let ps := (locPlaces l b.length).zipIdx.map (fun p =>
    let d := part p.2
    let old := ((s.agent k).core col).place (s.strand k.sk).serial k.row col p.1
    if d.length = size then (p.1, (⟨bvOfBytes 1024 d, anyPois d⟩ : PlaceV))
    else (p.1, ⟨bvOfBytes 1024 (d ++ (placeBytes size old).drop d.length), old.pois || anyPois d⟩))
  s.writePlaces k col w ps

/-! ## Records, halts and completion -/

/-- The record of an engine fault of an XCHG command (R193, R284, R285). -/
def State.xchgRec (s : State) (k : AgentKey) (c : XCmd) (kind cause aux col : Nat) : FaultRec :=
  let (o0, o1) := match c.ins with
    | .recv .. | .rcancel .. => (c.atag, c.adst)
    | _ => (c.ae, c.asrc)
  { s.recForAgent k with
    word := c.raw, seq := bv 64 c.seq, stc := bv 64 c.sc, op0 := o0, op1 := o1, rep := 3, kind := bv 4 kind
    cause := bv 8 cause, bank := c.bank, tidx := bv 14 c.tidx, aux := bv 32 aux, col := bv 6 col }

/-- The column that a record of a place shows: that of a core locator (R284). -/
def recCol (l : Word) : Nat := if lKind l < 2 then lCol l else 0

/-- Replace a command of XCHG, but for where its translations have led. -/
def State.setX (s : State) (k : AgentKey) (c : XCmd) : State :=
  let a := s.agent k
  s.setAgent k { a with xcmds := a.xcmds.map (fun x => if x.seq = c.seq then { c with frames := x.frames } else x) }

/-- A HALTING FAULT of XCHG (R193). -/
def State.xchgHalt (s : State) (k : AgentKey) (c : XCmd) (cause aux : Nat) (col : Nat := 0) : State :=
  let s := s.setX k { c with halted := true }
  let s := s.setAgent k { s.agent k with haltX := true }
  s.record k.sk (s.xchgRec k c 9 cause aux col)

/-- A non-halting fault of XCHG: a record only (R194, R275). -/
def State.xchgNote (s : State) (k : AgentKey) (c : XCmd) (cause : Nat) : State :=
  s.record k.sk (s.xchgRec k c 10 cause 0 0)

/-- The tok bit of an XCHG command. -/
def XCmd.tok (c : XCmd) : Bool :=
  match c.ins with
  | .send m | .xwr m | .xrd m | .xat m => m.tok
  | _ => false

/-- The wtk bit of an XCHG command. -/
def XCmd.wtk (c : XCmd) : Bool :=
  match c.ins with
  | .send m | .xwr m | .xrd m | .xat m => m.wtk
  | _ => false

/-- COMPLETE the commands at the head whose last effect has taken place, in issue order (R171, R172). -/
def Agent.completeX : Nat → Agent → Agent
  | 0, a => a
  | n + 1, a =>
    match a.xcmds with
    | [] => a
    | c :: l =>
      if !c.fin || (c.tok && decide (255 ≤ a.q.q10.length)) then a
      else completeX n { a with
        xcmds := l, xdone := if c.sent then a.xdone ++ [c] else a.xdone, tcx := c.seq, q := if c.tok then { a.q with q10 := a.q.q10 ++ [c.seq] } else a.q }

/-- Mark a command done and complete what can complete. -/
def State.finX (s : State) (k : AgentKey) (c : XCmd) : State :=
  let s := s.setX k { c with fin := true }
  s.setAgent k ((s.agent k).completeX (s.agent k).xcmds.length)

/-! ## Performing -/

/-- An endpoint register that no message can be sent to (R166, R188, R262, R263). -/
def State.badEndpoint (s : State) (ae : Word) (mc : Bool) : Bool :=
  let id := bits ae 19 0
  let g := bits ae 20 20 == 1
  !s.fab.written || bits ae 63 33 != 0 || mc != g ||
    (if g then decide (4095 < id) || !(KV.getD s.fab.groups id 0).getLsbD 63 else decide (s.nsys ≤ id))

/-- The agent an endpoint register names at its device (R166). -/
def epAgent (ae : Word) : AgentKey := ⟨bits ae 23 21, bits ae 32 29, bits ae 28 24⟩

/-- Members of the destination: 1, or the members of the group (R263). -/
def State.members (s : State) (ae : Word) : Nat :=
  if bits ae 20 20 = 1 then bits (KV.getD s.fab.groups (bits ae 19 0) 0) 51 32 else 1

/-- The message a command sends (R187, R188, R264, R273); the payload of an XRD request carries the code and the deadline
of the response, that of an XAT request its addend (log 30: DEDUCED). -/
def State.xMsg (s : State) (k : AgentKey) (c : XCmd) (m : Xmsg) (op : Nat) (bytes : List PByte) (resend : Bool) : Msg :=
  let whole := op < 2
  { op := op
    opnd := if op = 0 then (c.adst &&& 0xFFFFFFFF) else (if op = 2 then c.asrc else c.adst)
    mseq := bv 32 c.seq, src := k, grp := bits c.ae 20 20 == 1, dst := bits c.ae 19 0, dag := epAgent c.ae, bytes := bytes
    k := if whole then c.crt.k else 1, m := c.crt.m, ln := m.len64.toNat - 1, cls := m.cls.toNat
    rty := c.crt.rty && !m.mc && !resend, dtime := dtimeOf (s.fab.ftime + 1000 * c.crt.ddl)
    from_ := some ⟨(s.strand k.sk).serial, c.seq, c.seen, none⟩ }

/-- Send a command's message and start its report deadline (R189, R268, R277). -/
def State.xSend (s : State) (k : AgentKey) (c : XCmd) (m : Xmsg) (op : Nat) (bytes : List PByte) (need : Nat) : State :=
  let (s, n) := s.sendMsg (s.xMsg k c m op bytes c.resend) true (some (k, c.seq))
  let a := s.agent k
  let s := s.setAgent k { a with
    sentLog := a.sentLog ++ [⟨c.seq, s.fab.ftime, bits c.ae 20 20 == 1, bits c.ae 19 0, epAgent c.ae⟩] }
  s.setX k { c with started := true, sent := true, left := c.left + n, need := need, resent := c.resend || c.resent, resend := false
                    acc := none, deadline := s.fab.ftime + 2000 * c.crt.ddl }

/-- A wait of an XCHG command for a page (R233). -/
def State.xchgPage (s : State) (k : AgentKey) (c : XCmd) (l : Word) (kind gfn : Nat) (wr : Bool) : State :=
  let d := ((s.agent k).tdAny c.seq (lTd l)).getD 0
  s.postPage (.xchg k c.seq) k.part (pageRecord d gfn (l &&& 0x0000FFFFFFFFFFFF) c.seq kind k true wr (recCol l))

/-- The source is read as far as the engine gets now, and the message sent when all of it is read (R188, R189, R197). -/
def State.xRead (s : State) (k : AgentKey) (c : XCmd) (m : Xmsg) (op need : Nat) (a : Access) : State :=
  let (a, s) := s.readOn (some k) a
  if a.finished then s.xSend k c m op (padTo (64 * m.len64.toNat) a.got) need
  else s.setX k { c with started := true, acc := some a }

/-- Read the local source of a message and send it (R188, R189); a source on a frame of another device halts XCHG (R194,
log 71: DESIGN CHOICE). -/
def State.xFromSource (s : State) (k : AgentKey) (c : XCmd) (m : Xmsg) (op need : Nat) : State :=
  let len := 64 * m.len64.toNat
  let late := if 512 * c.crt.k < len then some 0x10 else if s.badEndpoint c.ae m.mc then some 0x11 else none
  match c.acc with
  | some a => s.xRead k c m op need a
  | none =>
    match s.place k true c.seq c.asrc len 32 [0, 1, 2, 3] false with
    | (.fault e, s) => s.xchgHalt k c e 0 (recCol c.asrc)
    | (.page kd g, s) => s.xchgPage k c c.asrc kd g false
    | (.remote .., s) => s.xchgHalt k c 9 0
    | (.runs l, s) =>
      match late with
      | some e => s.xchgHalt k c e 0
      | none =>
        if 2 ≤ lKind c.asrc then s.xRead k c m op need ⟨l, [], 0⟩
        else
          let s := s.readPlaces k (lCol c.asrc) (locPlaces c.asrc len)
          let b := (s.agent k).readCorePlace (s.strand k.sk).serial k.row c.seq s.fresh c.asrc len
          (s.draw.2).xSend k c m op b need

/-- Zero bytes, all poisoned (R275). -/
def lostBytes (n : Nat) : List PByte := List.replicate n (0, true)

/-- Requested bytes of an X1 command. -/
def xLen (i : Instr) : Nat :=
  match i with
  | .send m | .xwr m | .xrd m | .xat m => 64 * m.len64.toNat
  | _ => 0

/-- Land bytes at the command's own place: core storage under R29, device memory by the agent's own write steps, one for each word
(R197, R206); true when all have landed. -/
def State.landOn (s : State) (k : AgentKey) (c : XCmd) (b : List PByte) : Bool × State :=
  let go := fun (s : State) (a : Access) =>
    let (a, s) := s.writeOn k c.seen a
    if a.finished then (true, s.setX k { c with acc := none }) else (false, s.setX k { c with acc := some a })
  match c.acc with
  | some a => go s a
  | none =>
    match s.place k true c.seq c.adst b.length 32 [0, 1, 2, 3] true with
    | (.fault e, s) => (false, s.xchgHalt k c e 0 (recCol c.adst))
    | (.page kd g, s) => (false, s.xchgPage k c c.adst kd g true)
    | (.remote .., s) => (false, s.xchgHalt k c 9 0)
    | (.runs l, s) =>
      if lKind c.adst < 2 then (true, s.writeCorePlace k (.own true c.seq) c.adst b) else go s ⟨l, b, 0⟩

/-- Land the reply of an XRD at the requester, and complete it when it has landed (R189, R206). -/
def State.landReply (s : State) (k : AgentKey) (c : XCmd) (b : List PByte) : State :=
  match s.landOn k c b with
  | (true, s) => s.finX k { c with acc := none }
  | (false, s) => s

/-- Cancel the earliest posted RECV with this destination and tag whose delivery has not begun (R191). -/
def Agent.cancelRecv (a : Agent) (d : RDst) (tag : Word) (before : Nat) : Agent :=
  let same := fun (c : XCmd) => match c.ins with
    | .recv d' _ => decide (c.seq < before) && !c.fin && c.atag.setWidth 32 == tag.setWidth 32 &&
        (match d, d' with
          | .q12, .q12 => true
          | .q13, .q13 => true
          | .loc _, .loc _ => true
          | _, _ => false)
    | _ => false
  match a.xcmds.find? same with
  | some c => if c.delivering then a
    else { a with xcmds := a.xcmds.map (fun x => if x.seq = c.seq then { x with cancelled := true, fin := true } else x) }
  | none => a

/-- An XRD performs (R188, R189, R194): its own place is checked and translated before its length and its endpoint. -/
def State.xchgXrd (s : State) (k : AgentKey) (c : XCmd) (m : Xmsg) : State :=
  match s.place k true c.seq c.adst (64 * m.len64.toNat) 32 [0, 1, 2, 3] true with
  | (.fault e, s) => s.xchgHalt k c e 0 (recCol c.adst)
  | (.page kd g, s) => s.xchgPage k c c.adst kd g true
  | (.remote .., s) => s.xchgHalt k c 9 0
  | (.runs _, s) =>
    if 512 * c.crt.k < 64 * m.len64.toNat then s.xchgHalt k c 0x10 0
    else if s.badEndpoint c.ae m.mc then s.xchgHalt k c 0x11 0
    else s.xSend k c m 2 (reqBytes [c.crt.k, c.crt.ddl]) 1

/-- One step of an XCHG command (R171, R187–R191): what was asked for again is sent again (R274); a place whose reply is lost is
written as poisoned (R275, R277). -/
def State.xchgPerform (s : State) (k : AgentKey) (c : XCmd) : State :=
  let idle := c.sent && !c.resend
  match c.ins with
  | .send m => if idle then s else s.xFromSource k c m 0 (if c.crt.rty && !m.mc then 1 else 0)
  | .xwr m => if idle then s else s.xFromSource k c m 1 (s.members c.ae)
  | .xrd m =>
    if c.lostRep then s.landReply k c (lostBytes (xLen c.ins))
    else if idle then s
    else s.xchgXrd k c m
  | .xat m =>
    if idle then s
    else if s.badEndpoint c.ae m.mc then s.xchgHalt k c 0x11 0
    else s.xSend k c m 4 (reqBytes [c.asrc.toNat]) 1
  | .recv .. => s.setX k { c with started := true }
  | .rcancel d _ =>
    let s := s.setAgent k ((s.agent k).cancelRecv d c.atag c.seq)
    s.finX k { c with started := true }
  | _ => s

/-- Whether an earlier command still waits to start with its token (R171). -/
def Agent.heldBack (a : Agent) (seq : Nat) : Bool := a.xcmds.any (fun c => decide (c.seq < seq) && c.wtk && !c.took)

/-- XCHG takes a step of a command: its token, its send or post, or the completions that wait for q10 room. -/
def State.xchgStep (s : State) (k : AgentKey) (seq : Nat) : State :=
  let a := s.agent k
  match a.xcmds.find? (fun c => c.seq = seq) with
  | none => s
  | some c =>
    if a.haltX || c.held || !(s.strand k.sk).enginesRun || c.page != .none || a.heldBack seq then s
    else if c.fin then s.setAgent k (a.completeX a.xcmds.length)
    else if c.wtk && !c.took then
      if a.q.q11 = 0 then s
      else
        let c := { c with took := true }
        let s := s.setAgent k { a with q := { a.q with q11 := a.q.q11 - 1 } }
        (s.setX k c).xchgPerform k c
    else s.xchgPerform k c

/-- XCHG_COMMAND_PERFORM (R171, R189). -/
def execXchgCommandPerform (a : AgentKey) (seq : Nat) (s : State) : Out := .next (s.xchgStep a seq)

end Sys2Proof.Machine
end

