-- ==== Sys2Proof/Machine/Fabric.lean ====
section
/-! DEFINITION. The fabric's steps (spec/16): fragments leave, arrive, are forwarded and held; slots decode, messages are
delivered, lost, resent and reported; fabric time and ports. -/

namespace Sys2Proof.Machine

open Sys2Proof

/-! ## Leaving the device (R261, R263, R268, R269, R324) -/

/-- Bytes a port moves in one µs (R260). -/
def portBytes (g : BitVec 2) : Nat := if g = 1 then 56000 else if g = 2 then 112000 else 0

/-- The generations of a plane's four ports. -/
def State.planePorts (s : State) (n : Nat) : List (BitVec 2) :=
  (List.range 4).map (fun i => s.fab.ports[(bv 5 (4 * n + i)).toFin])

/-- A plane whose four ports are all down is down (R261). -/
def State.planeDown (s : State) (n : Nat) : Bool := (s.planePorts n).all (fun g => portBytes g == 0)

/-- Bandwidth of a plane in bytes per µs (R260). -/
def State.planeBytes (s : State) (n : Nat) : Nat := ((s.planePorts n).map portBytes).foldl (· + ·) 0

/-- The quota of a class: fq[part][plane] field c (R269). -/
def State.quota (s : State) (p n c : Nat) : Nat := bits ((s.part p).fq[(bv 3 n).toFin]) (8 * c + 7) (8 * c)

/-- Whether one more fragment fits the quota of the present window (R269). -/
def State.underQuota (s : State) (p n c : Nat) : Bool :=
  decide ((KV.getD (s.part p).sentBytes (n, c) 0 + 544) * 4096 ≤ s.quota p n c * (s.part p).lay.pshare.toNat * s.planeBytes n)

/-- A fragment has left: the command it belongs to counts it, and a SEND that needs no report completes with the last
(R189). -/
def State.fragLeft (s : State) (o : Option (AgentKey × Nat)) : State :=
  match o with
  | none => s
  | some (k, seq) =>
    match (s.agent k).xcmds.find? (fun c => c.seq = seq) with
    | none => s
    | some c =>
      let c := { c with left := c.left - 1 }
      let s := s.setX k c
      match c.ins with
      | .send _ => if c.left = 0 ∧ c.need = 0 then s.finX k c else s
      | _ => s

/-! ## Arriving: checks, slots, decoding (R265, R270–R272, R280, R282) -/

/-- A diagnostic register applies to a fragment (R280). -/
def diagMatch (r : Word) (f : Frag) : Bool :=
  r.getLsbD 63 && (r.getLsbD 62 || bits r 61 42 == f.src.toNat) && r.getLsbD f.fidx.toNat && decide (f.fidx.toNat < 24)

/-- An agent is admitted for the fabric while its strand is neither absent nor halted (R265). -/
def State.admitted (s : State) (k : AgentKey) : Bool :=
  let st := (s.strand k.sk).st
  (s.part k.part).lay.v && (s.rows k.part).contains k.row && st != .absent && st != .halted

/-- A fragment with a field that no fragment may have (R265). -/
def malformed (f : Frag) : Bool :=
  decide (7 ≤ f.op.toNat) || f.k == 0 || decide (16 < f.k.toNat) || decide (8 < f.m.toNat) ||
    decide (f.k.toNat + f.m.toNat ≤ f.fidx.toNat) || f.rsv

/-- The data of a decoded message: its bytes and the poison of each 64 of them (R267, R271). -/
def decodeFrags (h : Frag) (fs : List Frag) : List Byte × List Bool :=
  let k := h.k.toNat
  let have_ := fun i => fs.find? (fun f => f.fidx.toNat = i)
  let missing := (List.range k).filter (fun i => (have_ i).isNone)
  let allPo := fs.foldl (fun (v : BitVec 8) f => v ||| f.pois) 0
  let solved := if missing.isEmpty then []
    else gfSolve k k 0 (fs.map (fun f =>
      ((List.range k).map (fun i => if f.fidx.toNat < k then (if i = f.fidx.toNat then (1 : Byte) else 0)
        else codeCoef (f.fidx.toNat - k) i), payloadBytes f)))
  let pay := fun i => match have_ i with
    | some f => (payloadBytes f, f.pois)
    | none => ((solved.find? (fun (r : List Byte × List Byte) => decide (r.1.getD i 0 = 1))).elim zeroPayload (·.2), allPo)
  let ps := (List.range k).map pay
  ((ps.flatMap (·.1)).take (64 * (h.ln.toNat + 1)),
    ((ps.flatMap (fun p => (List.range 8).map (fun u => p.2.getLsbD u))).take (h.ln.toNat + 1)))

/-- The counter that a decoded message counts in: direct, XOR, or full decode (R271). -/
def decodePath (h : Frag) (fs : List Frag) : Counters → Counters :=
  let k := h.k.toNat
  let missing := ((List.range k).filter (fun i => (fs.find? (fun f => f.fidx.toNat = i)).isNone)).length
  let p0 := fs.any (fun f => f.fidx.toNat = k)
  fun c => if missing = 0 then { c with fdir := c.fdir + 1 }
    else if missing = 1 ∧ p0 then { c with fxor := c.fxor + 1 }
    else { c with fdec := c.fdec + 1 }

/-- Replace a slot. -/
def State.setSlot (s : State) (x : Slot) : State :=
  { s with fab := { s.fab with slots := s.fab.slots.map (fun y => if y.key = x.key then x else y) } }

/-- Release a slot and its buffers. -/
def State.dropSlot (s : State) (key : MKey) : State :=
  { s with fab := { s.fab with slots := s.fab.slots.filter (fun y => y.key ≠ key) } }

/-- The slot of a key. -/
def State.slot? (s : State) (key : MKey) : Option Slot := s.fab.slots.find? (fun y => y.key = key)

/-- The tag of a message, from its operand word (R272). -/
def fragTag (f : Frag) : BitVec 32 := f.opnd.setWidth 32

/-- A key and its tag stand in the accession table (R272). -/
def State.enterKey (s : State) (key : MKey) (p : Nat) (tag : BitVec 32) (d : BitVec 16) (norcv later : Bool) : State :=
  { s with fab := { s.fab with acc := s.fab.acc ++ [⟨key, p, d, norcv, later, tag⟩] } }

/-- Enter a key and its tag into the accession table if an entry is free (R272). -/
def State.accession (s : State) (key : MKey) (p : Nat) (tag : BitVec 32) (d : BitVec 16) (later : Bool) : State × Bool :=
  if s.fab.acc.length < 16384 then (s.enterKey key p tag d false later, true) else (s, false)

/-- A decoded or lost message enters the table with its dtime; one whose resend was asked for and has not come holds its
entry until the resend could still come, or takes the dtime of the first resent fragment (R272, R274). (log 51: DEDUCED) -/
def State.accessionOf (s : State) (x : Slot) : State × Bool :=
  match x.resendBy with
  | some t => if x.gotResent then s.accession x.key x.part (fragTag x.hdr) x.dtime false
    else s.accession x.key x.part (fragTag x.hdr) (dtimeOf t) true
  | none => s.accession x.key x.part (fragTag x.hdr) x.dtime false

/-- A slot that holds k fragments decodes at once and is accessioned (R271, R272). -/
def State.decodeSlot (s : State) (x : Slot) : State :=
  if x.frags.length < x.hdr.k.toNat then s.setSlot x
  else
    let (m, p) := decodeFrags x.hdr x.frags
    let s := s.count x.part (decodePath x.hdr x.frags)
    let (s, ok) := s.accessionOf x
    s.setSlot { x with st := .decoded, msg := m, pois := p, entered := ok }

/-- Decode slots of a partition's share (R270). -/
def State.slotShare (s : State) (p : Nat) : Nat := 2048 * (s.part p).lay.pshare.toNat / 16

/-- Fragment buffers of a partition's share (R270). -/
def State.bufShare (s : State) (p : Nat) : Nat := 24576 * (s.part p).lay.pshare.toNat / 16

/-- Whether a slot and a buffer, or a buffer, are free in a share. -/
def State.shareFree (s : State) (p : Nat) (slot : Bool) : Bool :=
  let mine := s.fab.slots.filter (fun x => x.part = p)
  (!slot || decide (mine.length < s.slotShare p)) &&
    decide ((mine.map (fun x => x.frags.length)).foldl (· + ·) 0 < s.bufShare p)

/-- Whether a message carries an AGEN item: it is for a partition, not for an agent (R236). Of the messages with an operand of kind 15 that
other devices send, a free choice tells the items from the locators that no destination accepts (log 29: DESIGN CHOICE). -/
def isItem (o : Option Origin) (f : Frag) : Bool :=
  (f.op == 1 || f.op == 2) && (match o with
    | some o => o.item.isSome
    | none => lKind f.opnd == 15 && flip [29, f.src.toNat, f.mseq.toNat, f.opnd.toNat])

/-- Whether the message of a slot carries an AGEN item. -/
def Slot.isItem (x : Slot) : Bool := Machine.isItem x.from_ x.hdr

/-- Where in its tensor an item lies, and its length in bytes: as its sender of this device has it. Of another device's item the operand tells
the place; the message counts units of 64 bytes, of which the last may hold less: a free number of words less for a store, which stores
words (R197), and of 4-byte elements less for a load (R180) (log 29: DESIGN CHOICE). -/
def Slot.itemPlace (x : Slot) : Word × Nat :=
  match x.from_.bind (·.item) with
  | some i => i
  | none =>
    let f := x.hdr
    let n := Config.pick [77, f.src.toNat, f.mseq.toNat, f.opnd.toNat]
    (Config.itemPlace f.opnd, 64 * (f.ln.toNat + 1) - if f.op = 1 then 8 * (n % 8) else 4 * (n % 16))

/-- THE DECODE UNIT HANDLES A FRAGMENT (R265, R270, R271, R282). The key of a message without a receiver is entered even where the table
is full, and slots that complete wait until there is room again (log 51: DEDUCED). (log 42: DEDUCED) -/
def State.handleFrag (s : State) (f : Frag) (o : Option Origin := none) : State :=
  let p := f.dpart.toNat
  let key := fragKey f
  if f.crc ≠ fragCrc f then s.count p (fun c => { c with fcrc := c.fcrc + 1 })
  else if malformed f then s.count p (fun c => { c with fmal := c.fmal + 1 })
  else
    match s.fab.acc.find? (fun a => a.key = key) with
    | some a =>
      let s := if a.later && !f.rty then
          { s with fab := { s.fab with acc := s.fab.acc.map (fun b => if b = a then { a with dtime := f.dtime, later := false } else b) } }
        else s
      if a.norcv then s.count p (fun c => { c with fnorcv := c.fnorcv + 1 })
      else s.count p (fun c => { c with flate := c.flate + 1 })
    | none =>
      if !s.admitted (fragDst f) && !isItem o f then
        let s := s.count p (fun c => { c with fnorcv := c.fnorcv + 1 })
        if f.op = 1 ∨ f.op = 2 ∨ f.op = 4 ∨ (f.op = 0 ∧ f.rty) then (s.enterKey key p (fragTag f) f.dtime true false).report f 4 0
        else s
      else
        match s.slot? key with
        | some x =>
          -- the first resent fragment that arrives gives the slot its deadline, stored or not (R274)
          let fresh := x.resendBy.isSome && !x.gotResent && !f.rty
          let x := { x with dtime := if fresh then f.dtime else x.dtime, gotResent := x.gotResent || fresh }
          let s := if fresh then s.setSlot x else s
          if x.st ≠ .collecting ∨ x.hdr.k.toNat ≤ x.frags.length ∨ x.frags.any (fun g => g.fidx = f.fidx) then
            s.count p (fun c => { c with flate := c.flate + 1 })
          else if !s.shareFree p false then s.count p (fun c => { c with fnoslot := c.fnoslot + 1 })
          else
            (s.count p (fun c => { c with frx := c.frx + 1 })).decodeSlot { x with frags := x.frags ++ [f] }
        | none =>
          if s.passedBefore p f.dtime then s.count p (fun c => { c with fexp := c.fexp + 1 })
          else if !s.shareFree p true then s.count p (fun c => { c with fnoslot := c.fnoslot + 1 })
          else
            let x : Slot := ⟨key, p, o, .collecting, f, [f], f.dtime, f.rty, none, false, false, false, [], [], 0, none, none, .none⟩
            let s := s.count p (fun c => { c with frx := c.frx + 1 })
            ({ s with fab := { s.fab with slots := s.fab.slots ++ [x] } }).decodeSlot x

/-- A fragment arrives on a plane: the diagnostic registers first (R280). -/
def State.arrive (s : State) (n : Nat) (f : Frag) : State :=
  let i := (bv 3 n).toFin
  if diagMatch s.fab.fdrop[i] f then s.count f.dpart.toNat (fun c => { c with fdiag := c.fdiag + 1 })
  else if diagMatch s.fab.fdelay[i] f then
    { s with fab := { s.fab with delayed := s.fab.delayed ++ [⟨n, s.fab.ftime + 1000 * bits s.fab.fdelay[i] 33 24, f⟩] } }
  else s.handleFrag f

/-- The copies of a fragment that go out: one, or one for each port of its plane in the group's mask (R261, R263). -/
def State.copies (s : State) (f : Frag) : List (Nat × Frag) :=
  let n := f.plane.toNat
  if f.grp then
    let e := KV.getD s.fab.groups f.dst.toNat 0
    ((List.range 4).filter (fun i => e.getLsbD (4 * n + i))).map (fun _ => (n, f))
  else [(n, f)]

/-- A fragment with one more hop: its check word changes with the header, and one that did not match still does not (R261, R264). -/
def hopFrag (f : Frag) : Frag :=
  let g := { f with hops := f.hops + 1 }
  { g with crc := fragCrc g ^^^ (f.crc ^^^ fragCrc f) }

/-- Send copies of a fragment on, with one more hop; at 63 the fragment is dropped (R261). -/
def State.onward (s : State) (f : Frag) (out : Frag → List (Nat × Frag)) : State :=
  if 62 ≤ f.hops.toNat then s.count f.dpart.toNat (fun c => { c with fhop := c.fhop + 1 })
  else { s with fab := { s.fab with wire := s.fab.wire ++ out (hopFrag f) } }

/-- A group's fragment reaches this device: copied out of the ports of its plane that the group's entry names, and delivered here as
it came where the entry has loc set (R263). -/
def State.groupFrag (s : State) (plane : Nat) (f : Frag) : State :=
  let s := if (s.copies f).isEmpty then s else s.onward f s.copies
  if (KV.getD s.fab.groups f.dst.toNat 0).getLsbD 62 then s.arrive plane f else s

/-- A fragment within the device reaches the decode unit: no plane, diagnostic register or hop is its own (R324). -/
def State.insideFrag (s : State) (f : Frag) : State :=
  match s.fab.inside.find? (fun o => o.f = f) with
  | some o => ({ s with fab := { s.fab with inside := s.fab.inside.erase o } } : State).handleFrag f o.from_
  | none => s

/-- FRAGMENT_RECEIVE (R263, R265, R270, R280): planes are 0–7, and the model's number 8 stands for a fragment within the device (R324,
log 61: DESIGN CHOICE). -/
def execFragmentReceive (plane : Nat) (f : Frag) (s : State) : Out :=
  .next (if 8 ≤ plane then s.insideFrag f
    else if f.grp then s.groupFrag plane f else s.arrive plane f)

/-- Whether a waiting fragment may leave now on a plane: within the device at once; on a plane that is down it is dropped at once;
else what is charged must fit the quota (R261, R269, R324). -/
def State.mayLeave (s : State) (part plane cls : Nat) (o : OutFrag) : Bool :=
  o.part == part && o.f.cls.toNat == cls && (o.within ||
    (o.f.plane.toNat == plane && (s.planeDown plane || !o.charged || s.underQuota part plane cls)))

/-- FRAGMENT_SEND (R261, R263, R268, R269, R324): the oldest fragment of the partition and class that may leave now on this plane, or
that stays within the device: such a one reaches the decode unit in this mesh cycle, among the fragments that do so (R271).
(log 61: DESIGN CHOICE) -/
def execFragmentSend (part plane cls : Nat) (s : State) : Out :=
  .next (match s.fab.outq.find? (s.mayLeave part plane cls) with
  | none => s
  | some o =>
    let s := { s with fab := { s.fab with outq := s.fab.outq.erase o } }
    if o.within then
      let s := { s with fab := { s.fab with inside := s.fab.inside ++ [o] }, pending := s.pending ++ [(s.now, Instr.fragmentReceive 8 o.f)] }
      (s.count part (fun c => { c with ftx := c.ftx + 1 })).fragLeft o.owner
    else if s.planeDown plane then
      (s.count part (fun c => { c with ftxDrop := c.ftxDrop + 1 })).fragLeft o.owner
    else
      let x := s.part part
      let s := if o.charged then
          s.setPart part { x with sentBytes := KV.put x.sentBytes (plane, cls) (KV.getD x.sentBytes (plane, cls) 0 + 544) }
        else s
      let s := { s with fab := { s.fab with wire := s.fab.wire ++ s.copies o.f } }
      (s.count part (fun c => { c with ftx := c.ftx + 1 })).fragLeft o.owner)

/-- FABRIC_QUOTA_WINDOW (R269): a new window of 1 µs begins. -/
def execFabricQuotaWindow (s : State) : Out :=
  .next { s with parts := s.parts.map (fun e => (e.1, { e.2 with sentBytes := [] })) }

/-- FRAGMENT_FORWARD (R261, R263): one more hop; at 63 the fragment is dropped. A group's fragment is copied by the group's entry, and
delivered here when the entry has loc set. -/
def execFragmentForward (port : Nat) (f : Frag) (s : State) : Out :=
  .next (if f.grp then s.groupFrag f.plane.toNat f else s.onward f (fun g => [(port / 4, g)]))

/-- The held fragments of a plane whose hold time is over (R280). -/
def State.overdue (s : State) (plane : Nat) : List Delayed :=
  s.fab.delayed.filter (fun d => d.plane == plane && decide (d.until_ ≤ s.fab.ftime))

/-- The one with the lowest index among fragments, the first of equal ones (R271). -/
def lowest : List Delayed → Option Delayed
  | [] => none
  | d :: l => match lowest l with
    | some e => if e.f.fidx.toNat < d.f.fidx.toNat then some e else some d
    | none => some d

/-- FDELAY_RELEASE (R271, R280): a fragment of a plane whose hold time is over is handled as if it arrived now. -/
def execFdelayRelease (plane : Nat) (s : State) : Out :=
  .next (match lowest (s.overdue plane) with
  | some d => ({ s with fab := { s.fab with delayed := s.fab.delayed.erase d } }).handleFrag d.f
  | none => s)

/-- ACCESSION_ENTRY_EXPIRY (R272): an entry whose dtime has passed is free, after the mesh cycle in which that first holds (R270). -/
def execAccessionEntryExpiry (key : MKey) (s : State) : Out :=
  .next { s with fab := { s.fab with acc := s.fab.acc.filter (fun a => !(a.key == key && s.passedBefore a.part a.dtime)) } }

/-- TIME_SYNC_BEAT (R279): the offset is reported, and the counter is slewed by at most 100 ppm, which is 1 ns in the 10 µs from one
beat to the next: one nanosecond more at once, or one held back from the nanoseconds to come, so that it never steps backward
(log 10: DESIGN CHOICE). -/
def execTimeSyncBeat (offset : BitVec 32) (s : State) : Out :=
  let s := { s with fab := { s.fab with ftoff := offset } }
  .next (if s.now < s.fab.slewAt then s
    else
      let (k, s) := s.draw
      let f := { s.fab with slewAt := s.now + 19380000 }
      { s with fab :=
        if 0 < Config.slew k then { f with ftime := f.ftime + 1 }
        else if Config.slew k < 0 then { f with lag := 1 } else f })

/-- PORT_STATE_CHANGE (R260): the code 11 is reserved. (log 43: DEDUCED) -/
def execPortStateChange (port : Nat) (gen : BitVec 2) (s : State) : Out :=
  .next (if gen = 3 ∨ 32 ≤ port then s
    else { s with fab := { s.fab with ports := s.fab.ports.set (bv 5 port).toFin gen } })

/-! ## Delivery (R190, R206, R275, R278) -/

/-- The decode unit's record about a message to an agent (R194, R275, R285); of a launch that has ended nobody is left to be told (R325). -/
def State.unitRec (s : State) (k : AgentKey) (seq cause : Nat) : State :=
  if (s.strand k.sk).st = .absent then s
  else s.record k.sk { s.recForAgent k with seq := bv 64 seq, rep := 4, kind := 10, cause := bv 8 cause }

/-- The bytes of a message with their poison (R264). -/
def slotBytes (x : Slot) : List PByte := (x.msg.zipIdx).map (fun b => (b.1, x.pois.getD (b.2 / 64) false))

/-- The beats of a message, each with valid set and zero scales (R190). -/
def messageBeats (b : List PByte) (lost : Bool) : List Beat :=
  (List.range ((b.length + 255) / 256)).map fun i =>
    let d := (b.drop (256 * i)).take 256
    ⟨bvOfBytes 2048 d, 0, if lost then BitVec.allOnes 8 else slotPois d, true⟩

/-- What an access at a place ends in: bytes it delivers, more steps to come, a fault, or a wait for a page. -/
inductive Put where
  | done (b : List PByte) (s : State)
  | more (a : Access) (s : State)
  | fault (c : Nat) (s : State)
  | page (kind gfn : Nat) (s : State)

/-- The number of the command that sent a message, and the last XCHG command that its program had observed then (R206). Of a sender on
another device nothing tells what it had observed: some number below the message's own, by a free choice (log 38: DEDUCED). -/
def State.sender (s : State) (x : Slot) : Nat × Nat :=
  let n := x.hdr.mseq.toNat
  match x.from_ with
  | some o => (o.seq, o.seen)
  | none => (n, Config.pick [28, s.fresh, n] % max 1 n)

/-- The sender of a message, in its launch (R206). -/
def Slot.sender (x : Slot) : Sender := ⟨x.hdr.src.toNat, fragSrc x.hdr, x.from_.elim 0 (·.serial)⟩

/-- Who writes an agent's core storage by a message: its own XWR is one of its own engine's commands (R29, R188, R206). (log 38: DEDUCED) -/
def State.writerOf (s : State) (k : AgentKey) (x : Slot) : Writer :=
  let n := (s.sender x).1
  if x.from_.isSome ∧ x.sender = s.selfOf k then .own true n else .other x.sender n

/-- Words of a message are written as one step of G, and noted as its sender's for the order that their observation tells (R206, R278). -/
def State.applyWords (s : State) (x : Slot) (ws : List WWrite) : State :=
  ws.foldl (fun s w => s.noteFlag w.1 x.sender (s.sender x).2 []) (s.gWrite ws)

/-- APPLY A MESSAGE at a locator in an agent's context: core storage under R29, device memory as one step of G (R206, R278). -/
def State.applyAt (s : State) (k : AgentKey) (x : Slot) (b : List PByte) : Put :=
  let l := x.hdr.opnd
  match s.place k false x.hdr.mseq.toNat l b.length 32 [0, 1, 2, 3] true with
  | (.fault e, s) => .fault e s
  | (.page kd g, s) => .page kd g s
  | (.remote .., s) => .fault 9 s
  | (.runs rs, s) =>
    if lKind l < 2 then .done [] (s.writeCorePlace k (s.writerOf k x) l b) else .done [] (s.applyWords x (runWords rs b))

/-- Read on at runs of G for another device, a step for each word (R197, R206). -/
def State.serve (s : State) (a : Access) : Put :=
  let (a, s) := s.readOn none a
  if a.finished then .done a.got s else .more a s

/-- Read bytes at a locator for another device (R206): core storage as it stands, device memory from G. -/
def State.getPlace (s : State) (k : AgentKey) (x : Slot) (len : Nat) : Put :=
  let l := x.hdr.opnd
  match x.acc with
  | some a => s.serve a
  | none =>
    match s.place k false x.hdr.mseq.toNat l len 32 [0, 1, 2, 3] false with
    | (.fault e, s) => .fault e s
    | (.page kd g, s) => .page kd g s
    | (.remote .., s) => .fault 9 s
    | (.runs rs, s) =>
      if lKind l < 2 then
        let s := s.readPlaces k (lCol l) (locPlaces l len)
        let a := s.agent k
        .done (a.readCorePlace (s.strand k.sk).serial k.row (a.seqX + 1) s.fresh l len) s
      else s.serve ⟨rs, [], 0⟩

/-! ## Items of other devices' AGEN at home (R206, R236) -/

/-- The bits that an entry of a context's catalogue holds (R225); none where td0 does not translate. -/
def State.catalogue (s : State) (p : Nat) (l : Launch) (i : Nat) : Option Desc :=
  (s.td0Addr p l.td0 (l.catb + 64 * i)).1.map (fun a =>
    (List.range 8).foldl (fun (d : Desc) j => d ||| ((s.mem.word (a + 8 * j)).setWidth 512 <<< (64 * j))) 0)

/-- An entry of a context's catalogue is read from G, a word at a time (R197, R224, R225); none where td0 does not translate. -/
def State.readCatalogue (s : State) (p : Nat) (l : Launch) (i : Nat) : Option Desc × State :=
  match s.td0Addr p l.td0 (l.catb + 64 * i) with
  | (none, s) => (none, s)
  | (some a, s) =>
    let (d, s) := (List.range 8).foldl (fun (x : Desc × State) j =>
      let (v, s) := x.2.gRead (a + 8 * j)
      (x.1 ||| (v.1.setWidth 512 <<< (64 * j)), s)) (0, s)
    (some d, s)

/-- The home's catalogue entry of a tensor: that of a context of the partition whose catalogue has one; which, where several have, is
a free choice (log 29: DESIGN CHOICE). What its line delivers is what counts, and poison is not (R224, log 93: DESIGN CHOICE). -/
def State.homeDesc (s : State) (p tid : Nat) : Option Desc × State :=
  let is := fun (d : Desc) => decide (dTid d = tid) && dOk d
  let found := (s.strands.filter (fun e => e.1.part = p ∧ e.2.st ≠ .absent)).filterMap (fun e =>
    ((List.range e.2.l.catn).find? (fun i => (s.catalogue p e.2.l i).any is)).map (fun i => (e.2.l, i)))
  match choose [13, s.fresh, tid] none (found.map some) with
  | none => (none, s.draw.2)
  | some (l, i) => let (d, s) := s.draw.2.readCatalogue p l i; (d.filter is, s)

/-- Where an item lies at its home, through the home's own entry of its tensor (R236): the words of its tile, or the bytes of a flat
tensor from its offset on. A tensor of which the home has no entry is refused as a locator of a reserved kind (log 29: DESIGN CHOICE). -/
def State.homeLoc (s : State) (x : Slot) (wr : Bool) : Loc × Desc × State :=
  let p := x.hdr.dpart.toNat
  let k : AgentKey := ⟨p, 0, 0⟩
  match s.homeDesc p (x.hdr.opnd.toNat % 2 ^ 32) with
  | (none, s) => (.fault 3, 0, s)
  | (some d, s) =>
    let (at_, len) := x.itemPlace
    let (l, s) := if dFlat d then s.flatLoc k .unit 0 d at_.toNat len wr else s.tileLoc k .unit 0 d at_ wr
    (l, d, s)

/-- An item's bytes are written as one apply step at its home. -/
def State.homeWrite (s : State) (x : Slot) (b : List PByte) : Put × Desc :=
  match s.homeLoc x true with
  | (.fault e, d, s) => (.fault e s, d)
  | (.page kd g, d, s) => (.page kd g s, d)
  | (.remote .., d, s) => (.fault 9 s, d)
  | (.runs rs, d, s) => (.done [] (s.applyWords x (runWords rs b)), d)

/-- An item's bytes are read at its home. -/
def State.homeRead (s : State) (x : Slot) (len : Nat) : Put × Desc :=
  match x.acc with
  | some a => (s.serve a, 0)
  | none =>
    match s.homeLoc x false with
    | (.fault e, d, s) => (.fault e s, d)
    | (.page kd g, d, s) => (.page kd g s, d)
    | (.remote .., d, s) => (.fault 9 s, d)
    | (.runs rs, d, s) => (s.serve ⟨cutRuns rs len, [], 0⟩, d)

/-- A message whose destination place waits for a page: the record, and the report "held" (R276). -/
def State.slotPage (s : State) (x : Slot) (k : AgentKey) (d : Desc) (ref : Word) (kind gfn col : Nat) (wr : Bool) : State :=
  (s.postPage (.slot x.key) k.part (pageRecord d gfn ref 0 kind k true wr col)).report x.hdr 2 0

/-- The slot of a message that has been dealt with is free, and a lost message is reported (R275, R276). -/
def State.endSlot (s : State) (x : Slot) : State :=
  let s := s.dropSlot x.key
  if x.lost && decide (x.hdr.op.toNat < 5) then s.report x.hdr 1 0 else s

/-- A message whose place stops it with a cause: reported as a remote fault, but a lost one as lost (R275, R276, log 91: DESIGN CHOICE). -/
def State.refuseSlot (s : State) (x : Slot) (cause : Nat) : State :=
  let s := s.endSlot x
  if x.lost then s else s.report x.hdr 3 cause

/-- A message that is no more with the launch it was for: a decoded one is counted (R271), a lost one reported (R275, log 91: DESIGN CHOICE). -/
def State.discard (s : State) (x : Slot) : State :=
  let s := s.endSlot x
  if x.lost then s else s.count x.part (fun c => { c with fundel := c.fundel + 1 })

/-- The RECV a message takes: the earliest posted, uncompleted one with its tag (R190). -/
def Agent.recvFor (a : Agent) (x : Slot) : Option XCmd :=
  match x.recvSeq with
  | some q => a.xcmds.find? (fun c => c.seq = q && !c.fin)
  | none => a.xcmds.find? (fun c => match c.ins with
    | .recv .. => c.started && !c.fin && !c.delivering && !c.cancelled && bits c.atag 31 0 == bits x.hdr.opnd 31 0
    | _ => false)

/-- A message has been delivered to its RECV: the RECV completes, the slot is free, and a SEND with rty is told (R190,
R276). What the sender had observed before it sent the message is shown by this RECV (R206). -/
def State.recvDone (s : State) (k : AgentKey) (x : Slot) (c : XCmd) : State :=
  let s := (s.causedBy k true c.seq [(x.sender, (s.sender x).2)]).draw.2
  let s := (s.finX k { c with acc := none }).endSlot x
  if x.rty && !x.lost then s.report x.hdr 0 0 else s

/-- Deliver a SEND (R190): beats as the queue has room, or the next words of a landing at a locator. A RECV
that is matched while the queue has no room counts as one whose delivery has begun (R191, log 72: DESIGN CHOICE). -/
def State.deliverSend (s : State) (k : AgentKey) (x : Slot) : State :=
  let a := s.agent k
  match a.recvFor x with
  | none => s
  | some c =>
    if a.haltX || c.page != .none then s
    else
      let c := { c with delivering := true }
      let x := { x with st := .delivering, recvSeq := some c.seq }
      let s := (s.setX k c).setSlot x
      match c.ins with
      | .recv (.loc _) _ =>
        (match s.landOn k c (slotBytes x) with
          | (true, s) => s.recvDone k x c
          | (false, s) => s)
      | .recv d _ =>
        let n := match d with | .q12 => 12 | _ => 13
        let bs := (messageBeats (slotBytes x) x.lost).drop x.prog
        let b := (s.agent k).q.beat n
        let room := b.depth - (b.items.length + b.kept)
        let s := s.pushBeats k n (bs.take room)
        if bs.length ≤ room then s.recvDone k x c
        else s.setSlot { x with prog := x.prog + room }
      | _ => s

/-- The XCHG command of an agent that a message or report with this number answers. -/
def Agent.byMseq (a : Agent) (mseq : Nat) : Option XCmd := a.xcmds.find? (fun c => c.seq % 2 ^ 32 = mseq && c.sent && !c.fin)

/-- Hand the answer of a remote access to the AGEN item that waits for it (R206). -/
def State.answerAgen (s : State) (k : AgentKey) (mseq : Nat) (b : Option (List PByte)) (cause : Option (Nat × Nat)) : State :=
  let a := s.agent k
  s.setAgent k { a with acmds := a.acmds.map (fun c => match c.rem with
    | some r => if r.mseq.toNat = mseq then { c with rem := some { r with done := b, cause := cause } } else c
    | none => c) }

/-- The reply to a request for bytes, under the code and the deadline that the request names (R188, R206). -/
def State.reply (s : State) (x : Slot) (b : List PByte) : State :=
  let w := fun i => natOfBytes ((x.msg.drop (8 * i)).take 8)
  ((s.dropSlot x.key).sendMsg
    { op := 3, opnd := 0, mseq := x.hdr.mseq, src := fragDst x.hdr, grp := false, dst := x.hdr.src.toNat
      dag := fragSrc x.hdr, bytes := b, k := w 0, m := x.hdr.m.toNat, ln := x.hdr.ln.toNat
      cls := x.hdr.cls.toNat, rty := false, dtime := dtimeOf (s.fab.ftime + 1000 * w 1) } true none).1

/-- What follows an access at the destination of op 1 or 2: the report or the reply, the fault's report, the wait, or the next step
(R206, R276, R278). -/
def Put.after (k : AgentKey) (x : Slot) (d : Desc) (ref : Word) (col : Nat) (wr : Bool) : Put → State
  | .done b s =>
    if wr then let s := s.endSlot x; if x.lost then s else s.report x.hdr 0 0
    else s.reply x (padTo (64 * (x.hdr.ln.toNat + 1)) b)
  | .more a s => s.setSlot { x with acc := some a }
  | .fault e s => s.refuseSlot x e
  | .page kd g s => s.slotPage x k d ref kd g col wr

/-- A lost message of which nothing lands (R275): a request, a report, a resend request, or one for a launch that has ended. -/
def State.noData (s : State) (x : Slot) : Bool :=
  x.lost && (x.hdr.op == 2 || decide (4 ≤ x.hdr.op.toNat) || ((s.strand (fragDst x.hdr).sk).st == .absent && !x.isItem))

/-- DELIVER a decoded message (R190, R206, R271, R278). A halted XCHG of the receiving agent takes no step (R201); an item of another
device's AGEN needs no agent here (R236). -/
def State.deliver (s : State) (x : Slot) : State :=
  let k := fragDst x.hdr
  let item := x.isItem
  if x.st = .collecting ∨ x.page ≠ .none ∨ (!item ∧ !s.noData x ∧ !(s.strand k.sk).enginesRun) then s
  else
    let (s, ok) := if x.entered then (s, true) else s.accessionOf x
    if !ok then s
    else if s.noData x then s.endSlot x
    else
      let x := { x with entered := true }
      let s := s.setSlot x
      let l := x.hdr.opnd
      let d := ((s.agent k).tdAny x.hdr.mseq.toNat (lTd l)).getD 0
      let ref := l &&& 0x0000FFFFFFFFFFFF
      match x.hdr.op.toNat with
      | 0 => s.deliverSend k x
      | 1 =>
        if item then let (r, d) := s.homeWrite x (slotBytes x); r.after k x d x.itemPlace.1 0 true
        else (s.applyAt k x (slotBytes x)).after k x d ref (recCol l) true
      | 2 =>
        let len := 64 * (x.hdr.ln.toNat + 1)
        if item then let (r, d) := s.homeRead x len; r.after k x d x.itemPlace.1 0 false
        else (s.getPlace k x len).after k x d ref (recCol l) false
      | 3 =>
        (match (s.agent k).byMseq x.hdr.mseq.toNat with
          | some c =>
            if c.page ≠ .none ∨ (s.agent k).haltX ∨ c.held then s
            else
              let s := s.landReply k c (slotBytes x)
              if ((s.agent k).byMseq x.hdr.mseq.toNat).isSome then s else s.endSlot x
          | none => (s.answerAgen k x.hdr.mseq.toNat (some (slotBytes x)) none).endSlot x)
      | 4 =>
        (match s.place k false x.hdr.mseq.toNat l 8 8 [2] true with
          | (.fault e, s) => (s.dropSlot x.key).report x.hdr 3 e
          | (.page kd g, s) => s.slotPage x k d ref kd g 0 true
          | (.remote .., s) => (s.dropSlot x.key).report x.hdr 3 9
          | (.runs rs, s) =>
            let a := (rs.head?.map (·.1)).getD 0
            let before := KV.getD s.flags a []
            let (v, s) := s.gRead a
            let s := s.gWrite [(a, v.1 + bv 64 (natOfBytes (x.msg.take 8)), v.2)]
            let s := s.noteFlag a x.sender (s.sender x).2 before
            (s.dropSlot x.key).report x.hdr 0 0)
      | _ => s

/-- MESSAGE_DELIVERY (R190, R206, R271). -/
def execMessageDelivery (key : MKey) (s : State) : Out :=
  .next (match s.slot? key with
  | some x => s.deliver x
  | none => s)

/-! ## Deadlines, loss, resend (R273–R275) -/

/-- A MESSAGE IS LOST (R275): counted, recorded, accessioned, delivered as poisoned zeros where it carries data to land, and then reported
(log 91: DESIGN CHOICE). -/
def State.lose (s : State) (x : Slot) : State :=
  let n := x.hdr.ln.toNat + 1
  let s := s.count x.part (fun c => { c with floss := c.floss + 1 })
  let s := s.unitRec (fragDst x.hdr) x.hdr.mseq.toNat 0x20
  let (s, ok) := s.accessionOf x
  let x := { x with st := .decoded, lost := true, entered := ok, msg := List.replicate (64 * n) 0, pois := List.replicate n true }
  if ok && s.noData x then s.endSlot x else s.setSlot x

/-- The fabric time that a deadline which has passed stands for. -/
def State.deadlineOf (s : State) (d : BitVec 16) : Nat := 64 * (s.fab.ftime / 64 - (dtimeOf s.fab.ftime - d).toNat)

/-- SLOT_DEADLINE_EXPIRY (R273, R274): one resend request where the message allows it, else the message is lost. -/
def execSlotDeadlineExpiry (key : MKey) (s : State) : Out :=
  .next (match s.slot? key with
  | none => s
  | some x =>
    if x.st ≠ .collecting ∨ !s.passedBefore x.part x.dtime then s
    else if x.rty && x.resendBy.isNone then
      let s := s.setSlot { x with resendBy := some (s.deadlineOf x.dtime + 1023000) }
      let s := s.count x.part (fun c => { c with frsq := c.frsq + 1 })
      (s.sendMsg
        { op := 6, opnd := 0, mseq := x.hdr.mseq, src := fragDst x.hdr, grp := false, dst := x.hdr.src.toNat
          dag := fragSrc x.hdr, bytes := [], k := 1, m := 1, ln := 0, cls := 0, rty := false
          dtime := dtimeOf (s.fab.ftime + 1023000) } false none).1
    else if x.resendBy.isSome && !x.gotResent then s
    else s.lose x)

/-- No resent fragment came in time: one that comes in the mesh cycle in which the time passes has (R270, R274). (log 42: DEDUCED) -/
def State.waitOver (s : State) (x : Slot) : Bool :=
  x.st == .collecting && !x.gotResent && x.resendBy.any (fun t => decide (t < s.ftimeStart x.part))

/-- RESEND_WAIT_EXPIRY (R274): no resent fragment came in time. -/
def execResendWaitExpiry (key : MKey) (s : State) : Out :=
  .next (match s.slot? key with
  | none => s
  | some x => if s.waitOver x then s.lose x else s)

/-- A decoded report or resend request takes effect once the accession table has its key (R272). -/
def State.entered (s : State) (x : Slot) (k : State → State) : State :=
  if x.entered then k s
  else match s.accessionOf x with
    | (s, true) => k (s.setSlot { x with entered := true })
    | (s, false) => s

/-- A decoded resend request takes effect (R274): XCHG of the sender is to read the command's source again and to send every fragment with
rty 0, once. -/
def State.takeResend (s : State) (x : Slot) : State :=
  if x.st = .collecting then s
  else s.entered x fun s =>
    let k := fragDst x.hdr
    let s := s.dropSlot x.key
    if x.lost then s
    else match (s.agent k).byMseq x.hdr.mseq.toNat with
    | none => s
    | some c => if c.resent || c.resend || !c.crt.rty then s else s.setX k { c with resend := true, acc := none }

/-- RESEND_REQUEST_RECEIVE (R274). -/
def execResendRequestReceive (f : Frag) (s : State) : Out :=
  .next (match s.slot? (fragKey f) with
  | none => s
  | some x => if f.op ≠ 6 then s else s.takeResend x)

/-! ## Reports (R275–R277, R296) -/

/-- A command has one more of the reports it needs; with the last it completes (R189, R276). -/
def State.countReport (s : State) (k : AgentKey) (c : XCmd) (key : MKey) : State :=
  let c := { c with reports := if c.reports.contains key then c.reports else c.reports ++ [key] }
  if c.need ≤ c.reports.length then s.finX k c else s.setX k c

/-- What the sender does on a report (R275, R276, R296). (log 52: DEDUCED) -/
def State.onReport (s : State) (f : Frag) : State :=
  let k := fragDst f
  let status := f.opnd.toNat % 256
  let cause := f.opnd.toNat / 256 % 256
  let who := { fragKey f with mseq := 0, rep := none }
  if status = 5 then
    s.record k.sk { s.recForAgent k with
      rep := 4, kind := 15, seq := bv 64 (bits f.opnd 47 16), op1 := f.mseq.setWidth 64, op0 := f.src.setWidth 64 }
  else
    match (s.agent k).byMseq f.mseq.toNat with
    | none =>
      match (s.agent k).acmds.find? (fun c => c.rem.any (fun r => r.mseq == f.mseq)) with
      | some c =>
        (match status with
          | 0 => s.answerAgen k f.mseq.toNat (some []) none
          | 1 => (s.agenNote k c 0x20 c.col).answerAgen k f.mseq.toNat (some (lostBytes 4096)) none
          | 3 => s.answerAgen k f.mseq.toNat none (some (0x12, cause))
          | 4 => s.answerAgen k f.mseq.toNat none (some (0x13, 0))
          | _ => s)
      | none =>
        if status = 1 then
          (match ((s.agent k).xcmds ++ (s.agent k).xdone).find? (fun c => c.seq % 2 ^ 32 = f.mseq.toNat && c.sent) with
            | some c => s.xchgNote k c 0x20
            | none => s)
        else s
    | some c =>
      match status with
      | 0 => s.countReport k c who
      | 1 =>
        let s := s.xchgNote k c 0x20
        (match c.ins with
          | .xrd _ => s.setX k { c with lostRep := true, acc := none }
          | _ => s.countReport k c who)
      | 2 => s.setX k { c with heldRep := true }
      | 3 => s.xchgHalt k { c with sent := false, reports := [] } 0x12 cause
      | 4 => s.xchgHalt k { c with sent := false, reports := [] } 0x13 0
      | _ => s

/-- A decoded report takes effect at the sender of the reported message (R276). -/
def State.takeReport (s : State) (x : Slot) : State :=
  if x.st = .collecting then s
  else s.entered x fun s => let s := s.dropSlot x.key; if x.lost then s else s.onReport x.hdr

/-- REPORT_RECEIVE (R276). -/
def execReportReceive (f : Frag) (s : State) : Out :=
  .next (match s.slot? (fragKey f) with
  | none => s
  | some x => if f.op ≠ 5 then s else s.takeReport x)

/-- Whether the reply to a command has been decoded here and waits to land (R277). -/
def State.replyHere (s : State) (a : AgentKey) (c : XCmd) : Bool :=
  s.fab.slots.any (fun x => x.st != .collecting && x.hdr.op == 3 && fragDst x.hdr == a && x.hdr.mseq.toNat == c.seq % 2 ^ 32)

/-- Whether the report deadline of a command ends its wait: it waits for reports, the deadline has passed, nothing said "held", and no
reply is here (R277). -/
def State.reportDue (s : State) (a : AgentKey) (c : XCmd) : Bool :=
  c.sent && !c.fin && c.need != 0 && !c.heldRep && !c.lostRep && !c.halted && decide (c.deadline < s.fab.ftime) && !s.replyHere a c

/-- REPORT_DEADLINE_EXPIRY (R277): the command completes with fault 0x20; an XRD is to write its place as poisoned first. -/
def execReportDeadlineExpiry (a : AgentKey) (seq : Nat) (s : State) : Out :=
  .next (match (s.agent a).xcmds.find? (fun c => c.seq = seq) with
  | none => s
  | some c =>
    if !s.reportDue a c then s
    else
      let s := s.xchgNote a c 0x20
      match c.ins with
      | .xrd _ => s.setX a { c with lostRep := true, acc := none }
      | _ => s.finX a c)

end Sys2Proof.Machine
end

