-- ==== Sys2Proof/Machine/Scalar.lean ====
section
/-! DEFINITION. The scalar and predicate words at a column (R114–R120), one definition for each word. -/

namespace Sys2Proof.Machine

open Sys2Proof

/-- The second operand of a C3 word (R114). -/
def Ctx.b3 (x : Ctx) : SSrc → BitVec 32
  | .reg s => x.s s
  | .imm i => i.signExtend 32

/-- SADD (R114). -/
def colSadd (sd sa : BitVec 4) (b : SSrc) (x : Ctx) : Eff := putS sd (x.s sa + x.b3 b)
/-- SSUB (R114). -/
def colSsub (sd sa : BitVec 4) (b : SSrc) (x : Ctx) : Eff := putS sd (x.s sa - x.b3 b)
/-- SMUL (R114). -/
def colSmul (sd sa : BitVec 4) (b : SSrc) (x : Ctx) : Eff := putS sd (x.s sa * x.b3 b)
/-- SAND (R114). -/
def colSand (sd sa : BitVec 4) (b : SSrc) (x : Ctx) : Eff := putS sd (x.s sa &&& x.b3 b)
/-- SOR (R114). -/
def colSor (sd sa : BitVec 4) (b : SSrc) (x : Ctx) : Eff := putS sd (x.s sa ||| x.b3 b)
/-- SXOR (R114). -/
def colSxor (sd sa : BitVec 4) (b : SSrc) (x : Ctx) : Eff := putS sd (x.s sa ^^^ x.b3 b)
/-- SSHL (R114). -/
def colSshl (sd sa : BitVec 4) (b : SSrc) (x : Ctx) : Eff := putS sd (x.s sa <<< ((x.b3 b).toNat % 32))
/-- SSHR (R114). -/
def colSshr (sd sa : BitVec 4) (b : SSrc) (x : Ctx) : Eff := putS sd (x.s sa >>> ((x.b3 b).toNat % 32))
/-- SSRA (R114). -/
def colSsra (sd sa : BitVec 4) (b : SSrc) (x : Ctx) : Eff := putS sd ((x.s sa).sshiftRight ((x.b3 b).toNat % 32))
/-- SMIN (R114). -/
def colSmin (sd sa : BitVec 4) (b : SSrc) (x : Ctx) : Eff :=
  putS sd (if (x.s sa).toInt ≤ (x.b3 b).toInt then x.s sa else x.b3 b)
/-- SMAX (R114). -/
def colSmax (sd sa : BitVec 4) (b : SSrc) (x : Ctx) : Eff :=
  putS sd (if (x.s sa).toInt ≤ (x.b3 b).toInt then x.b3 b else x.s sa)

/-- SMOVX: the sample the sequencer took at issue (R115). -/
def colSmovx (sd : BitVec 4) (x : Ctx) : Eff := putS sd (x.w.x.setWidth 32)

/-- SGET (R116): the clearing form also clears fst at the end of its strand cycle, before any flag that lands then. -/
def colSget (sd : BitVec 4) (sel : SgetSel) (x : Ctx) : Eff :=
  let v : BitVec 32 := match sel with
    | .col => bv 32 x.c
    | .row => bv 32 x.key.row
    | .strand => bv 32 x.key.strand
    | .part => bv 32 x.key.part
    | .fst | .fstc => x.core.fst.setWidth 32
  let e := putS sd v
  if sel = .fstc then { e with lands := (1, .clearFst) :: e.lands } else e

/-- SLI (R117). -/
def colSli (sd : BitVec 4) (v : SliSrc) (_ : Ctx) : Eff :=
  putS sd (match v with | .imm i => i.signExtend 32 | .lit w => w)

/-- SCMP (R118). -/
def colScmp (c : ICond) (pd sa sb : BitVec 4) (x : Ctx) : Eff :=
  putP pd (condHolds c (x.s sa).toInt (x.s sb).toInt) false
/-- PAND (R119). -/
def colPand (pd pa pb : BitVec 4) (x : Ctx) : Eff := putP pd (x.p pa && x.p pb) false
/-- POR (R119). -/
def colPor (pd pa pb : BitVec 4) (x : Ctx) : Eff := putP pd (x.p pa || x.p pb) false
/-- PXOR (R119). -/
def colPxor (pd pa pb : BitVec 4) (x : Ctx) : Eff := putP pd (x.p pa != x.p pb) false
/-- PNOT (R119). -/
def colPnot (pd pa : BitVec 4) (x : Ctx) : Eff := putP pd (!x.p pa) false

/-- VANY: a poisoned row gives 0 (R120). -/
def colVany (pd : BitVec 4) (va : BitVec 10) (x : Ctx) : Eff :=
  let r := x.row va
  putP pd (!r.pois && decide (r.data ≠ 0)) r.pois
/-- VALL: a poisoned row gives 0 (R120). -/
def colVall (pd : BitVec 4) (va : BitVec 10) (x : Ctx) : Eff :=
  let r := x.row va
  putP pd (!r.pois && (lanesOf 8 r.data).all (fun b => decide (b ≠ 0))) r.pois

end Sys2Proof.Machine
end

