-- ==== Sys2Proof/Machine/Column.lean ====
section
/-! DEFINITION. Every column of a row in one strand cycle (R19–R22, R30, R146): the CORE words execute on the diagonal,
products take their beats, beats move east, and what is due at the next strand cycle lands. -/

namespace Sys2Proof.Machine

open Sys2Proof

/-- A word's effect under its guard (R20, R42). -/
def gated (x : Ctx) (g : Guard) (e : Eff) : Eff := if x.w.stage && x.core.guard g then e else Eff.none

/-- What a CORE word does at a column (R20). -/
def columnWord (i : Instr) (x : Ctx) : Eff :=
  match i with
  | .sadd g sd sa b => gated x g (colSadd sd sa b x)
  | .ssub g sd sa b => gated x g (colSsub sd sa b x)
  | .smul g sd sa b => gated x g (colSmul sd sa b x)
  | .sand g sd sa b => gated x g (colSand sd sa b x)
  | .sor g sd sa b => gated x g (colSor sd sa b x)
  | .sxor g sd sa b => gated x g (colSxor sd sa b x)
  | .sshl g sd sa b => gated x g (colSshl sd sa b x)
  | .sshr g sd sa b => gated x g (colSshr sd sa b x)
  | .ssra g sd sa b => gated x g (colSsra sd sa b x)
  | .smin g sd sa b => gated x g (colSmin sd sa b x)
  | .smax g sd sa b => gated x g (colSmax sd sa b x)
  | .smovx g sd _ => gated x g (colSmovx sd x)
  | .sget g sd sel => gated x g (colSget sd sel x)
  | .sli g sd v => gated x g (colSli sd v x)
  | .scmp g c pd sa sb => gated x g (colScmp c pd sa sb x)
  | .pand g pd pa pb => gated x g (colPand pd pa pb x)
  | .por g pd pa pb => gated x g (colPor pd pa pb x)
  | .pxor g pd pa pb => gated x g (colPxor pd pa pb x)
  | .pnot g pd pa => gated x g (colPnot pd pa x)
  | .vany g pd va => gated x g (colVany pd va x)
  | .vall g pd va => gated x g (colVall pd va x)
  | .vadd g ty r vd va b => gated x g (colVadd ty r vd va b x)
  | .vsub g ty r vd va b => gated x g (colVsub ty r vd va b x)
  | .vmul g ty r vd va b => gated x g (colVmul ty r vd va b x)
  | .vfma g ty r vd va b => gated x g (colVfma ty r vd va b x)
  | .vfms g ty r vd va b => gated x g (colVfms ty r vd va b x)
  | .vfmh g ty r vd va b => gated x g (colVfmh ty r vd va b x)
  | .vmin g ty _ vd va b => gated x g (colVmin ty vd va b x)
  | .vmax g ty _ vd va b => gated x g (colVmax ty vd va b x)
  | .vabs g ty vd va => gated x g (colVabs ty vd va x)
  | .vneg g ty vd va => gated x g (colVneg ty vd va x)
  | .vcmp g c ty vd va b => gated x g (colVcmp c ty vd va b x)
  | .vsel g ty vd va b => gated x g (colVsel ty vd va b x)
  | .vrcp g ty r vd va => gated x g (colVrcp ty r vd va x)
  | .vrsq g ty r vd va => gated x g (colVrsq ty r vd va x)
  | .vsqrt g ty r vd va => gated x g (colVsqrt ty r vd va x)
  | .vexp2 g ty r vd va => gated x g (colVexp2 ty r vd va x)
  | .vlog2 g ty r vd va => gated x g (colVlog2 ty r vd va x)
  | .vtanh g ty r vd va => gated x g (colVtanh ty r vd va x)
  | .vsigm g ty r vd va => gated x g (colVsigm ty r vd va x)
  | .vsin g ty r vd va => gated x g (colVsin ty r vd va x)
  | .vcos g ty r vd va => gated x g (colVcos ty r vd va x)
  | .viadd g ty sat vd va b => gated x g (colViadd ty sat vd va b x)
  | .visub g ty sat vd va b => gated x g (colVisub ty sat vd va b x)
  | .vimul g ty sat vd va b => gated x g (colVimul ty sat vd va b x)
  | .vand g ty vd va b => gated x g (colVand ty vd va b x)
  | .vor g ty vd va b => gated x g (colVor ty vd va b x)
  | .vxor g ty vd va b => gated x g (colVxor ty vd va b x)
  | .vshl g ty vd va b => gated x g (colVshl ty vd va b x)
  | .vshr g ty vd va b => gated x g (colVshr ty vd va b x)
  | .vsra g ty vd va b => gated x g (colVsra ty vd va b x)
  | .vimin g ty vd va b => gated x g (colVimin ty vd va b x)
  | .vimax g ty vd va b => gated x g (colVimax ty vd va b x)
  | .vicmp g c ty vd va b => gated x g (colVicmp c ty vd va b x)
  | .vcvt g dst src r h vd va => gated x g (colVcvt dst src r h vd va x)
  | .vfxc g vd va => gated x g (colVfxc vd va x)
  | .vfxa g vd va b => gated x g (colVfxa vd va b x)
  | .vfxf g r vd va => gated x g (colVfxf r vd va x)
  | .vrsum g ty r sat vd va => gated x g (colVrsum ty r sat vd va x)
  | .vrmax g ty vd va => gated x g (colVrmax ty vd va x)
  | .vrmin g ty vd va => gated x g (colVrmin ty vd va x)
  | .vperm g ty vd va b => gated x g (colVperm ty vd va b x)
  | .vbcast g ty vd va lane => gated x g (colVbcast ty vd va lane x)
  | .vrot g ty vd va k => gated x g (colVrot ty vd va k x)
  | .vladd g ty r vd va slot => gated x g (colVladd ty r vd va slot x)
  | .vfxl g vd va slot => gated x g (colVfxl vd va slot x)
  | .vaddi p vd va imm => gated x ⟨false, p.setWidth 4⟩ (colVaddi vd va imm x)
  | .vmuli p vd va imm => gated x ⟨false, p.setWidth 4⟩ (colVmuli vd va imm x)
  | .vfmhi p vd va imm => gated x ⟨false, p.setWidth 4⟩ (colVfmhi vd va imm x)
  | .vmini p vd va imm => gated x ⟨false, p.setWidth 4⟩ (colVmini vd va imm x)
  | .vmaxi p vd va imm => gated x ⟨false, p.setWidth 4⟩ (colVmaxi vd va imm x)
  | .viaddi p vd va imm => gated x ⟨false, p.setWidth 4⟩ (colViaddi vd va imm x)
  | .vandi p vd va imm => gated x ⟨false, p.setWidth 4⟩ (colVandi vd va imm x)
  | .vshli p vd va imm => gated x ⟨false, p.setWidth 4⟩ (colVshli vd va imm x)
  | .vli p vd imm => gated x ⟨false, p.setWidth 4⟩ (colVli vd imm x)
  | .vmov g _ vd b => gated x g (colVmov vd b x)
  | .mma g fmt mode _ ovr md a sb bdisp => gated x g (colMma fmt mode ovr md a sb bdisp x)
  | .mzero g md => gated x g (colMzero md x)
  | .mtrn g md ma => gated x g (colMtrn md ma x)
  | .vgetl g cvt v slot => gated x g (colVgetl cvt v slot x)
  | .vputl g cvt slot v => gated x g (colVputl cvt slot v x)
  | .fldv g cvt v s disp => gated x g (colFldv cvt v s disp x)
  | .fstv g cvt s disp v => gated x g (colFstv cvt s disp v x)
  | .fldm g cvt m s disp => gated x g (colFldm cvt m s disp x)
  | .fstm g cvt s disp m => gated x g (colFstm cvt s disp m x)
  | _ => Eff.none

/-! ## Landing (R21, R22, R116) -/

/-- Insert a result into the landing buffer, in issue order: the later-issued one lands last (R22). -/
def insertLanding (n : Landing) : List Landing → List Landing
  | [] => [n]
  | a :: l => if n.issued < a.issued then n :: a :: l else a :: insertLanding n l

/-- Land one result at a column. It stands over every engine write that was there before it, so nothing older is left to
read (R22, R29). -/
def Agent.landOne (a : Agent) (serial row c : Nat) (w : Land) : Agent :=
  let put := fun (p : Place) (v : PlaceV) =>
    let a := a.remember serial row c p
    { a.setCore c ((a.core c).putPlace v p) with unobs := a.unobs.filter (fun u => !(u.col == c && u.place == p)) }
  let k := a.core c
  match w with
  | .row n v => put (.row n) ⟨v.data, v.pois⟩
  | .unit n v => put (.unit n) ⟨v.data.setWidth 1024, v.pois⟩
  | .sreg r v => a.setCore c { k with s := k.s.set r.toFin v }
  | .pred r v =>
    let m : BitVec 8 := 1 <<< (r.toNat - 8)
    a.setCore c { k with p := if v then k.p ||| m else k.p &&& ~~~m }
  | .flags f => a.setCore c { k with fst := k.fst ||| f }
  | .clearFst => a.setCore c { k with fst := 0 }

/-- Whether a landing is the clearing of fst, which comes before every flag (R116). -/
def Landing.isClear (n : Landing) : Bool := match n.what with | .clearFst => true | _ => false

/-- The place of core storage that a result writes. -/
def Land.place? : Land → Option Place
  | .row n _ => some (.row n)
  | .unit n _ => some (.unit n)
  | _ => none

/-- Results that land at strand cycle d early enough for the shadow still to speak of their word (R289); what landed there before is
no more to be found. -/
def Agent.noteLanded (a : Agent) (c d : Nat) (l : List Landing) : Agent :=
  { a with landed := l.foldl (fun ls n => match n.what.place? with
      | some p =>
        let ls := ls.filter (fun e => !(e.2.1 == c && e.2.2 == p))
        if d ≤ n.issued + 5 then ls ++ [(n.issued, c, p)] else ls
      | none => ls) a.landed }

/-- Land what is due at strand cycle d at a column, in issue order (R21, R22). -/
def Agent.landDue (a : Agent) (serial row c d : Nat) : Agent :=
  let k := a.core c
  let (now, later) := k.landing.partition (fun n => decide (n.due ≤ d))
  if now.isEmpty then a
  else
    let a := (a.setCore c { k with landing := later }).noteLanded c d now
    (now.filter (·.isClear) ++ now.filter (fun n => !n.isClear)).foldl (fun a n => a.landOne serial row c n.what) a

/-! ## One column, and all of them -/

/-- What the columns of one agent do in a strand cycle: the agent after it, the residues that did not match (column, issue
time of the product, array column, both residues), whether a poisoned source was read (R221), and the places of core storage that results
wrote, with their columns (R215). -/
structure ColOut where
  a : Agent
  recs : List (Nat × Nat × Nat × Bool)
  consumed : Bool
  wrote : List (Nat × Place)

/-- The residues that do not match when a product lands at a column (R290, log 7: DESIGN CHOICE). -/
def residuesAt (phys : List Phys) (key : AgentKey) (c : Nat) : List (Nat × Bool) :=
  phys.filterMap (fun p => match p with
    | .residue k n ac both => if k = key ∧ n = c then some (ac, both) else none
    | _ => none)

/-- The landings of a finished product: 32 rows and its flags (R22, R146). -/
def MmaRun.landings (r : MmaRun) (due : Nat) (pois : Bool) : List Landing :=
  (r.acc.zipIdx.map (fun w => (⟨due, r.t, .row (32 * r.md + w.2) ⟨w.1, pois⟩⟩ : Landing))) ++
    (if r.fl = 0 then [] else [⟨due, r.t, .flags r.fl⟩])

/-- SWAP's copy of the scalars and predicates of a column, taken when the word passes it (R84). -/
def Agent.copyScalars (a : Agent) (u c : Nat) : Agent :=
  match a.swap with
  | some w => if u = w.t + c ∧ (KV.get? w.cores c).isNone then
      { a with swap := some { w with cores := KV.put w.cores c ((a.core c).s, (a.core c).p) } } else a
  | none => a

/-- One column in strand cycle u. -/
def ColOut.column (o : ColOut) (key : AgentKey) (serial : Nat) (l : Launch) (phys : List Phys) (u c : Nat) : ColOut :=
  let a := o.a.copyScalars u c
  let b := u - c
  let word := if c ≤ u then KV.get? a.pipe b else none
  let k := a.core c
  if word.isNone && k.runs.isEmpty && k.landing.isEmpty then { o with a := a }
  else
    let bt := KV.getD a.beats b Beat.empty
    let e := match word with
      | some w => columnWord w.ins ⟨a, key, serial, l, u, c, w, bt⟩
      | none => Eff.none
    let old := if e.breaks then k.runs.map (fun r => { r with latest := false }) else k.runs
    let runs := (old ++ e.run.toList).map (fun r => r.advance bt)
    let (done, going) := (runs.map (·.1)).partition (fun r => decide (r.shape.1 ≤ r.n))
    let bad := if done.isEmpty then [] else residuesAt phys key c
    let lost := bad.any (·.2)
    let fin := done.flatMap (fun r => r.landings (r.t + c + r.shape.2) (r.pois || lost))
    let new := e.lands.map (fun n => (⟨u + n.1, b, n.2⟩ : Landing))
    let lastM := (done.filter (·.latest)).foldl (fun (_ : Option LastM) r =>
        some ⟨r.t, r.t + c + r.shape.2, r.md, r.acc.map (fun d => ⟨d, r.pois || lost⟩)⟩)
      (if e.breaks then none else k.lastM)
    let k := { k with
      runs := going, lastM := lastM
      landing := (new ++ fin).foldl (fun l n => insertLanding n l) k.landing }
    let a := a.setCore c k
    let a := match e.beat with
      | some v => { a with beats := KV.put a.beats b v }
      | none => a
    { a := a.landDue serial key.row c (u + 1)
      recs := o.recs ++ (bad.flatMap (fun r => done.map (fun d => (c, d.t, r.1, r.2))))
      consumed := o.consumed || e.read || runs.any (·.2)
      wrote := o.wrote ++ (k.landing.filter (fun n => decide (n.due ≤ u + 1))).filterMap (fun n => n.what.place?.map (fun p => (c, p))) }

/-- Every column executes and lands its due work of strand cycle u (R19–R22). -/
def Agent.columns (a : Agent) (key : AgentKey) (serial : Nat) (l : Launch) (phys : List Phys) (u : Nat) : ColOut :=
  (List.range 48).foldl (fun o c => o.column key serial l phys u c) ⟨a, [], false, []⟩

end Sys2Proof.Machine
end

