-- ==== Sys2Proof/Machine/Reads.lean ====
section
/-! DEFINITION. The places of core storage that a CORE word reads at a column, for the reads of lines with errors (R216). -/

namespace Sys2Proof.Machine

open Sys2Proof

/-- A row as a place. -/
def rowP (v : BitVec 10) : List Place := [.row v.toNat]
/-- The rows of a tile. -/
def tileP (m : BitVec 5) : List Place := (List.range 32).map (fun i => .row (32 * m.toNat + i))
/-- The B operand. -/
def bP : BSrc → List Place
  | .row v => rowP v
  | .kb n => [.kb n.toNat]
  | _ => []
/-- The B operand of VFXA. -/
def fxP : BFx → List Place
  | .row v => rowP v
  | _ => []
/-- Folio units inside the window. -/
def unitP (x : Ctx) (s : BitVec 4) (disp n : Nat) : List Place :=
  ((List.range n).map (fun i => x.unitAt s disp + i)).filterMap (fun u => if u < x.l.nunits then some (.unit u) else none)

/-- The places of a word whose guard holds at the column (R20). -/
def onGuard (x : Ctx) (g : Guard) (l : List Place) : List Place := if x.core.guard g then l else []

/-- The places a word reads. -/
def wordPlaces (i : Instr) (x : Ctx) : List Place :=
  match i with
  | .vany g _ va => onGuard x g (rowP va)
  | .vall g _ va => onGuard x g (rowP va)
  | .vadd g _ _ _ va b => onGuard x g (rowP va ++ bP b)
  | .vsub g _ _ _ va b => onGuard x g (rowP va ++ bP b)
  | .vmul g _ _ _ va b => onGuard x g (rowP va ++ bP b)
  | .vfma g _ _ vd va b => onGuard x g (rowP vd ++ rowP va ++ bP b)
  | .vfms g _ _ vd va b => onGuard x g (rowP vd ++ rowP va ++ bP b)
  | .vfmh g _ _ vd va b => onGuard x g (rowP vd ++ rowP va ++ bP b)
  | .vmin g _ _ _ va b => onGuard x g (rowP va ++ bP b)
  | .vmax g _ _ _ va b => onGuard x g (rowP va ++ bP b)
  | .vabs g _ _ va => onGuard x g (rowP va)
  | .vneg g _ _ va => onGuard x g (rowP va)
  | .vcmp g _ _ _ va b => onGuard x g (rowP va ++ bP b)
  | .vsel g _ vd va b => onGuard x g (rowP vd ++ rowP va ++ bP b)
  | .vrcp g _ _ _ va => onGuard x g (rowP va)
  | .vrsq g _ _ _ va => onGuard x g (rowP va)
  | .vsqrt g _ _ _ va => onGuard x g (rowP va)
  | .vexp2 g _ _ _ va => onGuard x g (rowP va)
  | .vlog2 g _ _ _ va => onGuard x g (rowP va)
  | .vtanh g _ _ _ va => onGuard x g (rowP va)
  | .vsigm g _ _ _ va => onGuard x g (rowP va)
  | .vsin g _ _ _ va => onGuard x g (rowP va)
  | .vcos g _ _ _ va => onGuard x g (rowP va)
  | .viadd g _ _ _ va b => onGuard x g (rowP va ++ bP b)
  | .visub g _ _ _ va b => onGuard x g (rowP va ++ bP b)
  | .vimul g _ _ _ va b => onGuard x g (rowP va ++ bP b)
  | .vand g _ _ va b => onGuard x g (rowP va ++ bP b)
  | .vor g _ _ va b => onGuard x g (rowP va ++ bP b)
  | .vxor g _ _ va b => onGuard x g (rowP va ++ bP b)
  | .vshl g _ _ va b => onGuard x g (rowP va ++ bP b)
  | .vshr g _ _ va b => onGuard x g (rowP va ++ bP b)
  | .vsra g _ _ va b => onGuard x g (rowP va ++ bP b)
  | .vimin g _ _ va b => onGuard x g (rowP va ++ bP b)
  | .vimax g _ _ va b => onGuard x g (rowP va ++ bP b)
  | .vicmp g _ _ _ va b => onGuard x g (rowP va ++ bP b)
  | .vcvt g _ _ _ _ vd va => onGuard x g (rowP vd ++ rowP va)
  | .vfxc g _ va => onGuard x g (rowP va)
  | .vfxa g _ va b => onGuard x g (rowP va ++ fxP b)
  | .vfxf g _ _ va => onGuard x g (rowP va)
  | .vrsum g _ _ _ _ va => onGuard x g (rowP va)
  | .vrmax g _ _ va => onGuard x g (rowP va)
  | .vrmin g _ _ va => onGuard x g (rowP va)
  | .vperm g _ _ va b => onGuard x g (rowP va ++ bP b)
  | .vbcast g _ _ va _ => onGuard x g (rowP va)
  | .vrot g _ _ va _ => onGuard x g (rowP va)
  | .vladd g _ _ _ va _ => onGuard x g (rowP va)
  | .vfxl g _ va _ => onGuard x g (rowP va)
  | .vaddi _ _ va _ => rowP va
  | .vmuli _ _ va _ => rowP va
  | .vfmhi _ vd va _ => rowP vd ++ rowP va
  | .vmini _ _ va _ => rowP va
  | .vmaxi _ _ va _ => rowP va
  | .viaddi _ _ va _ => rowP va
  | .vandi _ _ va _ => rowP va
  | .vshli _ _ va _ => rowP va
  | .vmov g _ _ b => onGuard x g (bP b)
  | .mtrn g _ ma => onGuard x g (tileP ma)
  | .vputl g _ _ v => onGuard x g (rowP v)
  | .fldv g cvt _ s disp => onGuard x g (unitP x s disp.toNat (cvtUnits cvt))
  | .fstv g _ _ _ v => onGuard x g (rowP v)
  | .fldm g cvt _ s disp => onGuard x g (unitP x s disp.toNat (tileUnits cvt))
  | .fstm g _ _ _ m => onGuard x g (tileP m)
  | .mma g fmt mode _ _ md a sb bdisp => onGuard x g (
    unitP x sb bdisp.toNat (mmaUnits fmt) ++ (if mode = .ovw ∨ (x.chained md).isSome then [] else tileP md) ++
      (match a with | .tile m => tileP m | .folio s => unitP x s 0 (mmaUnits fmt) | .lane => []))
  | _ => []

/-- The reads of a strand cycle at lines with errors, column by column, before any column executes (R216, R219). -/
def State.readColumns (s : State) (k : AgentKey) (u : Nat) : State :=
  if s.phys.isEmpty then s
  else (List.range 48).foldl (fun (s : State) c =>
    let a := s.agent k
    match (if c ≤ u then KV.get? a.pipe (u - c) else none) with
    | some w =>
      let x : Ctx := ⟨a, k, (s.strand k.sk).serial, (s.strand k.sk).l, u, c, w, KV.getD a.beats (u - c) Beat.empty⟩
      if w.stage then s.readPlaces k c (wordPlaces w.ins x) else s
    | none => s) s

end Sys2Proof.Machine
end

