-- ==== Sys2Proof/Machine/Weaver.lean ====
section
/-! DEFINITION. The weaver (spec/14, spec/18): placement and admission, re-phase and repack, frame boundaries, stall
timeouts, eviction, cancellation, the end of a launch, energy and host-link budgets. -/

namespace Sys2Proof.Machine

open Sys2Proof

/-! ## Placement (R246, R247, R252, R258) -/

/-- A stride and a phase. -/
abbrev SP := Nat × Nat

/-- Two strands collide (R246). -/
def collide (a b : SP) : Bool := let m := min a.1 b.1; a.2 % m == b.2 % m

/-- A strand that is out on an image holds nothing, and neither does one that was cancelled there (R242, R258). -/
def Strand.out (x : Strand) : Bool := x.st == .evicted || (x.st == .halted && x.bases.isEmpty)

/-- Whether a strand is held by its partition (R242, R246, R258). -/
def Strand.held (x : Strand) : Bool := x.st != .absent && !x.out

/-- The strands that a partition holds, by number. -/
def State.heldStrands (s : State) (p : Nat) : List (Nat × Strand) :=
  (List.range 16).filterMap (fun n =>
    let x := s.strand ⟨p, n⟩
    if x.held then some (n, x) else none)

/-- The placement at which a strand counts: the pending one while it is re-phasing (R246). -/
def Strand.sp (x : Strand) : SP :=
  if x.st = .rephasing then (2 ^ x.nscode.toNat, x.nphase.toNat) else (2 ^ x.scode.toNat, x.phase.toNat)

/-- Halted strands and the in-field test strand are never moved (R252, R256). -/
def Strand.pinned (x : Strand) : Bool := x.st == .halted || x.ist

/-- The lowest phase of a stride that collides with none, the preferred one first. -/
def freePhase (stride pref : Nat) (placed : List SP) : Option Nat :=
  (pref :: List.range stride).find? (fun p => placed.all (fun q => !collide (stride, p) q))

/-- One strand of a repack: its number (none for the newcomer), its stride, its preferred phase. -/
abbrev Cand := Option Nat × SP

/-- Place the movable strands one after the other (R252). -/
def placeAll : List Cand → List SP → Option (List Cand)
  | [], _ => some []
  | c :: l, placed =>
    match freePhase c.2.1 c.2.2 placed with
    | none => none
    | some p => (placeAll l ((c.2.1, p) :: placed)).map (fun r => (c.1, (c.2.1, p)) :: r)

/-- Whether the shares sum to at most 1. -/
def sharesFit (l : List SP) : Bool := decide ((l.map (fun x => 16 / x.1)).foldl (· + ·) 0 ≤ 16)

/-- A repack of the held strands `hs` and a newcomer (R252): the new placement of every movable strand. -/
def repack (hs : List (Nat × Strand)) (new : SP) : Option (List Cand) :=
  let pins := (hs.filter (fun h => h.2.pinned)).map (fun h => h.2.sp)
  let mov := (hs.filter (fun h => !h.2.pinned)).map (fun h => ((some h.1, h.2.sp) : Cand))
  let byStride := [1, 2, 4, 8, 16].flatMap (fun st =>
    mov.filter (fun c => c.2.1 = st) ++ (if new.1 = st then [((none, new) : Cand)] else []))
  if sharesFit (pins ++ byStride.map (·.2)) then placeAll byStride pins else none

/-- The placement procedure of R247: the newcomer's phase, and the moves if a repack was needed. -/
def placeNew (hs : List (Nat × Strand)) (new : SP) (anyphase move : Bool) : Option (Nat × List Cand) :=
  let placed := hs.map (fun h => h.2.sp)
  if placed.all (fun q => !collide new q) then some (new.2, [])
  else match (if anyphase then (List.range new.1).find? (fun p => placed.all (fun q => !collide (new.1, p) q)) else none) with
    | some p => some (p, [])
    | none => if move then
        (repack hs new).bind (fun l => ((l.find? (fun c => c.1.isNone)).map (fun c => (c.2.2, l))))
      else none

/-! ## The slot map (R242) -/

/-- States whose strand owns entries of the map. -/
def SState.owns : SState → Bool
  | .admitted | .running | .stalled | .frozen | .evicting | .halted => true
  | _ => false

/-- Strands of a pending move that have been cut own no entries until the commit frame (R252). -/
def State.owner (s : State) (p e : Nat) : Option (BitVec 4) :=
  ((s.heldStrands p).find? (fun h => h.2.st.owns && !h.2.cutDone && e % 2 ^ h.2.scode.toNat == h.2.phase.toNat)).map
    (fun h => bv 4 h.1)

/-- Write the slot map from the strands. -/
def State.remap (s : State) (p : Nat) : State :=
  s.setPart p { s.part p with slots := Vector.ofFn (fun e : Fin 16 => s.owner p e) }

/-- The register wslot0 or wslot1 (R242). -/
def Part.wslot (x : Part) (hi : Bool) : Word :=
  bv 64 ((List.range 8).foldl (fun n i =>
    match x.slots[(bv 4 (i + if hi then 8 else 0)).toFin] with
    | some k => n + (128 + k.toNat) * 256 ^ i
    | none => n) 0)

/-! ## Re-phase (R250–R252) -/

/-- A row counts as halted when its last words have executed and every result has landed (R63). -/
def Agent.rowHalted (a : Agent) : Bool :=
  a.sqr.halted && a.pipe.isEmpty && a.cores.all (fun c => c.2.landing.isEmpty && c.2.runs.isEmpty)

/-- Every row of a strand has halted, so that its clock stands while its engines finish (R63, R250). -/
def State.rowsHalted (s : State) (k : StrandKey) : Bool :=
  !(s.agentsOf k).isEmpty && (s.agentsOf k).all (fun a => (s.agent a).rowHalted)

/-- Whether a strand's clock stands still: the re-phase point is reached at acceptance (R250). -/
def State.stopped (s : State) (k : StrandKey) : Bool :=
  let x := s.strand k
  x.st == .stalled || x.st == .frozen || x.st == .admitted || x.st == .evicting ||
    (x.st == .running && s.rowsHalted k)

/-- The re-phase cut: the strand's entries pass empty until the commit frame (R250, R251). -/
def State.rephaseCut (s : State) (k : StrandKey) : State :=
  let x := s.strand k
  (s.setStrand k { x with
    st := if x.st = .admitted ∨ x.st = .evicting then x.st else .rephasing
    left := x.st, rephaseAt := none, cutDone := true }).remap k.part

/-- A clock that has been cut for any reason is at the point of a re-phase that is pending (R250). (log 43: DEDUCED) -/
def State.cutPoint (s : State) (k : StrandKey) : State :=
  let x := s.strand k
  if x.rpp && !x.cutDone && (x.st == .stalled || x.st == .frozen || (x.st == .running && s.rowsHalted k)) then s.rephaseCut k else s

/-- A re-phase is accepted for a strand: pending placement, and the cut at once if its clock stands still (R250). -/
def State.startRephase (s : State) (k : StrandKey) (sp : SP) : State :=
  let x := s.strand k
  let code := (List.range 5).find? (fun i => 2 ^ i = sp.1)
  let s := s.setStrand k { x with
    rpp := true, nscode := bv 3 (code.getD 0), nphase := bv 4 sp.2, rephaseAt := some ((x.stime + 15) / 16 * 16) }
  if s.stopped k then s.rephaseCut k else s

/-- Record a move of the partition and start the re-phase of every strand whose placement changes (R252). -/
def State.startMove (s : State) (p : Nat) (l : List Cand) (newcomer : Option Nat) : State :=
  let moved := l.filterMap (fun c => match c.1 with
    | some n => if (s.strand ⟨p, n⟩).sp ≠ c.2 then some (n, c.2) else none
    | none => none)
  let s := moved.foldl (fun s m => s.startRephase ⟨p, m.1⟩ m.2) s
  s.setPart p { s.part p with move := some ⟨moved.map (fun m => (m.1, 0, bv 4 m.2.2)), newcomer, none⟩ }

/-- REPHASE_POINT (R250): the cut of a strand whose re-phase is pending. (log 43: DEDUCED) -/
def execRephasePoint (k : StrandKey) (s : State) : Out :=
  let x := s.strand k
  .next (if x.rpp && !x.cutDone && (x.st == .running || x.st == .stalled || x.st == .frozen) then s.rephaseCut k else s)

/-- A stall has a count: its timer runs, or has been kept by a retry or by a commit (R249). -/
def Strand.timed (x : Strand) : Bool := x.timer || x.atEntry != 0

/-- One moved strand in the commit frame (R251, R252): its new placement and the state it left. -/
def State.commitStrand (s : State) (k : StrandKey) : State :=
  let x := s.strand k
  let late := x.left == .stalled && x.timed && decide ((if x.l.limit = 0 then (s.part k.part).lay.dstall.toNat else x.l.limit) ≤ x.wstall)
  s.setStrand k { x with
    scode := x.nscode, phase := x.nphase, rpp := false, cutDone := false
    st := if x.st = .rephasing then x.left else x.st
    atEntry := if late then 1 else x.atEntry }

/-! ## Freezes by the weaver, cancellation (R249, R307, R308) -/

/-- The stall limit of a strand (R249). -/
def State.limit (s : State) (k : StrandKey) : Nat :=
  let l := (s.strand k).l.limit
  if l = 0 then (s.part k.part).lay.dstall.toNat else l

/-- Whether a command of AGEN has started (R307). -/
def ACmd.begun (c : ACmd) : Bool :=
  c.took || c.item != 0 || c.rank != 0 || !c.buf.isEmpty || c.acc.isSome || c.rem.isSome || c.fin

/-- Drop the unstarted commands of an agent's engines (R307), and its overlay load, which no word is left to use (log 73: DESIGN CHOICE). -/
def Agent.dropUnstarted (a : Agent) : Agent :=
  { a with acmds := a.acmds.filter (·.begun), xcmds := a.xcmds.filter (fun c => c.started || c.took), sqr := { a.sqr with ovly := none } }

/-- Whether a record is of a fault that froze its strand: it is pending until the strand leaves that state (R285, R286, R299). -/
def FaultRec.freezes (r : FaultRec) : Bool :=
  [1, 2, 3, 4, 5, 6, 7, 8, 11, 12, 14].contains r.kind.toNat || (r.kind == 13 && (r.cause == 1 || r.cause == 2))

/-- Whether a waiter is a command of a strand that its engine holds no more, or an overlay load that the row has no more (R235, R307). -/
def State.orphan (s : State) (k : StrandKey) : Waiter → Bool
  | .agen a q => decide (a.sk = k) && !(s.agent a).acmds.any (fun c => c.seq == q)
  | .xchg a q => decide (a.sk = k) && !(s.agent a).xcmds.any (fun c => c.seq == q)
  | .overlay a addr => decide (a.sk = k) && !(s.agent a).sqr.ovly.any (fun o => o.addr == addr)
  | _ => false

/-- CANCEL A LAUNCH (R245, R307): the strand goes to halted, unstarted commands are dropped (of a strand out on an image, all of them)
with their page requests, and the cancel is recorded; the final phase follows when the engines are done. A newcomer of a move is cancelled after its commit,
and a strand whose re-phase is pending takes its new entries at the commit frame (R252). (log 44: DEDUCED) -/
def State.cancelStrand (s : State) (k : StrandKey) (level : Nat) : State :=
  let x := s.strand k
  let p := s.part k.part
  if p.move.any (fun m => m.newcomer == some k.strand) then
    s.setPart k.part { p with move := p.move.map (fun m => { m with cancelNew := some (m.cancelNew.getD level) }) }
  else if x.st = .absent ∨ x.st = .halted then s
  else
    let out := x.st == .evicted
    let s := (s.agentsOf k).foldl (fun s a =>
      s.setAgent a (let g := (s.agent a).dropUnstarted; if out then { g with acmds := [], xcmds := [] } else g)) s
    let s := (s.forget (s.orphan k)).setStrand k { x with
      st := .halted, left := x.st, cutDone := x.cutDone || x.rpp, rephaseAt := none, cancelled := some level, finalDone := out
      timer := false, freeze := none, replay := none, evp := false, grace := none, recs := x.recs.filter (fun r => !r.freezes) }
    let s := s.record k { s.recFor k with rep := 7, kind := 13, cause := 8, aux := bv 32 level }
    s.remap k.part

/-- The freeze of a stall that has reached its limit, its record, and the front end's cancel when hold is 0 (R249,
R308). -/
def State.timeOut (s : State) (k : StrandKey) : State :=
  let x := s.strand k
  let s := s.setStrand k { x with st := .frozen, freeze := some (11, 0), timer := false, atEntry := 0 }
  let s := s.record k { s.recFor k with rep := 1, kind := 11, stc := bv 64 x.stime, op0 := bv 64 x.wstall }
  if (s.vcp x.vcp).hold then s else s.cancelStrand k 3

/-- STALL_TIMEOUT (R249, R308). -/
def execStallTimeout (k : StrandKey) (s : State) : Out :=
  let x := s.strand k
  .next (if x.st = .stalled ∧ s.limit k ≤ x.wstall then s.timeOut k else s)

/-! ## Frame boundaries (R245, R251, R252, R254) -/

/-- A strand frozen by the shadow sequencer, or to be frozen so when it starts again: only a CANCEL ends it (R289, log 92: DESIGN CHOICE). -/
def Strand.disputed (x : Strand) : Bool := x.freeze == some (13, 1)

/-- A strand may start: its primers are complete and its start time has come (R136, R245, R306). -/
def State.mayStart (s : State) (k : StrandKey) : Bool :=
  let x := s.strand k
  x.st == .admitted && !x.cutDone && (s.agentsOf k).all (fun a => (s.agent a).acmds.all (fun c => c.seq != 0)) &&
    (match x.l.startAt with | some t => decide (t ≤ s.fab.ftime) | none => true)

/-- Every cut of a pending move is made. -/
def State.moveReady (s : State) (p : Nat) : Bool :=
  (List.range 16).all (fun n => let x := s.strand ⟨p, n⟩; !x.rpp || x.cutDone)

/-- The commit frame (R251, R252); a newcomer is admitted here, so its agents' views are G now (R208). (log 60: DEDUCED) -/
def State.commitMove (s : State) (p : Nat) : State :=
  let s := (List.range 16).foldl (fun s n => if (s.strand ⟨p, n⟩).rpp then s.commitStrand ⟨p, n⟩ else s) s
  match (s.part p).move with
  | none => s
  | some m =>
    let s := s.setPart p { s.part p with move := none }
    match m.newcomer with
    | none => s
    | some n =>
      let k : StrandKey := ⟨p, n⟩
      let s := s.setStrand k { s.strand k with st := .admitted }
      let s := (s.agentsOf k).foldl (fun s a => s.setAgent a { s.agent a with v := s.snapshot }) s
      match m.cancelNew with
      | some l => s.cancelStrand k l
      | none => s

/-- WEAVE_FRAME_BOUNDARY (R245, R251, R254): energy and stretching; in an unstretched frame, commits and starts. -/
def execWeaveFrameBoundary (part : Nat) (s : State) : Out :=
  let (key, s) := s.draw
  let x := s.part part
  let e := x.energy + Config.frameEnergy part key
  .next (if x.ebud ≤ e then
      s.setPart part { x with energy := e, stretched := true, nstretched := x.nstretched + 1 }
    else
      let s := s.setPart part { x with energy := e, stretched := false }
      let s := if s.moveReady part then s.commitMove part else s
      let s := (List.range 16).foldl (fun s n =>
        let k : StrandKey := ⟨part, n⟩
        if s.mayStart k then
          let x := s.strand k
          (s.agentsOf k).foldl (fun s a => s.begin_ a)
            (s.setStrand k { x with st := if x.disputed then .frozen else .running, lastRan := some s.fab.ftime })
        else s) s
      s.remap part)

/-- ENERGY_PERIOD_START (R254): the meters are cleared. -/
def execEnergyPeriodStart (s : State) : Out :=
  .next { s with parts := s.parts.map (fun e => (e.1, { e.2 with energy := 0, nstretched := 0 })) }

/-! ## Eviction (R83, R253, R291–R294) -/

/-- The eviction cut, at either grain (R83, R253); it is the point of a re-phase that is pending, too (R250), and a frozen strand leaves
the state its fault put it in (R299). -/
def State.evictCut (s : State) (k : StrandKey) (yields : Option (List (Nat × BitVec 32))) : State :=
  let x := s.strand k
  (s.setStrand k { x with
    st := .evicting, left := x.st, yieldMask := yields, evp := false, grace := none, timer := false, lastRan := some s.fab.ftime
    recs := x.recs.filter (fun r => !r.freezes)
    cutDone := x.cutDone || x.rpp, rephaseAt := none }).remap k.part

/-- EVICT_GRACE_EXPIRY (R253): an anywhere cut where the strand stands, but for a freeze that only a CANCEL ends (R289, log 92: DESIGN CHOICE). -/
def execEvictGraceExpiry (k : StrandKey) (s : State) : Out :=
  let x := s.strand k
  let past := match x.grace with | some g => decide (g ≤ s.fab.ftime) | none => false
  .next (if x.evp && past && (x.st == .running || x.st == .stalled || (x.st == .frozen && !x.disputed)) then s.evictCut k none else s)

/-- AGEN and XCHG of an agent take a step each, and what has come for XCHG is landed (R291). -/
def State.engineSteps (s : State) (k : AgentKey) : State :=
  let s := s.agenStep k
  let s := (s.agent k).xcmds.foldl (fun s c => s.xchgStep k c.seq) s
  (s.fab.slots.filter (fun x => (x.hdr.op == 0 || x.hdr.op == 3) && fragDst x.hdr == k)).foldl (fun s x =>
    match s.slot? x.key with
    | some y => s.deliver y
    | none => s) s

/-- The engines of agents take every step they can (R208, R291). -/
def State.drainEngines (s : State) (ks : List AgentKey) : Nat → State
  | 0 => s
  | n + 1 =>
    let s' := ks.foldl (fun s k => s.engineSteps k) s
    if ks.all (fun k => s'.agent k = s.agent k) && s'.fab.slots = s.fab.slots then s' else s'.drainEngines ks n

/-- Tiles of a window that a layer holds (R293): all in a base layer, else the dirty ones; live tiles only for a YIELD; in a row that issued no YIELD at
the cut no tile counts as live (R83 speaks of the mask of the strand's YIELD, log 26: DESIGN CHOICE). -/
def State.layerTiles (s : State) (k : StrandKey) (base : Bool) (mask : Option (List (Nat × BitVec 32))) : List (AgentKey × Nat × Nat) :=
  let n := (s.strand k).l.nrows / 32
  (s.agentsOf k).flatMap fun a => (List.range 48).flatMap fun c =>
    ((List.range n).filter (fun t =>
      (base || ((s.agent a).core c).dirtyT.getLsbD t) &&
        (match mask with
          | some m => ((m.find? (fun e => e.1 = a.row)).elim 0 (·.2)).getLsbD t
          | none => true))).map (fun t => (a, c, t))

/-- Folio blocks that a layer holds (R293): none after a YIELD. -/
def State.layerBlocks (s : State) (k : StrandKey) (base yields : Bool) : List (AgentKey × Nat × Nat) :=
  let n := (s.strand k).l.nunits / 128
  if yields then []
  else (s.agentsOf k).flatMap fun a => (List.range 48).flatMap fun c =>
    ((List.range n).filter (fun b => base || ((s.agent a).core c).dirtyB.getLsbD b)).map (fun b => (a, c, b))

/-- Words of the root header of an image area (R292), lowest first. -/
def rootHeader (x : Strand) (k : StrandKey) (size newest : Nat) (scode : BitVec 3) (phase : BitVec 4) : List Word :=
  let v := pack [(64, x.l.lid.toNat), (64, size), (64, newest), (4, scode.toNat), (4, phase.toNat), (4, k.strand), (3, k.part),
    (1, x.mat.toNat), (1, x.priv.toNat), (303, 0)]
  (List.range 8).map (fun i => bv 64 (v / 2 ^ (64 * i)))

/-- Words of a layer, with their addresses in the image area from an offset on (R292, R293): which words they are is not given, so they
are free (log 26: DESIGN CHOICE). -/
def imageWords (x : Strand) (key at_ bytes : Nat) : List (Nat × Word × Bool) :=
  (List.range (bytes / 8)).map (fun i => (x.area.1 + at_ + 8 * i, Config.layerWord key i, false))

/-- The root header of a strand whose newest layer begins at an offset (R292): the first layer's stride and phase stay. -/
def headerOf (x : Strand) (k : StrandKey) (used : Nat) : List Word :=
  let first := (x.layers.head?.map (fun l => (l.scode, l.phase))).getD (x.scode, x.phase)
  rootHeader x k x.area.2 used first.1 first.2

/-- Where the next layer begins. -/
def Strand.imageUsed (x : Strand) : Nat := (x.layers.map (·.bytes)).foldl (· + ·) 64

/-- Whether the image area has no room for the next layer (R294). -/
def Strand.lacksRoom (x : Strand) (key : Nat) : Bool := decide (x.area.2 < x.imageUsed + Config.layerBytes key)

/-- How many bytes a save that finds too little room writes: a free number of those that fit (R294, log 26: DESIGN CHOICE). -/
def Strand.partBytes (x : Strand) (key : Nat) : Nat :=
  Config.pick [8, key] % (min (Config.layerBytes key) (x.area.2 - x.imageUsed) + 1)

/-- The words of a save (R293, R294): the layer, then the root header but for its newest word, which commits the layer; of one that finds
too little room, what it writes before it stops. -/
def saveWords (x : Strand) (k : StrandKey) (key : Nat) : List (Nat × Word × Bool) :=
  if x.lacksRoom key then imageWords x key x.imageUsed (x.partBytes key)
  else imageWords x key x.imageUsed (Config.layerBytes key) ++
    (((headerOf x k x.imageUsed).zipIdx).filter (fun w => w.2 ≠ 5)).map (fun w => (x.area.1 + 8 * w.2, w.1, false))

/-- The dirty bits of the units that a layer holds are cleared (R293). -/
def State.cleanSaved (s : State) (l : Layer) : State :=
  let clear := fun (s : State) (u : AgentKey × Nat × Nat) (tile : Bool) =>
    let g := s.agent u.1
    let c := g.core u.2.1
    s.setAgent u.1 (g.setCore u.2.1 (if tile then { c with dirtyT := c.dirtyT &&& ~~~(bv 32 (2 ^ u.2.2)) }
      else { c with dirtyB := c.dirtyB &&& ~~~(bv 64 (2 ^ u.2.2)) }))
  l.blocks.foldl (fun s u => clear s u false) (l.tiles.foldl (fun s u => clear s u true) s)

/-- A save that finds too little room (R294): what it wrote before stays, the root header does not change, and the strand freezes. -/
def State.abandonSave (s : State) (k : StrandKey) (key : Nat) : State :=
  let x := s.strand k
  let s := s.setStrand k { x with st := .frozen, freeze := if x.disputed then x.freeze else some (14, 1), yieldMask := none }
  s.record k { s.recFor k with rep := 1, kind := 14, cause := 1, stc := bv 64 x.stime, op0 := bv 64 (x.partBytes key) }

/-- What a layer saves is read from its memories (R216, R293): tiles and blocks, the constant banks, and the entries of the queues. -/
def State.readSaved (s : State) (k : StrandKey) (l : Layer) : State :=
  if s.phys.isEmpty then s
  else
    let s := l.tiles.foldl (fun s u => s.readPlaces u.1 u.2.1 ((List.range 32).map (fun i => .row (32 * u.2.2 + i)))) s
    let s := l.blocks.foldl (fun s u => s.readPlaces u.1 u.2.1 ((List.range 128).map (fun i => .unit (128 * u.2.2 + i)))) s
    (s.agentsOf k).foldl (fun s a =>
      let s := (List.range 48).foldl (fun s c => s.readPlaces a c ((List.range (s.strand k).l.nkb).map (fun i => .kb i))) s
      poolQueues.foldl (fun s n => ((s.agent a).entryPlaces n).foldl (fun s p => s.readEntry a n p) s) s) s

/-- A save that has room (R292, R293): the root header's newest word is written last, which commits the layer; then the entries and windows
are released. -/
def State.commitSave (s : State) (k : StrandKey) (key : Nat) : State :=
  let x := s.strand k
  let chain := x.layers.length
  let base := chain % 16 == 0
  let used := x.imageUsed
  let layer : Layer := ⟨used, key, chain % 16, base, x.stime, x.scode, x.phase, x.yieldMask.isSome, Config.layerBytes key,
    s.layerTiles k base x.yieldMask, s.layerBlocks k base x.yieldMask.isSome⟩
  let s := (s.readSaved k layer).hostWrite k.part x.l.td0 (x.area.1 + 40) ((headerOf x k used).getD 5 0)
  let s := (s.cleanSaved layer).leaveLines (· == k)
  let x := s.strand k
  (s.setStrand k { x with st := .evicted, layers := x.layers ++ [layer], bases := [] }).remap k.part

/-- Before the image (R208, R291): the engines of every agent take what steps they can, then each agent commits. The eviction closes a
replayable phase, but the copy and the marks of one whose replay is due travel with the strand (log 40: DEDUCED). -/
def State.saveBegin (s : State) (k : StrandKey) : State :=
  let ks := s.agentsOf k
  let s := s.drainEngines ks (2 ^ 64)
  let s := ks.foldl (fun s a => s.phaseStep a) s
  if (s.strand k).replay.isSome then s else ks.foldl (fun s a => s.setAgent a (s.agent a).closePhase) s

/-- The save of a strand that is under way, or one that begins now, after the engines' last steps. -/
def State.saveWork (s : State) (k : StrandKey) : Work × State :=
  let w := workOn (s.strand k).work (.evictionSave k)
  if w.begun then (w, s)
  else
    let (key, s) := (s.saveBegin k).draw
    ({ w with begun := true, left := saveWords (s.strand k) k key, key := key }, s)

/-- One word of a save before the others, by a step of its own (R209, log 37: DESIGN CHOICE). -/
def State.saveAhead (s : State) (k : StrandKey) : State :=
  if (s.strand k).st ≠ .evicting then s
  else
    let (w, s) := s.saveWork k
    let s := s.hostWrites k.part (s.strand k).l.td0 (w.left.take 1)
    s.setStrand k { s.strand k with work := some { w with left := w.left.drop 1 } }

/-- EVICTION_SAVE (R208, R220, R291–R294): the engines finish what they can, each agent commits, and the layer is written: those of its
words that no earlier step wrote. -/
def execEvictionSave (k : StrandKey) (s : State) : Out :=
  .next (if (s.strand k).st ≠ .evicting then s
    else
      let (w, s) := s.saveWork k
      let s := s.hostWrites k.part (s.strand k).l.td0 w.left
      let s := s.setStrand k { s.strand k with work := none }
      if (s.strand k).lacksRoom w.key then s.abandonSave k w.key else s.commitSave k w.key)

/-! ## The end of a launch (R63, R173, R210, R271, R307) -/

/-- What a head command of AGEN waits for at launch end: a drain entry, a q9 token or q8 room (R173). A DRAIN waits for an entry only
once its item has passed its checks and its translation (R177). -/
def State.starving (s : State) (k : AgentKey) (c : ACmd) : Bool :=
  let a := s.agent k
  (c.fin && c.tok && decide (255 ≤ a.q.q8.length)) || (!c.fin && c.wtk && !c.took && a.q.q9 == 0) ||
    (match c.ins with
      | .drain q5 f => (a.q.beat (if q5 then 5 else 4)).items.isEmpty && c.rem.isNone && c.acc.isNone && c.page == .none &&
          (!c.wtk || c.took) && (a.td[f.td.toFin]).any (fun d =>
            decide (c.buf.length < (shapeOf (dFmt d)).beats) && (a.itemCheck (s.strand k.sk).l c f c.rank).isNone &&
            (match (s.agenLoc k f d (itemCoord c f c.rank c.item) (itemOffset c f c.rank c.item (shapeOf (dFmt d)).bytes)
                (shapeOf (dFmt d)).bytes true).1 with
              | .runs _ | .remote .. => true
              | _ => false))
      | _ => false)

/-- Cancel every open RECV, one that waits for queue room or a page too (R235), and abandon a starving AGEN command (R173, R271). -/
def State.starve (s : State) (k : AgentKey) : State :=
  let a := s.agent k
  let open_ := a.xcmds.filter (fun (c : XCmd) => match c.ins with
    | .recv .. => !c.fin
    | _ => false)
  let a := { a with xcmds := a.xcmds.map (fun (c : XCmd) => match c.ins with
    | .recv .. => { c with cancelled := true, fin := true }
    | _ => c) }
  let a := a.completeX a.xcmds.length
  let s := (s.setAgent k a).forget (fun w => match w with | .xchg b q => b == k && open_.any (fun c => c.seq == q) | _ => false)
  match a.acmds with
  | [] => s
  | c :: _ => if s.starving k c && !a.haltA then
      let s := s.agenNote k c 0x22 c.col
      let a := s.agent k
      s.setAgent k { a with acmds := a.acmds.tail, tca := if c.seq = 0 then a.tca else c.seq }
    else s

/-- The wait of a PHASE is over (R79, R202, R203): with `wait` the commands before it are complete; at fabric scope the XWRs, XATs and
remote items before it have been applied. -/
def State.phaseReady (s : State) (k : AgentKey) (p : PhaseReq) : Bool :=
  let a := s.agent k
  (!p.wait || (decide (p.aSeq ≤ a.tca) && decide (p.xSeq ≤ a.tcx))) &&
  (!p.fabric ||
    (a.xcmds.all (fun c => (match c.ins with
      | .xwr _ | .xat _ => c.fin || decide (p.xSeq < c.seq)
      | _ => true)) &&
     a.acmds.all (fun c => decide (p.aSeq < c.seq) || (c.rem.all (·.done.isSome) && !s.remoteAhead k c))))

/-- Slots of messages for the agents of a strand. -/
def Slot.isFor (k : StrandKey) (x : Slot) : Bool := decide ((fragDst x.hdr).sk = k) && !x.isItem

/-- Messages for the agents of a launch that ends: decoded ones are discarded and counted (R271); a slot that collects goes on until its
deadline (R270). -/
def State.dropMessages (s : State) (k : StrandKey) : State :=
  (s.fab.slots.filter (fun x => x.isFor k && x.st != .collecting)).foldl (fun s x => s.discard x) s

/-- Whether a waiter belongs to one of the strands selected. -/
def State.waiterIn (s : State) (sel : StrandKey → Bool) : Waiter → Bool
  | .agen a _ | .xchg a _ | .overlay a _ => sel a.sk
  | .slot key => (s.slot? key).any (fun x => sel (fragDst x.hdr).sk && !x.isItem)
  | .gone => false

/-- What suspicion records need to know of the launch in a strand (R295): nothing of one that has never started; one that is out on an
image, or waits to start again, ran until its cut. -/
def State.ranOf (s : State) (k : StrandKey) : List Ran :=
  let x := s.strand k
  match x.lastRan with
  | none => []
  | some t =>
    let ranTo := if x.st = .admitted ∨ x.out then t else s.fab.ftime
    if x.ist then []
    else (s.agentsOf k).map (fun a => let g := s.agent a; ⟨a, x.l.lid, x.vcp, x.era, x.startAt, ranTo, g.phaseLog, g.sentLog⟩)

/-- The strand becomes absent: entries, windows and agents are released (R245); page requests that are posted stay held (R234). -/
def State.releaseStrand (s : State) (k : StrandKey) : State :=
  let ran := s.ranOf k
  let s := ((s.forget (s.waiterIn (· == k))).dropMessages k).leaveLines (· == k)
  let s := { s with history := s.history ++ ran, agents := s.agents.filter (fun a => decide (a.1.sk ≠ k)) }
  (s.setStrand k Strand.absent).remap k.part

/-- The final phase (R210, R307): once nothing is left in the engines and the wait of its scope is over, each agent takes its phase step;
a cancelled launch takes the device-scope step. -/
def State.finalPhase (s : State) (k : StrandKey) : State :=
  let ks := s.agentsOf k
  let x := s.strand k
  let s := ks.foldl (fun s a => s.starve a) s
  if ks.all (fun a => (s.agent a).acmds.isEmpty && (s.agent a).xcmds.isEmpty &&
      s.phaseReady a ⟨x.l.fabric && x.cancelled.isNone, true, 0, 0⟩) then
    let s := ks.foldl (fun s a => s.phaseStep a) s
    s.setStrand k { s.strand k with st := .halted, finalDone := true }
  else s

/-- The counters of a launch that are still to be added to, each by an atomic step (R209, R307): one completion, or one cancellation in the
high half. -/
def State.endWork (s : State) (k : StrandKey) : Work :=
  let x := s.strand k
  let w := workOn x.work (.launchEnd k)
  let n : Word := if x.cancelled.isSome then 0x100000000 else 1
  if w.begun then w
  else { w with begun := true, left := ((x.l.ccnt, n, false) :: (([x.l.gcnt, x.l.jcnt].filter (· ≠ 0)).map (fun a => (a, n, false)))) }

/-- One counter before the others, by a step of its own (R209, log 37: DESIGN CHOICE). -/
def State.endAhead (s : State) (k : StrandKey) : State :=
  let x := s.strand k
  if x.st = .halted ∧ x.finalDone ∧ !x.cutDone then
    let w := s.endWork k
    let s := s.hostAdds k.part x.l.td0 (w.left.take 1)
    s.setStrand k { s.strand k with work := some { w with left := w.left.drop 1 } }
  else s

/-- LAUNCH_END (R63, R173, R210, R245, R307). From running: once every row has halted, open RECVs and starving commands
end; once the engines are done, the final phase runs and the strand is halted; a re-phase that is pending comes first (R250). From
halted: a cancelled launch takes its final phase; then the counters are written and the strand is absent. (log 64: DEDUCED) -/
def execLaunchEnd (k : StrandKey) (s : State) : Out :=
  let x := s.strand k
  .next (if x.st = .halted ∧ x.cutDone then s
    else if x.st = .halted ∧ !x.finalDone then s.finalPhase k
    else if x.st = .halted then
      (s.hostAdds k.part x.l.td0 (s.endWork k).left).releaseStrand k
    else if x.st = .running ∧ (s.agentsOf k).all (fun a => (s.agent a).rowHalted) then
      if x.rpp && !x.cutDone then s.rephaseCut k else s.finalPhase k
    else s)

/-! ## Host-link budgets (R255) -/

/-- A refill: a negative balance is carried (R255). -/
def LinkQ.refill (q : LinkQ) (h : Nat) : LinkQ := { q with bal := (h : Int) + min q.bal 0 }

/-- The counters of a partition are refilled, and what waited for budget goes as far as it lasts (R255). -/
def State.refillLink (s : State) (p : Nat) : State :=
  let x := s.part p
  let s := s.setPart p { x with
    rd := x.rd.refill x.lay.hrd.toNat, wrq := x.wrq.refill x.lay.hwr.toNat, ats := x.ats.refill x.lay.hats.toNat }
  ((s.drainReads p x.rd.wait.length).flushWrites p).drainAts p x.ats.wait.length

/-- HOST_BUDGET_REFILL (R255). -/
def execHostBudgetRefill (s : State) : Out :=
  .next (s.parts.foldl (fun s e => s.refillLink e.1) s)

/-- HOST_LINK_REQUEST (R255). -/
def execHostLinkRequest (part : Nat) (kind : LinkReq) (bytes : Nat) (s : State) : Out :=
  .next (match kind with
    | .read => s.pushRead part ((bytes + 63) / 64) none
    | .write => s.pushWrite part ((bytes + 63) / 64) none
    | .ats => s.pushAts part 1 none)

end Sys2Proof.Machine
end

