-- ==== Sys2Proof/Machine/Strand.lean ====
section
/-! DEFINITION. A strand cycle as a whole (R10, R11, R30–R32): it opens, its words issue one by one (Fetch), and it closes:
either every column executes and results land, or what it did is undone and the clock stands. -/

namespace Sys2Proof.Machine

open Sys2Proof

/-- Land one pending result of the sequencer (R23). -/
def Agent.landPend (a : Agent) (t key : Nat) : Pend → Agent
  | .x r v => if r = 0 then a else { a with sqr := { a.sqr with x := a.sqr.x.set r.toFin v } }
  | .a r v => a.putA r v
  | .fpc v => { a with sqr := { a.sqr with fpc := v } }
  | .ovf v => { a with sqr := { a.sqr with ovf := v } }
  | .colset r c => { a with colset := a.colset.set r.toFin c }
  | .crt r c => { a with crt := a.crt.set r.toFin c }
  | .rot rs ts => { a with sqr := { a.sqr with rowsz := rs, tilesz := ts, vrot := 0, mrot := 0 } }
  | .observe x n => a.observe x n t key

/-- Land the pending results of a strand cycle, in text order. -/
def Agent.landAll (a : Agent) (t key : Nat) : Agent :=
  let ps := a.sqr.pend
  let a := ps.foldl (fun a p => a.landPend t key p) a
  { a with sqr := { a.sqr with pend := [], skip := [] } }

/-- What the shadow may no longer speak of is forgotten (R289). -/
def Agent.pruneRecent (a : Agent) (u : Nat) : Agent :=
  { a with recent := a.recent.filter (fun e => decide (u < e.t + 5)), landed := a.landed.filter (fun e => decide (u < e.1 + 5)) }

/-- The row's words in flight and beats in flight after strand cycle u (R19, R30). -/
def Agent.age (a : Agent) (u : Nat) : Agent :=
  { a with pipe := a.pipe.filter (fun w => decide (u < w.1 + 47)), beats := a.beats.filter (fun b => decide (u < b.1 + 48)) }

/-- Discard what is in flight in an agent of a strand whose replayable phase consumed poison (R221). -/
def Agent.discard (a : Agent) : Agent :=
  { a with
    pipe := [], beats := []
    cores := a.cores.map (fun c => (c.1, { c.2 with landing := [], runs := [], lastM := none })) }

/-- Undo the issue of a strand cycle (R11, R30): what its reads of lines with errors stored stays, and of their counts that of the lines
lost, which no later read counts again. (log 46: DEDUCED) -/
def State.restore (s : State) (k : StrandKey) : State :=
  let x := s.strand k
  let s := x.base.foldl (fun s b => s.setAgent b.1 b.2) s
  if x.base.isEmpty then s
  else { s with memstat := s.memstat.map (fun e => (e.1, { KV.getD x.statBase e.1 Memstat.init with ucnt := e.2.ucnt })) }

/-- A strand whose attempt has stalled: the timer starts at the first entry that passes empty; a retry after a timeout
keeps its count and freezes again (R249). (log 53: DEDUCED) -/
def State.stallClose (s : State) (k : StrandKey) : State :=
  let x := s.strand k
  let s := s.setStrand k { x with wstall := if x.timed then x.wstall else 0, timer := true, atEntry := 0 }
  if x.atEntry = 2 ∧ s.limit k ≤ x.wstall then s.timeOut k else s

/-- An agent takes the phase step it waits for, if it can (R79): at an entry that its strand owns, agents in row order (log 97: DESIGN CHOICE). -/
def State.tryPhase (s : State) (a : AgentKey) : State :=
  match (s.agent a).sqr.phase with
  | none => s
  | some p =>
    if s.phaseReady a p then
      let s := s.phaseStep a
      s.setAgent a { s.agent a with sqr := { (s.agent a).sqr with phase := none } }
    else s

/-- OPEN a strand cycle: the agents as they stand are kept, so that nothing issues unless everything does (R11). Queue
pointers whose copies differ freeze the strand instead (R219). A strand with a replay to come waits for its rewind (R221);
one with a PHASE takes the phase steps that it can and stalls until they are all taken (R79, R248). -/
def State.openCycle (s : State) (k : StrandKey) : State :=
  let ks := s.agentsOf k
  match s.phys.find? (fun p => match p with | .queueCopy a => ks.contains a | _ => false) with
  | some (.queueCopy a) =>
    let s := { s with phys := s.phys.erase (.queueCopy a) }
    let s := s.record k { s.recForAgent a with rep := 0, kind := 13, cause := 2, stc := bv 64 (s.strand k).stime }
    s.freezeStrand k 13 2
  | _ =>
    if (s.strand k).replay.isSome then (s.setStrand k { s.strand k with st := .stalled }).stallClose k
    else
      let s := ks.foldl (fun s a => s.tryPhase a) s
      if ks.any (fun a => (s.agent a).sqr.phase.isSome) then
        (s.setStrand k { s.strand k with st := .stalled }).stallClose k
      else
        let s := s.setStrand k { s.strand k with st := .running, base := ks.map (fun a => (a, s.agent a)), statBase := s.memstat }
        let s := ks.foldl (fun s a => s.setAgent a { s.agent a with sqr := { (s.agent a).sqr with bad := false } }) s
        { s with cyc := some ⟨k, s.rows k.part, false⟩ }

/-- The records of residues that did not match (R290). -/
def State.residueRecs (s : State) (a : AgentKey) (rs : List (Nat × Nat × Nat × Bool)) : State :=
  rs.foldl (fun s r => s.record a.sk { s.recForAgent a with
    rep := 5, kind := 13, cause := 4, col := bv 6 r.1, stc := bv 64 r.2.1
    aux := bv 32 (r.2.2.1 + if r.2.2.2 then 0 else 256) }) s

/-- Every column of one agent executes, and what its results write is stored anew (R20, R21, R215). -/
def State.runAgent (s : State) (a : AgentKey) : State × Bool :=
  let x := s.strand a.sk
  let u := x.stime
  let s := s.readColumns a u
  let o := (s.agent a).columns a x.serial x.l s.phys u
  let s := o.wrote.foldl (fun s p => s.wrotePlace a p.1 p.2) (s.setAgent a (((o.a.landAll u s.fresh).age u).pruneRecent u))
  let s := { s with
    phys := s.phys.filter (fun p => match p with | .residue b c _ _ => !(b == a && o.recs.any (fun r => r.1 == c)) | _ => true) }
  ((s.draw.2).residueRecs a o.recs, o.consumed && (s.agent a).swap.isSome)

/-- A replayable phase consumed poison (R221): what is in flight in the strand is discarded and the strand waits for its engines. -/
def State.replayCut (s : State) (k : StrandKey) : State :=
  let s := (s.agentsOf k).foldl (fun s a => s.setAgent a (s.agent a).discard) s
  let x := s.strand k
  s.setStrand k { x with st := .stalled, replay := some x.stime, timer := false }

/-- A YIELD with an eviction pending cuts at t+1; entries in a beat or result queue make it an anywhere cut (R83). -/
def State.yieldCut (s : State) (k : StrandKey) : State :=
  let ks := s.agentsOf k
  let ys := ks.filterMap (fun a => (s.agent a).sqr.yield.map (fun m => (a.row, m)))
  let held := ks.any (fun a => [0, 1, 2, 3, 4, 5, 6, 7, 12, 13].any (fun n => !(s.agent a).q.isEmpty n))
  let s := ks.foldl (fun s a => s.setAgent a { s.agent a with sqr := { (s.agent a).sqr with yield := none } }) s
  s.evictCut k (if held then none else some ys)

/-- CLOSE a strand cycle: undone if a fault or a stall was met, else the columns run, results land, beats advance, and
the clock advances by one (R10, R11, R19–R23, R30). -/
def State.closeCycle (s : State) (k : StrandKey) : State :=
  let s := { s with cyc := none }
  match (s.strand k).st with
  | .frozen =>
    let s := s.restore k
    s.setStrand k { s.strand k with base := [], statBase := [] }
  | .stalled =>
    let s := s.restore k
    (s.setStrand k { s.strand k with base := [], statBase := [] }).stallClose k
  | .running =>
    let ks := s.agentsOf k
    let (s, hit) := ks.foldl (fun (acc : State × Bool) a =>
      let (s, h) := acc.1.runAgent a
      (s, acc.2 || h)) (s, false)
    let x := s.strand k
    let s := s.setStrand k { x with stime := x.stime + 1, base := [], statBase := [], timer := false, atEntry := 0 }
    if hit then s.replayCut k
    else if ks.any (fun a => (s.agent a).sqr.yield.isSome) then s.yieldCut k
    else if ks.any (fun a => (s.agent a).sqr.phase.isSome) then
      s.setStrand k { s.strand k with st := .stalled, timer := false }
    else s
  | _ => s.setStrand k { s.strand k with base := [], statBase := [] }

/-- STRAND_CYCLE (R10, R11): opens a strand cycle of a running strand, or closes the one whose words have issued. -/
def execStrandCycle (k : StrandKey) (s : State) : Out :=
  .next (match s.cyc with
  | some c => if c.key = k then (s.closeCycle k).cutPoint k else s
  | none => if (s.strand k).st = .running then (s.openCycle k).cutPoint k else s)

/-- STALL_RELEASE (R248): phase steps that can be taken are taken; then the strand cycle is tried in full. -/
def execStallRelease (k : StrandKey) (s : State) : Out :=
  .next (if (s.strand k).st ≠ .stalled ∨ (s.strand k).replay.isSome ∨ s.cyc.isSome then s
  else (s.openCycle k).cutPoint k)

/-- Restore an agent from the copy of its SWAP at strand cycle T (R84, R221). (log 40: DEDUCED) -/
def Agent.rewind (a : Agent) (w : SwapCopy) (T : Nat) : Agent :=
  let d := T - w.t
  let q := w.sqr
  let up := fun (l : Loop) => { l with b := l.b + d }
  { a with
    sqr := { q with
      text0 := a.sqr.text0, text1 := a.sqr.text1, len0 := a.sqr.len0, len1 := a.sqr.len1, prev := none
      loops := q.loops.map up, mmaFree := T
      refs := ⟨q.refs.seq + d, q.refs.core + d, q.refs.agen + d, q.refs.xchg + d⟩ }
    q := w.queues
    swap := some { w with t := T, sqr := { q with loops := q.loops.map up
                                                  refs := ⟨q.refs.seq + d, q.refs.core + d, q.refs.agen + d, q.refs.xchg + d⟩ } }
    cores := a.cores.map (fun c => match KV.get? w.cores c.1 with
      | some v => (c.1, { c.2 with s := v.1, p := v.2 })
      | none => c) }

/-- REPLAY_RESTART (R221, R222): once every issued command has completed, the copy is restored, and the strand runs from the strand
cycle of the cut; with the third retry the launch is cancelled instead, which is recorded as of level 3 (log 88: DESIGN CHOICE). Until then
the wait is as a stall (R249). -/
def execReplayRestart (k : StrandKey) (s : State) : Out :=
  let x := s.strand k
  .next (match x.replay with
  | none => s
  | some T =>
    if x.st = .stalled ∧ (s.agentsOf k).all (fun a => (s.agent a).idleEngines) then
      let s := (s.agentsOf k).foldl (fun s a => match (s.agent a).swap with
        | some w => s.setAgent a ((s.agent a).rewind { w with retry := w.retry + 1 } T)
        | none => s) s
      let s := s.setStrand k { s.strand k with st := .running, replay := none, timer := false, atEntry := 0 }
      if (s.agentsOf k).any (fun a => (s.agent a).swap.any (fun w => decide (3 ≤ w.retry))) then
        (s.record k { s.recFor k with rep := 1, kind := 13, cause := 3, stc := bv 64 T }).cancelStrand k 3
      else s
    else s.stallClose k)

/-- Change the record of a row's overlay load. -/
def State.changeOvly (s : State) (a : AgentKey) (f : Overlay → Overlay) : State :=
  s.setAgent a { s.agent a with sqr := { (s.agent a).sqr with ovly := (s.agent a).sqr.ovly.map f } }

/-- The overlay load goes on with an item of its image at an offset of td0 (R85, R207): its words read so far, or all of its bytes, or
the cause of its fault. A page that is not here is asked for as an item of AGEN with number 0, and the load waits (R233, log 73: DESIGN CHOICE). -/
def State.overlayItem (s : State) (a : AgentKey) (o : Overlay) (d : Desc) (x n : Nat) : Option (Except Unit (List PByte)) × State :=
  let go := fun (s : State) (c : Access) =>
    let (c, s) := s.readOn (some a) c
    let keep := fun (v : Option Access) =>
      s.changeOvly a (fun o => { o with acc := v })
    if c.finished then (some (.ok c.got), keep none) else (none, keep (some c))
  match o.acc with
  | some c => go s c
  | none =>
    match s.flatLoc a .overlay 0 d x n false with
    | (.runs l, s) => go s ⟨l, [], 0⟩
    | (.page kd g, s) => (none, s.postPage (.overlay a o.addr) a.part (pageRecord d g (bv 64 x) 0 kd a false false 0))
    | (_, s) => (some (.error ()), s)

/-- OVERLAY_LOAD_COMPLETE (R85, R207): the load goes on: the header, then the image's words into the other bank, all of them once the last
is read (log 80: DESIGN CHOICE), without their poison, which the text store does not hold (log 93: DESIGN CHOICE); a fault is kept for
OVLYS. What an earlier load of the row asked for is forgotten. -/
def execOverlayLoadComplete (a : AgentKey) (s : State) : Out :=
  .next (match (s.agent a).sqr.ovly with
  | none => s
  | some o =>
    if o.done || o.page != .none || !(s.strand a.sk).enginesRun then s
    else
      let s := (s.forget (fun w => match w with | .overlay b x => b == a && x != o.addr | _ => false)).begin_ a
      let fail := fun (s : State) (c : Nat) =>
        s.changeOvly a (fun o => { o with done := true, err := some c, acc := none })
      let x := o.addr.toNat
      let tlen := (s.strand a.sk).l.tlen
      if x % 8 ≠ 0 then fail s 1
      else match (s.agent a).td[(0 : Fin 16)] with
        | none => fail s 2
        | some d =>
          if o.words = 0 then
            match s.overlayItem a o d x 8 with
            | (none, s) => s
            | (some (.error _), s) => fail s 2
            | (some (.ok b), s) =>
              let h := natOfBytes (b.map (·.1))
              if h = 0 ∨ 16384 < h then fail s 3
              else if tlen < h then fail s 4
              else s.changeOvly a (fun o => { o with words := h, acc := none })
          else
            match s.overlayItem a o d (x + 8) (8 * o.words) with
            | (none, s) => s
            | (some (.error _), s) => fail s 2
            | (some (.ok b), s) =>
              let g := s.agent a
              let other := !g.sqr.bank
              let q := (List.range o.words).foldl (fun (q : Sqr) i =>
                q.putText other i (bv 64 (natOfBytes (((b.drop (8 * i)).take 8).map (·.1))))) g.sqr
              let q := if other then { q with len1 := o.words } else { q with len0 := o.words }
              ((s.setAgent a { g with sqr := q }).changeOvly a (fun o => { o with done := true, err := none, acc := none })).wroteTexts a other
                o.words)

end Sys2Proof.Machine
end

