-- ==== Sys2Proof/Machine/Fetch.lean ====
section
/-! DEFINITION. Fetch (R48–R53, R56–R58, R66, R67, R287): loop boundaries, the next word of the row whose words issue, its
issue time and its checks, and the end of a row's strand cycle. -/

namespace Sys2Proof.Machine

open Sys2Proof

/-- What a micro-step ends in: a state, or an instruction to execute in a state. -/
inductive Act where
  | done (s : State)
  | run (i : Instr) (s : State)

/-! ## Loop boundaries (R51, R52, R66, R67) -/

/-- Rotation and stage predicates advance at the end of an iteration (R66). -/
def Sqr.advance (q : Sqr) (l : Loop) : Sqr :=
  { q with
    vrot := if q.rowsz = 0 then q.vrot else (q.vrot + q.rowsz - 1) % q.rowsz
    mrot := if q.tilesz = 0 then q.mrot else (q.mrot + q.tilesz - 1) % q.tilesz
    p := (q.p <<< 1) ||| (if l.i + 1 < l.n then 1 else 0) }

/-- One boundary of the innermost loop: the next iteration, or the end of the loop (R66, R67). -/
def Sqr.endIteration (q : Sqr) (l : Loop) (outer : List Loop) : Sqr :=
  let b := l.b + l.ip
  let q := q.advance l
  if q.leaving && outer.isEmpty then
    { q with p := l.saved, loops := [], refs := Refs.all (b - 1), leaving := false, prev := none }
  else if l.i + 1 < l.n + l.st - 1 then
    { q with loops := { l with i := l.i + 1, b := b } :: outer, refs := Refs.all (b - 1), pc := l.origin, prev := none }
  else { q with p := l.saved, loops := outer, refs := Refs.all (b - 1), prev := none
                leaving := q.leaving && !outer.isEmpty }

/-- The boundaries due at strand cycle t: the sequencer after them, and the loop whose kernel overran, if one did (R51, R52).
(log 18: DEDUCED) -/
def Sqr.boundaries (t : Nat) : Nat → Sqr → Sqr × Option Loop
  | 0, q => (q, none)
  | f + 1, q =>
    match q.loops with
    | [] => (q, none)
    | l :: outer =>
      if t < l.b + l.ip then (q, outer.find? (fun o => decide (o.b + o.ip ≤ t)))
      else if q.pc ≠ l.origin + l.len then (q, some l)
      else Sqr.boundaries t f (q.endIteration l outer)

/-! ## Words -/

/-- The LIT words that stand after the word at index i, at most the number it owns (R35, R36). -/
def State.litsAt (s : State) (w : Word) (i : Nat) : List Word :=
  ((List.range (litCount w)).map (fun j => (i + 1 + j, s.textWord s.cur s.sqr.bank (i + 1 + j)))).takeWhile
    (fun e => decide (e.1 < s.myStrand.l.tlen) && isLit e.2) |>.map (·.2)

/-- The engine of a word that has one (R33). -/
def hasEng (w : Word) : Bool := (engOf w).isSome

/-- Order of the engines in the text (R11). -/
def engRank : Eng → Nat
  | .seq => 0 | .core => 1 | .agen => 2 | .xchg => 3

/-- The index at which the innermost loop's kernel ends. -/
def Sqr.kernelStop (q : Sqr) : Option Nat := q.loops.head?.map (fun l => l.origin + l.len)

/-- A trailer behind a word that ends the stream, by a HALT or else by a taken branch or an OVLYS, is not fetched (R58, R86, R137): the
image's last word, whatever its reserved bits, and after a HALT in the launch image, whose length nothing tells (R62), one at any
place. (log 16: DEDUCED) -/
def State.trailerAfter (s : State) (halt : Bool) (w : Word) (i : Nat) : Bool :=
  isLit w && (decide (i + 1 = s.sqr.imageLen) || (halt && isTrailer w && !s.sqr.overlaid))

/-- Whether a word ends the stream in the strand cycle it issues in, and whether by a HALT (R50, R63, R64, R86). -/
def State.endsStream (s : State) (w : Word) : Option Bool :=
  let ends := fun (b : Bool) => if b then some false else none
  match decodeWord w [0, 0] with
  | .ok .halt => some true
  | .ok .ovlys | .ok .ret => some false
  | .ok (.br c xa xb _) | .ok (.call c xa xb _) => ends (brHolds c (s.xr xa) (s.xr xb))
  | .ok (.bq q t _) => ends (qTestHolds t (s.bqHead q t).me.q q.toNat)
  | _ => none

/-- How many LIT words follow index `i`: every one has the nearest instruction word before it as its owner and takes a fetch slot
with it (R35), but a trailer behind the stream's end; `n` words are the owner's own operands, `stop` says whether and how the stream
ends in this strand cycle. -/
def State.litRun (s : State) (stop : Option Bool) (n : Nat) : Nat → Nat → Nat
  | 0, _ => 0
  | f + 1, i =>
    let w := s.textWord s.cur s.sqr.bank i
    if s.myStrand.l.tlen ≤ i ∨ !isLit w ∨ (n = 0 ∧ stop.any (fun h => s.trailerAfter h w i)) then 0
    else s.litRun stop (n - 1) f (i + 1) + 1

/-- The words of the present row that are due at strand cycle t, from the present place on, each with its index and the number of LIT
words that it owns (R35, R48, R53, log 66: DEDUCED). -/
def State.dueWords (s : State) (t : Nat) : Nat → Option Bool → Refs → Nat → List (Nat × Word × Nat)
  | 0, _, _, _ => []
  | f + 1, stop, r, i =>
    let q := s.sqr
    if s.myStrand.l.tlen ≤ i ∨ q.kernelStop = some i then []
    else
      let w := s.textWord s.cur q.bank i
      match engOf w with
      | none => []
      | some e =>
        if r.get e + 1 + wordIdle w ≠ t then []
        else
          let stop := stop.or (s.endsStream w)
          let lits := s.litRun stop (litCount w) (s.myStrand.l.tlen - i) (i + 1)
          (i, w, lits) :: (if wordEng w = 0 ∧ wordOp w = 0x0C then [] else s.dueWords t f stop (r.set e t) (i + 1 + lits))

/-- What a word waits for, where it is one that can stall (R25, R78, R80, R84–R86, R185). -/
def Sqr.stallCond (q : Sqr) : Instr → Option StallCond
  | .inj n true _ | .popt n true _ | .qpop n true _ => some (.filled n.toNat)
  | .cap n true _ | .pusht n true _ => some (.open_ n.toNat)
  | .lds q7 .. => some (.room (if q7 then 7 else 6) 1)
  | .waittc tcx false xa _ => some (.reaches tcx (q.xr xa).toNat)
  | .swap true => some .idle
  | .ovlys => some .overlay
  | i => (atomOf i).map (fun a => .room (if a.rq then 7 else 6) (if a.wid = .w128 then 2 else 1))

/-- Whether a word of a row that is due at the strand's present strand cycle waits (R245, R248); one that RESUME passes over does not
(R288). -/
def State.rowWaits (s : State) (a : AgentKey) : Bool :=
  let s := { s with cur := a }
  let q := (Sqr.boundaries s.t 6 s.sqr).1
  !q.halted && ((s.setSqr q).dueWords s.t 7 none q.refs q.pc).any (fun e => !q.skip.contains e.1 &&
    (match decodeWord e.2.1 [0, 0] with
      | .ok i => (q.stallCond i).any (s.waits a)
      | .error _ => false))

/-- Whether a row's condition for the strand's present strand cycle holds (R245, R248): a word that waits, a PHASE whose wait is not over,
or a rewind to come (R221). -/
def State.stallHolds (s : State) (k : StrandKey) : Bool :=
  (s.strand k).replay.isSome ||
    (s.agentsOf k).any (fun a => (s.agent a).sqr.phase.any (fun p => !s.phaseReady a p) || s.rowWaits a)

/-- RETURN FROM A FREEZE (R32, R245, R249, R288): the strand runs again at the same strand cycle, or is stalled where a row's
condition for it still holds. -/
def State.unfreeze (s : State) (k : StrandKey) (resetTimer : Bool) : State :=
  let x := s.strand k
  let timed := (x.freeze.map (·.1)) == some 11
  let waits := s.stallHolds k
  s.setStrand k { x with
    st := if waits then .stalled else .running
    freeze := none
    atEntry := if timed && !resetTimer then 2 else 0
    recs := x.recs.filter (fun r => !r.freezes)
    wstall := if resetTimer then 0 else x.wstall
    timer := timed && resetTimer && waits }

/-- Control words that a kernel may not hold (R52). -/
def isControl : Instr → Bool
  | .start | .halt | .br .. | .call .. | .ret | .bq .. | .yield _ | .swap _ | .ovlys => true
  | _ => false

/-- Read the lines of the LIT words of the word at i, up to the first that is no LIT in good form, or whose line is lost:
how many are good, and the state after the reads. One that RESUME passes over counts as good (R37, R219, R288). -/
def State.goodLits (s : State) (i : Nat) : List Word → Nat × State
  | [] => (0, s)
  | w :: ws =>
    if s.sqr.skip.contains (i + 1) then let (n, s) := s.goodLits (i + 1) ws; (n + 1, s)
    else if (litValue w).isNone then (0, s)
    else
      let (lost, s') := s.readText (i + 1)
      if lost then (0, s) else let (n, s) := s'.goodLits (i + 1) ws; (n + 1, s)

/-- A word that issues now: decoded, checked, its references set, and handed to its meaning (R48, R56, R287, R288). A LIT word
of its own that is no good is met next, at its own index, after every check of the word itself (R37, R287). -/
def State.issueWord (s : State) (w : Word) (e : Eng) (t : Nat) (late : Option LateFault) : Act :=
  let q := s.sqr
  let i := q.pc
  let n := litCount w
  let lits := s.litsAt w i
  let set := fun (q : Sqr) (next : Nat) =>
    { q with pc := next, refs := q.refs.set e t, prev := some ⟨t, e, i, n⟩, head := if q.prev.isNone then q.head else none }
  if q.skip.contains i then .done (s.setSqr { set q (i + 1 + lits.length) with late := late })
  else
    let (lost, s) := s.readText i
    if lost then .done (s.raise i 1 15 0 0 0)
    else match decodeWord w ((lits.map (·.setWidth 32)) ++ [0, 0]) with
      | .error c => .done (s.raise i 1 c.code 0 0 0)
      | .ok ins =>
        if lits.length < n then .done (s.raise i 1 7 0 0 0)
        else if !q.loops.isEmpty && isControl ins then .done (s.raise i 1 8 0 0 0)
        else if ins = .start ∧ wordIdle w ≠ 0 then .done (s.raise i 1 9 0 0 0)
        else
          let (good, s) := s.goodLits i lits
          let s := s.setSqr { set s.sqr (i + 1 + good) with late := late }
          .run ins (s.setMe { s.me with recent := s.me.recent ++ [⟨t, e, i, q.bank, w⟩] })

/-- Go on with the next row. -/
def State.nextRow (s : State) (c : Cyc) : Act := .done { s with cyc := some { c with rows := c.rows.tail, started := false } }

/-- The words of a strand cycle have issued: a pending change of the stream takes effect (R50, R63, R64, R86). -/
def Sqr.land (q : Sqr) (t : Nat) : Sqr :=
  match q.jump with
  | none => q
  | some .halt => { q with jump := none, halted := true, rets := [], prev := none }
  | some .overlay => { q with jump := none, bank := !q.bank, pc := 0, refs := Refs.all (t + 2), prev := none, ovly := none
                              head := none, overlaid := true }
  | some (.to target call src) =>
    { q with jump := none, pc := target, refs := Refs.all (t + 2), prev := none, head := some (src, t, q.bank, target)
             rets := if call then q.pc :: q.rets else q.rets }

/-- End the present row's part of the strand cycle. -/
def State.endRow (s : State) (c : Cyc) (t : Nat) : Act := (s.setSqr (s.sqr.land t)).nextRow c

/-- A trailer that is not fetched, since the stream ends right before it in this strand cycle (R58, R86, R137). (log 16: DEDUCED) -/
def State.excused (s : State) (w : Word) (i : Nat) : Bool :=
  s.sqr.jump.any (fun j => s.trailerAfter (j == .halt) w i)

/-- The next word of the present row (R48, R49, R57, R58). A word that issues late at the same strand cycle is decoded and
checked before its order fault (R287). A fetch beyond the window has no word and so no issue time: it is cut at the first
strand cycle after the last word's, or at t+3 after a jump at t; a LIT or reserved-engine word right after the kernel of a REPEAT
whose count is 0, issued at t, at t+1 (log 67: DESIGN CHOICE). (log 17: DEDUCED) -/
def State.nextWord (s : State) (c : Cyc) (t : Nat) : Act :=
  let q := s.sqr
  let i := q.pc
  let here := match q.prev with | some p => p.t == t | none => false
  let first := t == 0 && i == 0
  if q.bad || q.halted then s.nextRow c
  else if q.late.isSome then .done (s.raise s.idx 4 0 0 0 0)
  else if s.myStrand.l.tlen ≤ i then
    (if here || q.kernelStop == some i || decide (t ≤ q.refs.seq) && q.prev.isNone || q.jump.isSome then s.endRow c t
     else .done (s.raise i 2 5 (bv 64 i) 0 0))
  else
    let w := s.textWord s.cur q.bank i
    match engOf w with
    | none =>
      if q.skip.contains i then .done (s.setSqr { q with pc := i + 1 })
      else if first then .done (s.raise i 1 9 0 0 0)
      else if (if here then s.excused w i || t == 0 else q.kernelStop == some i || q.jump.isSome || decide (t ≤ q.refs.seq)) then
        s.endRow c t
      else
        let (lost, s) := s.readText i
        .done (s.raise i 1 (if lost then 15 else straySlot w) 0 0 0)
    | some e =>
      if q.kernelStop = some i then s.endRow c t
      else if first then
        (if w = mkWord 0 0 1 0 ∨ q.skip.contains i then s.issueWord w e 0 none else .done (s.raise i 1 9 0 0 0))
      else
        let T := q.refs.get e + 1 + wordIdle w
        if q.jump.isSome ∧ T ≠ t then s.endRow c t
        else
          let late : Bool := match q.prev with
            | some p => decide (T < p.t) || (T == p.t && decide (engRank e ≤ engRank p.eng))
            | none => decide (T < t)
          if late then (if T = t then s.issueWord w e t (some (.order T)) else .done (s.raise i 3 0 (bv 64 T) 0 0))
          else if T ≠ t then s.endRow c t
          else s.issueWord w e t none

/-- A row begins its part of the strand cycle: loop boundaries, then the fetch limits of the whole cycle (R51, R53, R287). A kernel
word that is due at the boundary that ends its iteration has its other checks first (R287). (log 33: DEDUCED) A record's four bits for
the LIT words hold their number modulo 16 (log 90: DESIGN CHOICE). -/
def State.startRow (s : State) (c : Cyc) (t : Nat) : Act :=
  if s.sqr.halted then s.nextRow c
  else
    let (q, run) := Sqr.boundaries t 6 s.sqr
    let s := { s.setSqr q with cyc := some { c with started := true } }
    let due := s.dueWords t 7 none q.refs q.pc
    let lits := (due.map (·.2.2)).sum
    if 6 < due.length + lits then .done (s.raise q.pc 5 0 0 0 (due.length % 16 + 16 * (lits % 16)))
    else match run with
      | none => .done s
      | some l =>
        let w := s.textWord s.cur q.bank q.pc
        match engOf w with
        | some e =>
          if q.refs.get e + 1 + wordIdle w = t ∧ q.pc < s.myStrand.l.tlen ∧ q.kernelStop ≠ some q.pc then
            s.issueWord w e t (some (.overrun l.b l.i))
          else .done (s.raise q.pc 4 0 (bv 64 l.b) (bv 64 l.i) 0)
        | none => .done (s.raise q.pc 4 0 (bv 64 l.b) (bv 64 l.i) 0)

/-- One micro-step of a strand cycle that is issuing (R11). -/
def State.fetchStep (s : State) (c : Cyc) : Act :=
  match c.rows with
  | [] => .run (.strandCycle c.key) s
  | r :: _ =>
    let s := { s with cur := ⟨c.key.part, c.key.strand, r⟩ }
    if c.started then s.nextWord c s.t else s.startRow c s.t

end Sys2Proof.Machine
end

