-- ==== Sys2Proof/Machine/Host.lean ====
section
/-! DEFINITION. The host interface (spec/19): VCP registers, events, packets, launch records, completion of page requests,
host access to device memory, engine service, partition reset, and the RESYNC summary. -/

namespace Sys2Proof.Machine

open Sys2Proof

/-! ## Queues and packets (R298–R305) -/

/-- A packet in progress has an error: the queue stops at once (R304). -/
def State.queueError (s : State) (v cause : Nat) : State :=
  (s.setVcp v { s.vcp v with
    stopped := true, qerr := bv 8 cause, active := false, ask := .none, fetched := [], nested := [], rep := none, work := none }).pageWrite v

/-- An error from outside the packets stops a queue: packets already in progress finish (R304). -/
def State.queueStop (s : State) (v cause : Nat) : State :=
  (s.setVcp v { s.vcp v with stopped := true, qerr := bv 8 cause }).pageWrite v

/-- A word of host memory as a fetch reads it now: the guest may have written it since, so it is what the device wrote there last, or
free (log 6: DESIGN CHOICE). -/
def State.hostWord (s : State) (iova : Nat) : Word × State :=
  let (key, s) := s.draw
  let new := bv 64 (Config.pick [9, iova, key])
  (if flip [74, key] then KV.getD s.host iova new else new, s)

/-- Words of host memory at addresses, each read once. -/
def State.hostWordsAt (s : State) (l : List Nat) : List Word × State :=
  l.foldl (fun (acc : List Word × State) a => let (w, s) := acc.2.hostWord a; (acc.1 ++ [w], s)) ([], s)

/-- The address of a word of a packet ring. -/
def Vcp.ringAt (c : Vcp) (i : Nat) : Nat := c.qbase.toNat + 8 * (i % c.qsize.toNat)

/-- The length field of a header word (R302). -/
def pktLen (h : Word) : Nat := max 1 (min 4 (bits h 55 48))

/-- The front end asks for a read of host memory on behalf of a VCP, of one 64-byte unit: after a translation request where one is needed,
and after the read requests that wait for budget (R255, R297, log 68: DESIGN CHOICE). -/
def State.askHost (s : State) (v iova : Nat) : State :=
  let c := s.vcp v
  let p := c.part.toNat
  if s.needsAts iova then s.pushAts p 1 (some (.ask v c.era)) else s.pushRead p 1 (some (.ask v c.era))

/-- Words of a ring between two indexes. -/
def Vcp.span (c : Vcp) (i j : Word) : Nat := (j.toNat + c.qsize.toNat - i.toNat % c.qsize.toNat) % c.qsize.toNat

/-- Where the next packet of the innermost ring lies and how many words are left there; none at its end (R301, R303): no fetch goes past
the tail that was checked. -/
def Vcp.fetchAt (c : Vcp) : Option (Nat × Nat) :=
  match c.nested with
  | r :: _ => if r.len ≤ r.pos then none else some (r.iova.toNat + 8 * r.pos, r.len - r.pos)
  | [] =>
    if c.qsize = 0 ∨ c.span c.head c.tailSeen = 0 then none else some (c.ringAt c.head.toNat, c.span c.head c.tailSeen)

/-- The packets of the innermost ring that are fetched. -/
def Vcp.ahead (c : Vcp) : List Packet :=
  match c.nested with
  | r :: _ => r.fetched
  | [] => c.fetched

/-- How many packets the front end is ahead of execution: those fetched, of every ring, and those that a REPEAT has gathered and will still
run (R305). -/
def Vcp.aheadCount (c : Vcp) : Nat :=
  c.fetched.length + (c.nested.map (fun r => r.fetched.length)).foldl (· + ·) 0 +
    (match c.rep with
      | some r => if r.left = 0 then r.rest.length else r.body.length
      | none => 0)

/-- Whether the front end may fetch one packet more: it is fewer than 16 ahead, and the last one fetched is no IB, after which its buffer
comes first (R303, R305). -/
def Vcp.mayAhead (c : Vcp) : Bool :=
  decide (c.aheadCount < 16) && !(c.ahead.getLast?).any (fun p => bits (p.words.headD 0) 63 56 == 2)

/-- Fetch one packet of the innermost ring, whose read has been sent: each word is read once; a packet that the end of its ring cuts
short keeps what is there (R302, R305). The own ring's head in the page moves (R298). (log 79: DEDUCED) -/
def State.fetchOne (s : State) (v : Nat) : State :=
  let c := { s.vcp v with ask := .none }
  match c.fetchAt with
  | none => s.setVcp v c
  | some (at_, room) =>
    let (h, s) := s.hostWord at_
    let n := min (pktLen h) room
    match c.nested with
    | r :: rs =>
      let (ws, s) := s.hostWordsAt ((List.range (n - 1)).map (fun j => at_ + 8 * (j + 1)))
      s.setVcp v { c with nested := { r with pos := r.pos + n, fetched := r.fetched ++ [⟨h :: ws, r.pos + n⟩] } :: rs }
    | [] =>
      let (ws, s) := s.hostWordsAt ((List.range (n - 1)).map (fun j => c.ringAt (c.head.toNat + j + 1)))
      let next := (c.head.toNat + n) % c.qsize.toNat
      (s.setVcp v { c with fetched := c.fetched ++ [⟨h :: ws, next⟩], head := bv 64 next }).pageWrite v

/-- Fetch ahead of execution, up to 16 packets, as far as the reads that are asked for are sent (R255, R305). -/
def State.fetchAhead (s : State) (v : Nat) : Nat → State
  | 0 => s
  | n + 1 =>
    let c := s.vcp v
    match c.ask, c.fetchAt with
    | .packet true, _ => (s.fetchOne v).fetchAhead v n
    | .none, some (at_, _) =>
      if c.mayAhead then ((s.setVcp v { c with ask := .packet false }).askHost v at_).fetchAhead v n else s
    | _, _ => s

/-- Compare of WAITMEM (R302, R303). -/
def wcHolds : WCond → Word → Word → Bool
  | .eq, a, b => a == b
  | .ne, a, b => a != b
  | .ge, a, b => b.ule a
  | .lt, a, b => a.ult b

/-- Decode the words of a packet, or the cause of the queue error (R302, R304). -/
def decodePacket (ws : List Word) : Except Nat Instr :=
  let h := ws.headD 0
  let w := fun i => ws.getD i 0
  let len := bits h 55 48
  let b := fun hi lo => bits h hi lo
  let zeros := fun (hi lo : Nat) => b hi lo == 0
  let fix := fun (n : Nat) (ok : Bool) (al : Bool) (i : Instr) =>
    if len ≠ n ∨ ws.length ≠ n then Except.error 2 else if !ok then .error 2 else if !al then .error 3 else .ok i
  match bits h 63 56 with
  | 1 => fix 2 (zeros 47 0) ((w 1).toNat % 256 == 0) (.launch (w 1))
  | 2 => fix 3 (zeros 47 0) ((w 1).toNat % 8 == 0) (.ib (w 1) (w 2))
  | 3 => fix 4 (zeros 47 2) ((w 1).toNat % 8 == 0)
      (.waitmem (match b 1 0 with | 0 => .eq | 1 => .ne | 2 => .ge | _ => .lt) (w 1) (w 2) (w 3))
  | 4 => fix 1 (zeros 47 24 && !zeros 15 0 && !zeros 23 16 && decide (b 23 16 ≤ 15)) true
      (.packetRepeat (bv 16 (b 15 0)) (bv 8 (b 23 16)))
  | 5 => fix 1 (zeros 47 0) true .ffence
  | 6 => fix 3 (zeros 47 2) ((w 1).toNat % 8 == 0) (.signal (b 0 0 == 1) (b 1 1 == 1) (w 1) (w 2))
  | 7 => fix 2 (zeros 47 2 && b 1 0 != 3) true
      (.cancel (match b 1 0 with | 0 => .launch | 1 => .graph | _ => .job) (w 1))
  | 8 => fix 1 (zeros 47 12) true (.rephase (bv 4 (b 3 0)) (bv 3 (b 6 4)) (bv 4 (b 10 7)) (b 11 11 == 1))
  | 9 => fix 3 (zeros 15 4 && zeros 47 32) ((w 1).toNat % 8 == 0) (.evict (bv 4 (b 3 0)) (bv 16 (b 31 16)) (w 1) (w 2))
  | 10 => fix 1 (zeros 47 6) true (.resume (bv 4 (b 3 0)) (bv 2 (b 5 4)))
  | 11 => fix 3 (zeros 47 0) ((w 1).toNat % 8 == 0) (.resync (w 1) (w 2))
  | _ => .error 1

/-- The VCP whose packet is carried out. -/
def State.me_v (s : State) : Vcp := s.vcp s.curVcp

/-- Replace it. -/
def State.setMyV (s : State) (c : Vcp) : State := s.setVcp s.curVcp c

/-- Its partition. -/
def State.myPart (s : State) : Nat := s.me_v.part.toNat

/-- A refused command: kind 13, cause 0x06, to the VCP that sent it; the queue runs on (R286, R303, R325). -/
def State.refuse (s : State) (k : StrandKey) (cause : Nat) : State :=
  s.postRec s.curVcp { s.recFor k with rep := 7, kind := 13, cause := 6, aux := bv 32 cause }

/-- A strand that the queue may not command is a queue error (R303). -/
def State.masked (s : State) (n : BitVec 4) (k : State → State) : State :=
  if s.me_v.smask.getLsbD n.toNat then k s else s.queueError s.curVcp 6

/-- A WAITMEM in progress reads its word again (R303). -/
def State.retryWait (s : State) (vcp : Nat) : State :=
  match (s.vcp vcp).wait with
  | none => s
  | some w =>
    let (v, s) := s.hostRead (s.vcp vcp).part.toNat (s.vcp vcp).td0 w.addr.toNat
    if wcHolds w.c (v &&& w.mask) (w.val &&& w.mask) then s.setVcp vcp { s.vcp vcp with wait := none } else s

/-- NOTIFY (R301, R303): an event for the VCP, merged with one that is queued; a WAITMEM of the queue is tried again. -/
def execNotify (vcp : Nat) (s : State) : Out :=
  let s := s.retryWait vcp
  .next (if s.events.contains vcp then s else { s with events := s.events ++ [vcp] })

/-- The tail is checked once the page has been read: an impossible one stops the queue (R301, R304). -/
def State.checkTail (s : State) (v : Nat) : State :=
  let c := s.vcp v
  if c.ask ≠ .tail true then s
  else
    let c := { c with ask := .none }
    if c.qsize.toNat ≤ c.tail.toNat ∨ c.span c.head c.tailSeen + c.span c.tailSeen c.tail < c.span c.head c.tail then
      (s.setVcp v c).queueError v 4
    else s.setVcp v { c with tailSeen := c.tail }

/-- EVENT_DISPATCH (R301, R304, R305): a free core takes the oldest event whose VCP no core works on, and reads the page's tail; the
packets are fetched then. -/
def execEventDispatch (s : State) : Out :=
  .next (match s.events.find? (fun v => !(s.vcp v).active) with
  | none => s
  | some v =>
    if 12 ≤ (s.vcps.filter (fun e => e.2.active)).length then s
    else
      let s := { s with events := s.events.erase v }
      if (s.vcp v).stopped then s
      else ((s.setVcp v { s.vcp v with active := true, ask := .tail false }).askHost v v).checkTail v)

/-- STATUS_READ (R298): a read clears the drop bit and count. -/
def execStatusRead (vcp : Nat) (s : State) : Out := .next (s.setVcp vcp { s.vcp vcp with dropBit := false, dropCnt := 0 })

/-- The status register (R298). -/
def Vcp.status (c : Vcp) : Word :=
  bv 64 (c.stopped.toNat + 2 * c.dropBit.toNat + 256 * c.qerr.toNat + 65536 * c.dropCnt)

/-- FTAIL_WRITE (R299). -/
def execFtailWrite (vcp : Nat) (v : Word) (s : State) : Out :=
  let c := s.vcp vcp
  let s := s.setVcp vcp { c with ftail := v }
  .next (if c.fhead.toNat < v.toNat ∨ v.toNat + 256 < c.fhead.toNat then s.queueStop vcp 7 else s)

/-- S2INV (R232, R300). -/
def execS2inv (vcp : Nat) (s : State) : Out :=
  .next ((s.dropPart (s.vcp vcp).part.toNat).setVcp vcp { s.vcp vcp with s2inv := 0 })

/-- FQ_WRITE (R269): a register whose fields sum above 256 is refused. -/
def execFqWrite (part plane : Nat) (v : Word) (s : State) : Out :=
  let x := s.part part
  .next (if ((List.range 8).map (fun i => bits v (8 * i + 7) (8 * i))).foldl (· + ·) 0 ≤ 256 then
      s.setPart part { x with fq := x.fq.set (bv 3 plane).toFin v }
    else s)

/-- A write of qbase creates the queue once the hypervisor-owned half and the td0 image have been read (R255, R300). (log 19: DEDUCED) -/
def State.askCreate (s : State) (v : Nat) (qbase : Word) : State :=
  let c := s.vcp v
  let p := bits c.ctlPage 2 0
  if s.needsAts c.td0dPage.toNat then s.pushAts p 1 (some (.create v qbase)) else s.createReads p v qbase

/-- REGISTER_WRITE (R230, R262, R263, R280, R298, R300). A write of qbase creates the queue (log 19: DEDUCED). A fabid is stored as it is written
(R2, log 94: DESIGN CHOICE). -/
def execRegisterWrite (r : RegName) (v : Word) (s : State) : Out :=
  .next (match r with
  | .qbase n => s.askCreate n v
  | .qsize n => s.setVcp n { s.vcp n with qsize := v }
  | .tail n => s.setVcp n { s.vcp n with tail := v }
  | .fring n => s.setVcp n { s.vcp n with fring := v }
  | .vcpCtl n => s.setVcp n { s.vcp n with ctlPage := v }
  | .td0d n => s.setVcp n { s.vcp n with td0dPage := v }
  | .fence n => s.setVcp n { s.vcp n with fencePage := v }
  | .fabid => { s with fab := { s.fab with fabid := v &&& 0xFFFFFFFFFF, written := true } }
  | .group g => { s with fab := { s.fab with groups := KV.put s.fab.groups g v } }
  | .fdrop n => { s with fab := { s.fab with fdrop := s.fab.fdrop.set (bv 3 n).toFin v } }
  | .fdelay n => { s with fab := { s.fab with fdelay := s.fab.fdelay.set (bv 3 n).toFin v } }
  | .frameMap p g => { s with fmaps := KV.put s.fmaps (p, g) v })

/-! ## Packets (R303) -/

/-- IB (R303): a nested ring; a third level, or an IB in the range of a REPEAT, is a queue error. -/
def execIb (iova len : Word) (s : State) : Out :=
  let c := s.me_v
  .next (if 2 ≤ c.nested.length ∨ c.rep.isSome then s.queueError s.curVcp 5
    else s.setMyV { c with nested := ⟨iova, len.toNat, 0, [], 0⟩ :: c.nested })

/-- WAITMEM (R303): later packets of the queue wait until the condition holds. -/
def execWaitmem (c : WCond) (addr val mask : Word) (s : State) : Out :=
  .next ((s.setMyV { s.me_v with wait := some ⟨c, addr, val, mask⟩ }).retryWait s.curVcp)

/-- WAITMEM_RETRY (R303). -/
def execWaitmemRetry (vcp : Nat) (s : State) : Out := .next (s.retryWait vcp)

/-- Whether a packet may stand in the range of a REPEAT (R303). -/
def repeatable (p : Packet) : Bool := let op := bits (p.words.headD 0) 63 56; op != 2 && op != 4

/-- PACKET_REPEAT (R303): the packets that follow run `iters` times; the front end gathers them as they are fetched. -/
def execPacketRepeat (iters : BitVec 16) (pkts : BitVec 8) (s : State) : Out :=
  let c := s.me_v
  .next (if c.rep.isSome then s.queueError s.curVcp 5
    else s.setMyV { c with rep := some ⟨[], [], iters.toNat - 1, pkts.toNat⟩ })

/-- FFENCE (R305): fetched packets that follow it, in every ring, are discarded and fetched again, those in the range of a REPEAT too, before
the next of them runs. -/
def execFfence (s : State) : Out :=
  let c := s.me_v
  let rep := c.rep.map (fun r => (⟨r.body.take (r.body.length - r.rest.length), [], r.left, r.need + r.rest.length⟩ : PacketRep))
  let next := (c.rep.bind (fun r => (r.body.take (r.body.length - r.rest.length)).getLast?)).map (·.next)
  let c := { c with refetch := c.ahead.length + c.rep.elim 0 (·.rest.length) }
  .next (match c.nested with
    | n :: ns => s.setMyV { c with
        rep := rep, head := bv 64 c.next, fetched := []
        nested := { n with pos := next.getD n.next, fetched := [] } :: ns.map (fun m => { m with pos := m.next, fetched := [] }) }
    | [] => s.setMyV { c with rep := rep, head := bv 64 (next.getD c.next), fetched := [] })

/-- Every earlier launch of a queue has completed (R303); one that waits for the commit of its move has not (R252). -/
def State.launchesDone (s : State) (v : Nat) : Bool :=
  s.strands.all (fun e => e.2.vcp != v || e.2.era != (s.vcp v).era || e.2.ist ||
    (e.2.st == .absent && !(s.part e.1.part).move.any (fun m => m.newcomer == some e.1.strand)))

/-- The machine byte of a byte of a partition's device-memory window (R297). -/
def State.windowByte (s : State) (p b : Nat) : Option Nat := (s.frameAt p (b / 65536)).map (fun f => f * 65536 + b % 65536)

/-- SIGNAL (R303): waits for the earlier launches, then the counter and the fence word. (log 79: DEDUCED) -/
def execSignal (fabric fence : Bool) (addr addend : Word) (s : State) : Out :=
  let c := s.me_v
  .next (if !s.launchesDone s.curVcp then
      s.setMyV { c with sig := some ⟨fabric, fence, addr, addend, c.next⟩ }
    else
      let s := s.setMyV { c with sig := none }
      let s := s.hostAdd c.part.toNat c.td0 addr.toNat addend
      if fence then
        let s := (match s.windowByte c.part.toNat c.fence.toNat with
          | some a => s.gWrite [(a / 8 * 8, bv 64 (s.me_v).next, false)]
          | none => s)
        s.setMyV { s.me_v with fenceSet := true }
      else s)

/-- The identity a CANCEL compares (R302, R307). -/
def Launch.idAt (l : Launch) : CLevel → Word
  | .launch => l.lid
  | .graph => l.gid.setWidth 64
  | .job => l.jid.setWidth 64

/-- The code of a cancel level (R302). -/
def CLevel.code : CLevel → Nat
  | .launch => 0 | .graph => 1 | .job => 2

/-- CANCEL (R307): every launch of the partition with that id; at graph or job level the queue skips later ones. (log 44: DEDUCED) -/
def execCancel (level : CLevel) (id : Word) (s : State) : Out :=
  let p := s.myPart
  let s := (List.range 16).foldl (fun s n =>
    let k : StrandKey := ⟨p, n⟩
    let x := s.strand k
    if x.l.idAt level = id ∧ !x.ist ∧ (x.st ≠ .absent ∨ ((s.part p).move.bind (·.newcomer)) = some n) then
      s.cancelStrand k (match level with | .launch => 0 | .graph => 1 | .job => 2)
    else s) s
  .next (match level with
    | .launch => s
    | _ => s.setMyV { s.me_v with skip := s.me_v.skip ++ [(level, id)] })

/-- Whether a re-phase or a move is in progress in a partition (R247 cause 0x0B). -/
def State.moving (s : State) (p : Nat) : Bool :=
  (s.part p).move.isSome || (List.range 16).any (fun n => (s.strand ⟨p, n⟩).rpp)

/-- REPHASE (R247, R250, R252); the in-field test strand is never moved (R256). -/
def execRephase (strand : BitVec 4) (scode : BitVec 3) (phase : BitVec 4) (move : Bool) (s : State) : Out :=
  .next (s.masked strand fun s =>
    let p := s.myPart
    let k : StrandKey := ⟨p, strand.toNat⟩
    let x := s.strand k
    let sp : SP := (2 ^ scode.toNat, phase.toNat)
    if 4 < scode.toNat ∨ sp.1 ≤ sp.2 then s.refuse k 0x0A
    else if x.rpp then s.refuse k 0x0B
    else if x.ist || !(x.st == .running || x.st == .stalled || x.st == .frozen) then s.refuse k 0x0C
    else if s.moving p then s.refuse k 0x0B
    else if x.sp = sp then s
    else match placeNew ((s.heldStrands p).filter (fun h => h.1 ≠ strand.toNat)) sp false move with
      | none => s.refuse k 1
      | some (ph, l) =>
        if l.isEmpty then s.startRephase k (sp.1, ph)
        else s.startMove p (l.map (fun c => if c.1.isNone then (some strand.toNat, c.2) else c)) none)

/-- EVICT (R253, R286): an eviction is pending; another area, or a larger one, starts a new base layer (R294). A strand frozen by the shadow
sequencer is not taken (R289, log 92: DESIGN CHOICE). -/
def execEvict (strand : BitVec 4) (grace : BitVec 16) (area size : Word) (s : State) : Out :=
  .next (s.masked strand fun s =>
    let k : StrandKey := ⟨s.myPart, strand.toNat⟩
    let x := s.strand k
    if x.st == .running || x.st == .stalled || (x.st == .frozen && !x.disputed) then
      s.setStrand k { x with evp := true, grace := some (s.fab.ftime + 1000 * grace.toNat)
                             layers := if x.area.1 = area.toNat ∧ size.toNat ≤ x.area.2 then x.layers else [], area := (area.toNat, size.toNat) }
    else s.refuse k 0x0C)

/-- Whether a RESUME mode is allowed for a freeze (R288). -/
def modeOk (mode : Nat) (f : Nat × Nat) : Bool :=
  match mode with
  | 0 => !(f.1 == 13 && (f.2 == 1 || f.2 == 2))
  | 1 => [1, 2, 6, 7, 8].contains f.1
  | 2 => f.1 == 11
  | _ => false

/-- Mode 1: in every row that recorded a fault at T, the word at tidx is passed over; a word passed over at the same T before
stays so (R288). -/
def State.skipFaults (s : State) (k : StrandKey) : State :=
  let x := s.strand k
  x.recs.foldl (fun s r =>
    if [1, 2, 6, 7, 8].contains r.kind.toNat && r.stc == bv 64 x.stime then
      let a : AgentKey := ⟨k.part, k.strand, r.row.toNat⟩
      s.setAgent a { s.agent a with sqr := { (s.agent a).sqr with skip := (s.agent a).sqr.skip ++ [r.tidx.toNat] } }
    else s) s

/-- Modes 0 and 2: sc T issues in full, also the words that an earlier RESUME passed over (R32, R288). -/
def State.inFull (s : State) (k : StrandKey) : State :=
  (s.agentsOf k).foldl (fun s a => s.setAgent a { s.agent a with sqr := { (s.agent a).sqr with skip := [] } }) s

/-- RESUME (R288). -/
def execResume (strand : BitVec 4) (mode : BitVec 2) (s : State) : Out :=
  .next (s.masked strand fun s =>
    let k : StrandKey := ⟨s.myPart, strand.toNat⟩
    let x := s.strand k
    match x.freeze with
    | some f =>
      if x.st = .frozen ∧ modeOk mode.toNat f then
        (if mode = 1 then s.skipFaults k else s.inFull k).unfreeze k (mode == 2)
      else s.refuse k 0x0C
    | none => s.refuse k 0x0C)

/-! ## RESYNC (R309) -/

/-- Bytes of a layout entry as four words, lowest first (R239). -/
def layoutWords (e : LayoutEntry) : List Word :=
  let n := pack [(1, e.v.toNat), (8, e.qmask.toNat), (8, e.cgmask.toNat), (3, e.fcode.toNat), (5, e.pshare.toNat),
    (16, e.hrd.toNat), (16, e.hwr.toNat), (16, e.hats.toNat), (20, e.ebud.toNat), (40, e.dstall.toNat), (123, e.rsv.toNat)]
  (List.range 4).map (fun i => bv 64 (n / 2 ^ (64 * i)))

/-- An entry of a layout, eight of them (R239). -/
def layoutAt (l : List LayoutEntry) (p : Nat) : LayoutEntry := l.getD p LayoutEntry.zero

/-- The register wstrN (R244). -/
def Strand.wstr (x : Strand) : Word :=
  bv 64 (pack [(4, x.st.code), (3, x.scode.toNat), (4, x.phase.toNat), (3, x.nscode.toNat), (4, x.nphase.toNat), (1, x.rpp.toNat),
    (1, x.mat.toNat), (2, x.ctx.toNat), (1, x.priv.toNat), (1, x.evp.toNat), (1, x.ist.toNat), (39, 0)])

/-- The lowest words of a number. -/
def wordsOf (n v : Nat) : List Word := (List.range n).map (fun i => bv 64 (v / 2 ^ (64 * i)))

/-- The fabric counters in the order of R281. -/
def Counters.list (c : Counters) : List Word :=
  [c.ftx, c.ftxDrop, c.frx, c.flate, c.fexp, c.fnoslot, c.fnorcv, c.fcrc, c.fmal, c.fhop, c.fdiag, c.fdir, c.fxor, c.fdec,
   c.frsq, c.floss, c.fundel]

/-- The partitions of the layout in force. -/
def State.validParts (s : State) : List Nat := (List.range 8).filter (fun p => (s.part p).lay.v)

/-- The pending faults of a strand, eight words each (R284, R299). -/
def Strand.pendingRecs (x : Strand) : List Word := x.recs.flatMap (fun r => wordsOf 8 r.bits)

/-- The fence word of a VCP as it stands in device memory (R305, R309). -/
def State.fenceWord (s : State) (c : Vcp) : Word :=
  (s.windowByte c.part.toNat c.fence.toNat).elim 0 (fun a => (s.gRead (a / 8 * 8)).1.1)

/-- THE SUMMARY (R309): its sections in their order, one value to a word; records and layout entries as they are stored. How the
values lie in the buffer is not given (log 27: DESIGN CHOICE). -/
def State.summary (s : State) : List (List Word) :=
  let ps := s.validParts
  [ (List.range 8).flatMap (fun p => layoutWords (layoutAt s.mgmt.inForce p)) ++ [bv 64 s.mgmt.notDone.toNat, bv 64 s.mgmt.cause],
    ps.flatMap (fun p => (List.range 16).flatMap (fun n =>
      let x := s.strand ⟨p, n⟩
      [x.wstr, bv 64 x.stime, bv 64 x.wstall]) ++ [bv 64 (s.part p).nstretched]),
    s.agents.flatMap (fun e => (List.range 14).map (fun n => bv 64 (e.2.q.occ n)) ++
      [bv 64 e.2.tca, bv 64 e.2.tcx, bv 64 e.2.seqA, bv 64 e.2.seqX]),
    ps.flatMap (fun p => (s.part p).ctr.list),
    s.strands.flatMap (fun e => e.2.pendingRecs) ++
      s.pageq.flatMap (fun e => bv 64 (e.1 + 2 ^ 16 * e.2.part + 2 ^ 32 * e.2.reserved.toNat) :: wordsOf 4 e.2.rec_.toNat),
    s.vcps.flatMap (fun e => [e.2.head, e.2.tail, e.2.status, s.fenceWord e.2]),
    [bv 64 s.mgmt.overdue.length] ++ s.mgmt.overdue.map (bv 64) ++ s.mgmt.suspects.map (bv 64) ]

/-- The sections that fit a buffer of so many bytes: the summary is cut at a section boundary (R309). -/
def cutSections : List (List Word) → Nat → List Word
  | [], _ => []
  | c :: l, n => if 8 * c.length ≤ n then c ++ cutSections l (n - 8 * c.length) else []

/-- The words that a RESYNC writes, with their addresses (R309): where the buffer is too small, the sections that fit, and the size needed at
byte 0, last (log 27: DESIGN CHOICE). The key says whether the first section, with the cause of a reset, is among them. -/
def State.resyncWork (s : State) (v : Nat) (addr size : Word) : Work :=
  let w := workOn (s.vcp v).work (.resync addr size)
  let need := 8 * s.summary.flatten.length
  let ws := cutSections s.summary size.toNat
  if w.begun then w
  else { w with
    begun := true, key := min 1 ws.length
    left := ws.zipIdx.map (fun e => (addr.toNat + 8 * e.2, e.1, false)) ++
      (if size.toNat < need ∧ 8 ≤ size.toNat then [(addr.toNat, bv 64 need, false)] else []) }

/-- Work of the queue's packet goes on, or is done (R209). -/
def State.setWork (s : State) (v : Nat) (w : Option Work) : State := s.setVcp v { s.vcp v with work := w }

/-- RESYNC (R303, R309): the summary is written to the buffer by host steps: those of its words that no earlier step wrote. The cause of a reset
stands in the first section, and one that is written is reported (R315). -/
def execResync (addr size : Word) (s : State) : Out :=
  let c := s.me_v
  let w := s.resyncWork s.curVcp addr size
  let s := (s.hostWrites c.part.toNat c.td0 w.left).setWork s.curVcp none
  .next (if w.key = 0 then s else { s with mgmt := { s.mgmt with cause := 0 } })

/-! ## Launch (R62, R136, R211, R214, R245, R247, R306) -/

/-- The first record word that breaks a limit (R24, R306). `table` tells whether every row's image address is aligned. -/
def recordCheck (w : List Word) (table : Bool) : Option Nat :=
  let g := fun i => w.getD i 0
  let z := fun (i hi lo : Nat) => bits (g i) hi lo == 0
  let ok : List (Nat × Bool) :=
    [(1, z 1 63 18),
     (2, z 2 63 48 && z 2 2 0 && table),
     (3, z 3 63 29 && decide (1 ≤ bits (g 3) 5 0 ∧ bits (g 3) 5 0 ≤ 32) && decide (1 ≤ bits (g 3) 11 6 ∧ bits (g 3) 11 6 ≤ 32) &&
        decide (1 ≤ bits (g 3) 28 14 ∧ bits (g 3) 28 14 ≤ 16384)),
     (4, (List.range 8).all (fun i => let d := bits (g 4) (8 * i + 7) (8 * i); decide (4 ≤ d ∧ d ≤ 64))),
     (5, z 5 63 32), (7, z 7 5 0), (8, z 8 63 48 && z 8 2 0),
     (10, z 10 63 56 && z 10 2 0 && decide (bits (g 10) 55 48 ≤ 32)),
     (12, z 12 63 48 && z 12 2 0), (13, z 13 63 48 && z 13 2 0), (14, z 14 63 0), (15, z 15 63 0), (16, z 16 63 0)]
  (ok.find? (fun e => !e.2)).map (·.1)

/-- The values of a record that stay with the strand (R306). -/
def launchOf (w : List Word) (td0 : BitVec 512) : Launch :=
  let g := fun i => w.getD i 0
  let catn := bits (g 7) 63 48
  { lid := g 0, nrows := 32 * bits (g 3) 5 0, nunits := 256 * bits (g 3) 11 6
    nkb := [0, 64, 128, 256].getD (bits (g 3) 13 12) 0, tlen := bits (g 3) 28 14
    depths := (List.range 8).map (fun i => bits (g 4) (8 * i + 7) (8 * i))
    tokens := (List.range 4).map (fun i => bits (g 5) (8 * i + 7) (8 * i))
    limit := (g 6).toNat, fabric := bits (g 1) 16 16 == 1
    startAt := if bits (g 1) 17 17 = 1 then some (g 9).toNat else none
    catb := bits (g 7) 47 0, catn := if catn = 0 then 65536 else catn, ccnt := bits (g 8) 47 0
    gid := bv 32 (bits (g 11) 31 0), jid := bv 32 (bits (g 11) 63 32), gcnt := bits (g 12) 47 0, jcnt := bits (g 13) 47 0
    td0 := td0 }

/-- The lowest base of a free contiguous region, a multiple of the unit (R214, R247). (log 65: DESIGN CHOICE) -/
def freeBase (taken : List (Nat × Nat)) (total unit n : Nat) : Option Nat :=
  (0 :: taken.map (fun t => t.1 + t.2)).foldl (fun (best : Option Nat) c =>
    let b := (c + unit - 1) / unit * unit
    if b + n ≤ total ∧ taken.all (fun t => b + n ≤ t.1 ∨ t.1 + t.2 ≤ b) then
      (match best with | some x => some (min x b) | none => some b)
    else best) none

/-- Windows taken in a partition: the held strands and the newcomer of a move. -/
def State.windows (s : State) (p : Nat) (i : Nat) (size : Launch → Nat) : List (Nat × Nat) :=
  (List.range 16).filterMap (fun n =>
    let x := s.strand ⟨p, n⟩
    match x.bases[i]? with
    | some b => some (b, size x.l)
    | none => none)

/-- Bytes of the queue pool that a launch is charged (R24). -/
def poolCharge (l : Launch) : Nat := 272 * (l.depths.foldl (· + ·) 0) + 264

/-- What admission gives a strand: its phase, the moves, the context, the bases. -/
structure Admit where
  phase : Nat
  moves : List Cand
  ctx : Nat
  bases : List Nat

/-- ADMISSION (R214, R247): the checks in order; the first that fails is the refusal cause. The queue pool gives the beat entries one
contiguous region (R214, log 70: DESIGN CHOICE). -/
def State.admission (s : State) (k : StrandKey) (l : Launch) (scode pref : Nat) (anyph move mat priv hv : Bool) (from_ : SState) :
    Except Nat Admit :=
  let p := k.part
  let hs := s.heldStrands p
  let sp : SP := (2 ^ scode, pref)
  let ctxs := (hs.filter (fun h => h.2.mat)).map (fun h => h.2.ctx.toNat)
  let ctx := (List.range 4).find? (fun c => !ctxs.contains c)
  let rows := freeBase (s.windows p 0 (·.nrows)) 2048 32 l.nrows
  let units := freeBase (s.windows p 1 (·.nunits)) 8192 256 l.nunits
  let kbs := freeBase (s.windows p 2 (·.nkb)) 1024 (if l.nkb = 256 then 256 else 64) l.nkb
  let text := freeBase (s.windows p 3 (·.tlen)) 16384 1 l.tlen
  let beats := freeBase (s.windows p 4 (fun l => l.depths.foldl (· + ·) 0)) 1024 1 (l.depths.foldl (· + ·) 0)
  let pool := ((hs.map (fun h => poolCharge h.2.l)).foldl (· + ·) 0) + poolCharge l
  if 4 < scode ∨ sp.1 ≤ pref then .error 0x0A
  else if (s.strand k).st ≠ from_ then .error 0x0C
  else if 16 ≤ hs.length then .error 9
  else if priv ∧ !hv then .error 8
  else if mat ∧ ctx.isNone then .error 2
  else match rows, units, kbs, text with
    | none, _, _, _ => .error 3
    | _, none, _, _ => .error 4
    | _, _, none, _ => .error 5
    | _, _, _, none => .error 6
    | some r, some u, some b, some t =>
      if 262144 < pool ∨ beats.isNone then .error 7
      else if s.moving p then .error 0x0B
      else match placeNew hs sp anyph move with
        | none => .error 1
        | some (ph, mv) => .ok ⟨ph, mv, if mat then ctx.getD 0 else 0, [r, u, b, t, beats.getD 0]⟩

/-- Queues at launch (R24). -/
def launchQueues (l : Launch) : Queues :=
  let d := fun i => (⟨l.depths.getD i 4, [], 0, 0⟩ : BeatQ)
  let t := fun i => l.tokens.getD i 0
  ⟨d 0, d 1, d 2, d 3, d 4, d 5, d 6, d 7, ⟨[], 0, 0, 0⟩, ⟨[], 0, 0, 0⟩, List.replicate (t 0) 0, t 1, List.replicate (t 2) 0, t 3⟩

/-- The column-set value of a primer entry (R306). -/
def setOfWord (w : Word) : ColSet := ⟨w.setWidth 48, w.getLsbD 48, bv 2 (bits w 51 50)⟩

/-- The primer commands of a row (R136, R306): an A2 word and three values; an entry that is no A2 word names no command.
(log 39: DEDUCED) -/
def primerOf (ws : List Word) : Option ACmd :=
  match decodeWord (ws.headD 0) [] with
  | .error _ => none
  | .ok i => (xferOf i).map fun _ =>
    { seq := 0, seen := 0, ins := i, raw := ws.headD 0, tidx := 0, bank := false, sc := 0, a := Vector.replicate 16 0
      set := setOfWord (ws.getD 3 0), addr := ws.getD 1 0, val := ws.getD 2 0, ovf := 0x0005, crt := ⟨8, 2, false, 50⟩
      took := false, rank := 0, item := 0, buf := [], acc := none, frames := [], rem := none, page := .none, bring := none, halted := false, held := false, fin := false }

/-- The td0 address of a row's image (R306): of the one image, or from the table of one address per row. -/
def launchImage (w tab : List Word) (j : Nat) : Nat :=
  if bits (w.getD 1 0) 15 15 == 1 then bits (w.getD 2 0) 47 0 else (tab.getD j 0).toNat

/-- How many addresses that table holds. -/
def launchTab (w : List Word) (rows : Nat) : Nat := if bits (w.getD 1 0) 15 15 == 1 then 0 else rows

/-- The primer entries of each row, and where those of a row lie (R306). -/
def primerCount (w : List Word) : Nat := bits (w.getD 10 0) 55 48

def primerAt (w : List Word) (j : Nat) : Nat := bits (w.getD 10 0) 47 0 + 32 * primerCount w * j

/-- How many words the launch reads for each row: its image and its primer entries (R62, R306). -/
def launchRow (w : List Word) : Nat := bits (w.getD 3 0) 28 14 + 4 * primerCount w

/-- Where the next word lies that a LAUNCH reads (R303, R306), after those read so far: the record, the table of image addresses, then the
image and the primer entries of each row; none at the end, or where a limit is broken. -/
def launchNext (rec rows : Nat) (got : List Word) : Option Nat :=
  let n := got.length
  if n < 32 then some (rec + 8 * n)
  else
    let w := got.take 32
    let t := launchTab w rows
    if n < 32 + t then some (bits (w.getD 2 0) 47 0 + 8 * (n - 32))
    else
      let tab := (got.drop 32).take t
      let j := (n - 32 - t) / launchRow w
      let i := (n - 32 - t) % launchRow w
      let len := bits (w.getD 3 0) 28 14
      if (recordCheck w (tab.all (fun a => a.toNat % 8 == 0))).isSome ∨ rows ≤ j then none
      else some (if i < len then launchImage w tab j + 8 * i else primerAt w j + 8 * (i - len))

/-- The agent of a row at launch (R12, R27, R62, R196, R306): the image fills its window, so its trailer is the window's last word
(R137, log 74: DESIGN CHOICE); what no load writes is undefined (log 4: DESIGN CHOICE). -/
def State.launchAgent (s : State) (k : AgentKey) (l : Launch) (w got : List Word) (j image : Nat) : State :=
  let (text, s) := s.hostWords got k.part l.td0 image l.tlen
  let pcnt := primerCount w
  let (prim, s) := s.hostWords (got.drop l.tlen) k.part l.td0 (primerAt w j) (4 * pcnt)
  let cmds := (List.range pcnt).filterMap (fun i => primerOf ((prim.drop (4 * i)).take 4))
  let x := Vector.ofFn (fun r : Fin 16 => if r = 0 then 0 else w.getD (16 + r.val) 0)
  let a := Agent.init
  (s.setAgent k { a with
    sqr := { a.sqr with text0 := text.zipIdx.map (fun e => (e.2, e.1)), len0 := l.tlen, len1 := l.tlen, x := x }
    q := launchQueues l, td := a.td.set (0 : Fin 16) (some l.td0), acmds := cmds, v := s.snapshot }).wroteTexts k false l.tlen

/-- LAUNCH (R245, R247, R303, R306, R307): words that an earlier step of it read are not read again (R209). -/
def execLaunch (rec : Word) (s : State) : Out :=
  let c := s.me_v
  let p := c.part.toNat
  let got := (workOn c.work (.launch rec)).got
  let s := s.setWork s.curVcp none
  let (w, s) := s.hostWords got p c.td0 rec.toNat 32
  let w1 := w.getD 1 0
  let n := bits w1 3 0
  let k : StrandKey := ⟨p, n⟩
  let l := launchOf w c.td0
  let rows := s.rows p
  let t := launchTab w rows.length
  let (tab, s) := s.hostWords (got.drop 32) p c.td0 (bits (w.getD 2 0) 47 0) t
  let named : FaultRec := { FaultRec.zero with lid := l.lid, strand := bv 4 n, part := bv 3 p, rep := 7, kind := 13 }
  .next (s.masked (bv 4 n) fun s =>
    if c.skip.any (fun e => l.idAt e.1 == e.2) then s
    else match recordCheck w (tab.all (fun a => a.toNat % 8 == 0)) with
      | some i => s.postRec s.curVcp { named with cause := 7, aux := bv 32 i }
      | none =>
        let mat := w1.getLsbD 13
        let priv := w1.getLsbD 14
        match s.admission k l (bits w1 6 4) (bits w1 10 7) (w1.getLsbD 11) (w1.getLsbD 12) mat priv c.hv .absent with
        | .error e => s.postRec s.curVcp { named with cause := 6, aux := bv 32 e }
        | .ok ad =>
          let s := { s with serial := s.serial + 1 }
          let x : Strand := { Strand.absent with
            st := if ad.moves.isEmpty then .admitted else .absent
            scode := bv 3 (bits w1 6 4), phase := bv 4 ad.phase, mat := mat, ctx := bv 2 ad.ctx, priv := priv, l := l
            bases := ad.bases, serial := s.serial, vcp := s.curVcp, era := c.era, startAt := s.fab.ftime }
          let s := s.setStrand k x
          let s := (rows.zipIdx).foldl (fun s r =>
            s.launchAgent ⟨p, n, r.1⟩ l w (got.drop (32 + t + launchRow w * r.2)) r.2 (launchImage w tab r.2)) s
          (if ad.moves.isEmpty then s else s.startMove p ad.moves (some n)).remap p)

/-- One word of a LAUNCH or a RESYNC before the others, by a step of its own (R209, log 37: DESIGN CHOICE). -/
def State.packetAhead (s : State) (v : Nat) (i : Instr) : State :=
  let c := s.vcp v
  match i with
  | .launch rec =>
    let w := workOn c.work i
    (match launchNext rec.toNat (s.rows c.part.toNat).length w.got with
      | some x => let (y, s) := s.hostRead c.part.toNat c.td0 x; s.setWork v (some { w with got := w.got ++ [y] })
      | none => s.setWork v (some w))
  | .resync addr size =>
    let w := s.resyncWork v addr size
    (s.hostWrites c.part.toNat c.td0 (w.left.take 1)).setWork v (some { w with left := w.left.drop 1 })
  | _ => s

/-- Undefined contents after a re-admission with a YIELD image: tiles that it marks dead, and the folio (R83, R293); in a
row that issued no YIELD in the cut's strand cycle every tile (log 26: DESIGN CHOICE). -/
def State.undefine (s : State) (k : StrandKey) (mask : List (Nat × BitVec 32)) : State :=
  let x := s.strand k
  let ser := s.serial
  (s.agentsOf k).foldl (fun s a =>
    let g := s.agent a
    let m := (mask.find? (fun e => e.1 = a.row)).elim 0 (·.2)
    let cores := (List.range 48).map (fun c =>
      let co := g.core c
      let rows := (List.range x.l.nrows).foldl (fun (r : KV Nat RowV) i =>
        if m.getLsbD (i / 32) then r else KV.put r i ⟨Config.undefRow ser a.row c i, undefPois ser a.row c [0, i]⟩) co.rows
      let units := (List.range x.l.nunits).map (fun i => (i, (⟨Config.undefUnit ser a.row c i, undefPois ser a.row c [1, i]⟩ : UnitV)))
      (c, { co with rows := rows, units := units }))
    s.setAgent a { g with cores := cores }) s

/-- The words of a layer as they stand in the image area are those that the save wrote (R293). -/
def State.layerIntact (s : State) (k : StrandKey) (got : List Word) (l : Layer) : Bool × State :=
  let x := s.strand k
  let (ws, s) := s.hostWords got k.part x.l.td0 (x.area.1 + l.at_) (l.bytes / 8)
  (ws.zipIdx.all (fun w => w.1 == Config.layerWord l.key w.2), s)

/-- Restored contents that come from a layer which no longer stands in the image area as it was saved are free: the tiles and blocks that
the layer holds and no newer one does, and the scalars and constants of every core where it is the newest (R293, log 26: DESIGN CHOICE). -/
def State.spoilLayer (s : State) (k : StrandKey) (l : Layer) (newer : List Layer) : State :=
  let ser := s.serial
  let put := fun (s : State) (a : AgentKey) (c : Nat) (f : Core → Core) => s.setAgent a ((s.agent a).setCore c (f ((s.agent a).core c)))
  let s := (l.tiles.filter (fun u => !newer.any (fun m => m.tiles.contains u))).foldl (fun s u => put s u.1 u.2.1 (fun co =>
    { co with rows := (List.range 32).foldl (fun (r : KV Nat RowV) i =>
      KV.put r (32 * u.2.2 + i) ⟨Config.undefRow ser u.1.row u.2.1 (32 * u.2.2 + i), undefPois ser u.1.row u.2.1 [0, 32 * u.2.2 + i]⟩) co.rows })) s
  let s := (l.blocks.filter (fun u => !newer.any (fun m => m.blocks.contains u))).foldl (fun s u => put s u.1 u.2.1 (fun co =>
    { co with units := (List.range 128).foldl (fun (r : KV Nat UnitV) i =>
      KV.put r (128 * u.2.2 + i) ⟨Config.undefUnit ser u.1.row u.2.1 (128 * u.2.2 + i), undefPois ser u.1.row u.2.1 [1, 128 * u.2.2 + i]⟩) co.units })) s
  if !newer.isEmpty then s
  else (s.agentsOf k).foldl (fun s a => (List.range 48).foldl (fun s c => put s a c (fun co =>
    { co with s := Vector.ofFn (fun i : Fin 16 => if i = 0 then 0 else bv 32 (Config.pick [15, ser, a.row, c, i.val]))
              p := bv 8 (Config.pick [16, ser, a.row, c]), fst := bv 5 (Config.pick [17, ser, a.row, c])
              kb := (List.range (s.strand k).l.nkb).map (fun i => (i, ⟨Config.undefKb ser a.row c i, undefPois ser a.row c [2, i]⟩)) })) s) s

/-- The layers from the newest base layer on: those that a restore reads (R293). -/
def chainOf : List Layer → List Layer
  | [] => []
  | l :: ls => if ls.any (·.base) then chainOf ls else l :: ls

/-- Read layers back, in ordinal order (R293). -/
def State.restoreFrom (s : State) (k : StrandKey) (got : List Word) : List Layer → State
  | [] => s
  | l :: ls =>
    let (ok, s) := s.layerIntact k got l
    (if ok then s else s.spoilLayer k l ls).restoreFrom k (got.drop (l.bytes / 8)) ls

/-- THE LAYERS ARE READ BACK, the base layer first (R293); words that an earlier step read are not read again (R209). -/
def State.restoreLayers (s : State) (k : StrandKey) (got : List Word) : State := s.restoreFrom k got (chainOf (s.strand k).layers)

/-- The placement of an image (R247, R293): its own stride and phase are preferred. -/
def State.readmit (s : State) (k : StrandKey) (anyphase move : Bool) : Except Nat Admit :=
  let x := s.strand k
  let hdr := (x.layers.head?.map (fun l => (l.scode, l.phase))).getD (x.scode, x.phase)
  s.admission k x.l hdr.1.toNat hdr.2.toNat anyphase move x.mat x.priv ((s.vcp x.vcp).hv || x.priv) .evicted

/-- One word of a re-admission before the others, by a step of its own (R209, log 37: DESIGN CHOICE). -/
def State.readmitAhead (s : State) (k : StrandKey) (anyphase move : Bool) : State :=
  let x := s.strand k
  let w := workOn x.work (.readmission k anyphase move)
  match s.readmit k anyphase move,
      ((chainOf x.layers).flatMap (fun l => (List.range (l.bytes / 8)).map (fun i => x.area.1 + l.at_ + 8 * i)))[w.got.length]? with
  | .ok _, some a => let (y, s) := s.hostRead k.part x.l.td0 a; s.setStrand k { s.strand k with work := some { w with got := w.got ++ [y] } }
  | _, _ => s

/-- What a restore writes into a strand's new windows is stored anew (R214, R215, R293): the tiles and blocks of its layers, the constant
banks, both text banks, and the entries of the queues. -/
def State.wroteRestored (s : State) (k : StrandKey) : State :=
  if s.phys.isEmpty then s
  else
    let x := s.strand k
    let ls := chainOf x.layers
    let s := (ls.flatMap (·.tiles)).foldl (fun s u => (List.range 32).foldl (fun s i => s.wrotePlace u.1 u.2.1 (.row (32 * u.2.2 + i))) s) s
    let s := (ls.flatMap (·.blocks)).foldl (fun s u => (List.range 128).foldl (fun s i => s.wrotePlace u.1 u.2.1 (.unit (128 * u.2.2 + i))) s) s
    (s.agentsOf k).foldl (fun s a =>
      let s := (List.range 48).foldl (fun s c => (List.range x.l.nkb).foldl (fun s i => s.wrotePlace a c (.kb i)) s) s
      let s := (s.wroteTexts a false x.l.tlen).wroteTexts a true x.l.tlen
      poolQueues.foldl (fun s n => ((s.agent a).entryPlaces n).foldl (fun s p => s.wroteLines a n p) s) s) s

/-- READMISSION (R245, R247, R253, R293): the image's placement is preferred; each agent's view is G now (R208). -/
def execReadmission (k : StrandKey) (anyphase move : Bool) (s : State) : Out :=
  let x := s.strand k
  let hdr := (x.layers.head?.map (fun l => (l.scode, l.phase))).getD (x.scode, x.phase)
  .next (match s.readmit k anyphase move with
  | .error e => s.postAs x.vcp x.era { s.recFor k with rep := 7, kind := 13, cause := 6, aux := bv 32 e }
  | .ok ad =>
    let s := ({ s with serial := s.serial + 1 } : State).restoreLayers k (workOn x.work (.readmission k anyphase move)).got
    let s := (match x.yieldMask with | some m => s.undefine k m | none => s)
    let s := (s.agentsOf k).foldl (fun s a => s.setAgent a { s.agent a with v := s.snapshot, tcache := [] }) s
    let s := s.setStrand k { s.strand k with
      st := if ad.moves.isEmpty then .admitted else .evicted
      scode := hdr.1, phase := bv 4 ad.phase, ctx := bv 2 ad.ctx, bases := ad.bases, yieldMask := none, work := none }
    let s := s.wroteRestored k
    (if ad.moves.isEmpty then s else s.startMove k.part ad.moves (some k.strand)).remap k.part)

/-! ## Page-request responses (R234, R235) -/

/-- Free the entry of a record and let a waiting request of its partition post. -/
def State.freePage (s : State) (i : Nat) (r : PageReq) : State :=
  ({ s with pageq := KV.del s.pageq i }).postDeferred r.part

/-- PGRESP_RETRY (R233, R234). -/
def execPgrespRetry (entry : BitVec 10) (s : State) : Out :=
  .next (match KV.get? s.pageq entry.toNat with
  | none => s
  | some r => (s.setPage r.who .none).freePage entry.toNat r)

/-- PGRESP_REFUSE (R234): the engine halts at the item with cause 0x0B; an overlay load has a translation fault (log 73: DESIGN CHOICE). -/
def execPgrespRefuse (entry : BitVec 10) (s : State) : Out :=
  .next (match KV.get? s.pageq entry.toNat with
  | none => s
  | some r =>
    let s := s.setPage r.who .none
    let col := bits r.rec_ 37 32
    let s := (match r.who with
      | .agen a q => (match (s.agent a).acmds with
        | c :: _ => if c.seq = q then s.agenHalt a c 0x0B col else s
        | [] => s)
      | .xchg a q => (match (s.agent a).xcmds.find? (fun (c : XCmd) => c.seq = q) with
        | some c => s.xchgHalt a c 0x0B 0 col
        | none => s)
      | .slot key => (match s.slot? key with
        | some x => s.refuseSlot x 0x0B
        | none => s)
      | .overlay a addr =>
        let g := s.agent a
        s.setAgent a { g with sqr := { g.sqr with ovly := g.sqr.ovly.map (fun (o : Overlay) =>
          if o.addr = addr then { o with done := true, err := some 2, acc := none } else o) } }
      | .gone => s)
    s.freePage entry.toNat r)

/-- The waiting item of a cancelled launch takes no step: its command, or the message under way, is no more (R234). An item of another
device's AGEN has no launch here: its message is refused. -/
def State.cancelWaiter (s : State) (w : Waiter) : State :=
  match w with
  | .agen a q =>
    (s.setAgent a { s.agent a with acmds := (s.agent a).acmds.filter (fun c => c.seq ≠ q) }).cancelStrand a.sk 3
  | .xchg a q =>
    (s.setAgent a { s.agent a with xcmds := (s.agent a).xcmds.filter (fun c => c.seq ≠ q) }).cancelStrand a.sk 3
  | .slot key =>
    match s.slot? key with
    | none => s
    | some x =>
      if x.isItem then s.refuseSlot x 0x0B else (s.discard x).cancelStrand (fragDst x.hdr).sk 3
  | .overlay a _ => s.cancelStrand a.sk 3
  | .gone => s

/-- PGRESP_CANCEL (R234, R307). -/
def execPgrespCancel (entry : BitVec 10) (s : State) : Out :=
  .next (match KV.get? s.pageq entry.toNat with
  | none => s
  | some r => (s.cancelWaiter r.who).freePage entry.toNat r)

/-! ## Host access to device memory (R209, R297) -/

/-- A host access through the window: each aligned word is a step of its own, the first now and the others as moves to come (R209). The
words of a write request that covers a line whole enter as one step for its poison, which the last of them sets (R197). What a read delivers goes
to the host (R209). Only a CXL link has the window (R297). (log 37: DESIGN CHOICE) -/
def execHostMemoryAccess (part addr : Nat) (wr : Bool) (data : HostData) (s : State) : Out :=
  let cxl := s.link == .cxl4 || s.link == .cxl3 || s.link == .cxl2
  .next (match data.words with
    | [] => s
    | d :: l =>
      if !cxl ∨ !(s.part part).lay.v then s
      else
        let i := addr / 8 % 8
        let k := if i = 0 then 0 else data.before
        let bad := (i != 0 && data.bad) || d.2
        let s := if l.isEmpty then s
          else { s with pending := s.pending ++ [(s.now, .hostMemoryAccess part (addr / 8 * 8 + 8) wr ⟨l, k + 1, bad⟩)] }
        match s.windowByte part (addr / 8 * 8) with
        | none => s
        | some a =>
          if wr then
            let ws : List WWrite := [(a, d.1, d.2)]
            let s := s.merging ws
            let m := s.mem.commit ws
            s.gEnter ws (if i = 7 ∧ k = 7 then m.setPois (a / 64) bad else m)
          else
            let (v, s) := s.gRead a
            { s with hostReads := s.hostReads ++ [(a, v.1, v.2)] })

/-! ## Engine service and partition reset (R195, R257, R288, R308) -/

/-- A halting record of a command of an engine. -/
def isHaltRec (a : AgentKey) (xchg : Bool) (seq : Nat) (r : FaultRec) : Bool :=
  r.kind == 9 && r.row == bv 5 a.row && r.rep == (if xchg then 3 else 2) && r.seq == bv 64 seq

/-- The halted commands of an engine, by number and slot. -/
def Agent.haltedCmds (a : Agent) (xchg : Bool) : List (Nat × Nat) :=
  if xchg then (a.xcmds.filter (·.halted)).map (fun c => (c.seq, c.slot))
  else ((a.acmds.take 1).filter (·.halted)).map (fun c => (c.seq, c.named))

/-- The local frames of a partition that a frame can be brought to: mapped and writable (R230, R236, log 22: DESIGN CHOICE). -/
def State.localFrames (s : State) (p : Nat) : List Nat :=
  (s.fmaps.filter (fun e => e.1.1 == p && (s.stage2 p e.1.2).any (·.2))).map (fun e => e.1.2)

/-- The words of a frame that is brought here (R236): the frame is copied from its home, whose bytes are not of this device and so free, into
a local frame; then the entry's word that names it. While no local frame is to be had there are none (log 22: DESIGN CHOICE). -/
def State.bringWork (s : State) (k : AgentKey) (c : ACmd) (at_ : Nat) (hi : Word × Bool) : Option (Work × State) :=
  let w := workOn c.bring (.engineResume k false)
  if w.begun then some (w, s)
  else
    let (key, s) := s.draw
    let gfn := choose [12, key] 0 (s.localFrames k.part)
    match s.localFrames k.part, s.stage2 k.part gfn with
    | _ :: _, some (m, _) =>
      some ({ w with
        begun := true
        left := (List.range 8192).map (fun i => (m * 65536 + 8 * i, bv 64 (Config.pick [13, key, i]), flip [14, key, i / 8])) ++
          [(at_ + 8, (hi.1 &&& 0xFFFFFFFF00000000) ||| (bv 32 gfn).setWidth 64, hi.2)] }, s)
    | _, _ => none

/-- THE FRONT END BRINGS A FRAME HERE (R236): the frame is copied; the entry names it with rem = 0; the partition's cached translations go; and
AGEN performs its item again. Each word is a host step of its own (R209), and the word with rem is written last: a step may end before it, with
one word more (log 37: DESIGN CHOICE). While no local frame is to be had, it waits (log 22: DESIGN CHOICE). -/
def State.bringFrame (s : State) (k : AgentKey) (c : ACmd) (whole : Bool) : State :=
  let d := ((s.agent k).td[(0 : Fin 16)]).getD 0
  let g := dTtb d * 65536 + 16 * (c.addr.toNat / 65536)
  match s.stage2 k.part (g / 65536) with
  | none => s.setHead k { c with page := .none, bring := none }
  | some (mfn, _) =>
    let at_ := mfn * 65536 + g % 65536
    let (lo, s) := s.gRead at_
    let (hi, s) := s.gRead (at_ + 8)
    if bits lo.1 2 2 = 0 then s.setHead k { c with page := .none, bring := none }
    else match s.bringWork k c at_ hi with
      | some (w, s) =>
        let now := if whole then w.left else w.left.take 1
        let s := now.foldl (fun s e => s.gWrite [e]) s
        if whole then
          ((s.gWrite [(at_, lo.1 &&& ~~~(4 : Word), lo.2)]).setHead k { c with page := .none, bring := none }).dropPart k.part
        else s.setHead k { c with bring := some { w with left := w.left.drop 1 } }
      | none => s

/-- ENGINE_RESUME (R195, R236, R257): the failing command is performed again from its item; after cause 0x08 the cached translations of
its slot are dropped first. An AGEN command that waits for a frame to be brought here is resumed when it is. -/
def execEngineResume (a : AgentKey) (xchg : Bool) (s : State) : Out :=
  let g := s.agent a
  .next (match (if xchg then none else g.acmds.find? (fun c => c.page == .moving)) with
    | some c => s.bringFrame a c true
    | none =>
      let x := s.strand a.sk
      let cs := g.haltedCmds xchg
      let was8 := fun (seq : Nat) => (x.recs.filter (isHaltRec a xchg seq)).getLast?.any (fun r => r.cause == 8)
      let g := cs.foldl (fun (g : Agent) c => if was8 c.1 then g.dropSlot c.2 else g) g
      let s := s.setStrand a.sk { x with recs := x.recs.filter (fun r => !cs.any (fun c => isHaltRec a xchg c.1 r)) }
      s.setAgent a (if xchg then
          { g with haltX := false, xcmds := g.xcmds.map (fun c => { c with halted := false }) }
        else { g with haltA := false, acmds := g.acmds.map (fun c => { c with halted := false }) }))

/-- TEXT_STORE_REWRITE (R288). -/
def execTextStoreRewrite (a : AgentKey) (bank : Bool) (idx : BitVec 14) (w : Word) (s : State) : Out :=
  .next ((s.setAgent a { s.agent a with sqr := (s.agent a).sqr.putText bank idx.toNat w }).wroteText a bank idx.toNat)

/-- PARTITION RESET (R281, R308): strands to absent without a final phase; engines, queues, slots, translations and
counters cleared; each VCP of the partition restarts at its fence. Page requests that are posted stay held (R234). -/
def State.partitionReset (s : State) (p : Nat) : State :=
  let mine := fun (k : StrandKey) => k.part == p
  let ran := ((List.range 16).map (fun n => (⟨p, n⟩ : StrandKey))).flatMap (fun k => if (s.strand k).st = .absent then [] else s.ranOf k)
  let s := s.leaveLines mine
  let s := s.forget (fun w => s.waiterIn mine w || (match w with | .slot key => (s.slot? key).any (fun x => x.part == p) | _ => false))
  let s := { s with
    history := s.history ++ ran
    strands := s.strands.filter (fun e => e.1.part ≠ p)
    agents := s.agents.filter (fun e => e.1.part ≠ p)
    cyc := match s.cyc with | some c => if c.key.part = p then none else some c | none => none
    fab := { s.fab with slots := s.fab.slots.filter (fun x => x.part ≠ p), outq := s.fab.outq.filter (fun o => o.part ≠ p) } }
  let x := s.part p
  let idle := fun (q : LinkQ) => { q with wait := q.wait.map (fun w => match w.2 with | some (.ask ..) => (w.1, none) | _ => w) }
  let s := s.setPart p { x with ctr := Counters.zero, move := none, rd := idle x.rd, ats := idle x.ats }
  let s := s.vcps.foldl (fun s e =>
    if e.2.part.toNat = p ∧ e.2.created then
      let c := e.2
      let i := if c.fenceSet then s.fenceWord c else 0
      let s := s.setVcp e.1 { c with
        head := i, tailSeen := i, fetched := [], nested := [], rep := none, wait := none, sig := none, active := false, ask := .none
        skip := [], refetch := 0, work := none }
      if s.events.contains e.1 then s else { s with events := s.events ++ [e.1] }
    else s) s
  s.remap p

/-- What has come for an engine takes effect (R190, R206, R274, R276). -/
def State.takeSlot (s : State) (x : Slot) : State :=
  match x.hdr.op.toNat with
  | 5 => s.takeReport x
  | 6 => s.takeResend x
  | _ => s.deliver x

/-- An agent but for which RECV a message has found. -/
def Agent.unmatched (a : Agent) : Agent := { a with xcmds := a.xcmds.map (fun c => { c with delivering := false }) }

/-- Whether an engine holds a command that is ready to take its next step (R308), of its own or with what has come for it: for XCHG a message
that finds its RECV with room, and the answers to its commands; for AGEN the answers to its remote items. -/
def State.engineReady (s : State) (a : AgentKey) (xchg : Bool) : Bool :=
  let g := s.agent a
  let mine := fun (x : Slot) => fragDst x.hdr == a && (match x.hdr.op.toNat with
    | 0 | 6 => xchg
    | 3 | 5 => (g.byMseq x.hdr.mseq.toNat).isSome == xchg
    | _ => false)
  (if xchg then g.xcmds.any (fun c => (s.xchgStep a c.seq).agent a != g) else (s.agenStep a).agent a != g) ||
    (s.fab.slots.filter mine).any (fun x => ((s.takeSlot x).agent a).unmatched != g.unmatched)

/-- ENGINE_WEDGE (R308): an engine that has been ready but idle for 10 ms resets its partition; that it has been idle for so long is what
this move says. -/
def execEngineWedge (a : AgentKey) (xchg : Bool) (s : State) : Out :=
  .next (if (s.strand a.sk).enginesRun && s.engineReady a xchg then s.partitionReset a.part else s)

/-! ## The front end's next packet (R301, R303) -/

/-- Take the next packet of the innermost ring. -/
def Vcp.take (c : Vcp) : Option (Packet × Vcp) :=
  match c.nested with
  | r :: rs => match r.fetched with
    | p :: ps => some (p, { c with nested := { r with fetched := ps, next := p.next } :: rs })
    | [] => none
  | [] => match c.fetched with
    | p :: ps => some (p, { c with fetched := ps, next := p.next })
    | [] => none

/-- What the front end does next with a VCP: run a packet, gather one for a REPEAT, leave a nested ring, stop the queue with an error, or
free the core. -/
inductive Turn where
  | run (p : Packet) (c : Vcp)
  | go (c : Vcp)
  | error (cause : Nat)
  | free (c : Vcp)

/-- The next turn of a VCP (R303–R305). A queue that has been stopped takes no further packet of its own ring. (log 79: DEDUCED) -/
def Vcp.turn (c : Vcp) : Turn :=
  match c.rep with
  | some r =>
    if r.need ≠ 0 then
      match c.take with
      | none => .error 4
      | some (p, c) => if repeatable p then .go { c with rep := some ⟨r.body ++ [p], r.rest ++ [p], r.left, r.need - 1⟩ } else .error 5
    else match r.rest, r.left with
      | p :: ps, _ => .run p { c with rep := some { r with rest := ps }, next := if c.nested.isEmpty then p.next else c.next }
      | [], n + 1 => .go { c with rep := some { r with rest := r.body, left := n } }
      | [], 0 => .go { c with rep := none }
  | none =>
    match c.nested with
    | _ :: rs => (match c.take with
      | some (p, c) => .run p c
      | none => .go { c with nested := rs })
    | [] =>
      if c.stopped then .free { c with fetched := [], ask := .none }
      else match c.take with
        | some (p, c) => .run p c
        | none => .free c

/-- Whether the next turn needs a packet whose read waits for budget (R255): one to run, or one that an FFENCE has fetched again (R305). -/
def Vcp.fetchWaits (c : Vcp) : Bool :=
  (!c.stopped || c.rep.isSome || !c.nested.isEmpty) && c.ask == .packet false &&
    (decide (c.ahead.length < c.refetch) || (c.ahead.isEmpty && (match c.rep with | some r => r.need != 0 | none => true)))

/-- Whether a core can go on with a VCP now. -/
def State.vcpReady (s : State) (v : Nat) : Bool :=
  let c := s.vcp v
  c.active && c.wait.isNone && c.ask != .tail false && (c.work.isSome || (if c.sig.isSome then s.launchesDone v else !c.fetchWaits))

/-- Packets that read or write many words of td0. -/
def wordwise (i : Instr) : Bool := match i with
  | .launch _ | .resync .. => true
  | _ => false

/-- The front end carries out the next packet of a VCP, stops the queue on an error, or frees the core (R301, R304). A packet that reads or writes
words of td0 may do one of them first (R209, log 37: DESIGN CHOICE). -/
def State.vcpStep (s : State) (v : Nat) : Option Instr × State :=
  let s := { s with curVcp := v }
  let ahead := fun (s : State) (i : Instr) => let (_, s) := (s.packetAhead v i).draw; s
  match (s.vcp v).work, (s.vcp v).sig, (s.vcp v).ask with
  | some w, _, _ => if flip [79, s.now, s.fresh] then (none, ahead s w.ins) else (some w.ins, s)
  | none, some g, _ => (some (.signal g.fabric g.fence g.addr g.addend), s)
  | none, none, .tail _ => (none, s.checkTail v)
  | none, none, _ =>
    let s := s.fetchAhead v 40
    if (s.vcp v).fetchWaits then (none, s)
    else match ({ s.vcp v with refetch := 0 } : Vcp).turn with
    | .run p c =>
      (match decodePacket p.words with
        | .ok i => if wordwise i && flip [79, s.now, s.fresh] then (none, ahead (s.setVcp v c) i) else (some i, s.setVcp v c)
        | .error e => (none, (s.setVcp v c).queueError v e))
    | .go c => (none, s.setVcp v c)
    | .error e => (none, s.queueError v e)
    | .free c => (none, s.setVcp v { c with active := false })

end Sys2Proof.Machine
end

