-- ==== Sys2Proof/Machine/Protect.lean ====
section
/-! DEFINITION. Protection of the memories and of the sequencers: the scrubber and memstat, dropped banks and migration, the
shadow sequencer, and the suspicion records of failed in-field tests. -/

namespace Sys2Proof.Machine

open Sys2Proof

/-! ## The scrubber and memstat (R217–R219) -/

/-- Lines of a memory (R213): a row's text store is one memory of two banks, and the queue pool has its short lines after the whole ones
(R215, log 70: DESIGN CHOICE). -/
def memLines : MemId → Nat
  | .tileStore .. | .folio .. | .textStore _ => 2048
  | .queuePool _ => 3584
  | .constBank .. => 32

/-- Whether a memory exists: rows 0 to 31, columns 0 to 47. -/
def memOk : MemId → Bool
  | .tileStore r c | .folio r c | .constBank r c => decide (r < 32) && decide (c < 48)
  | .queuePool r | .textStore r => decide (r < 32)

/-- The scrubber has done a line (R218): the pass goes on, and a full pass puts the spare in the place of a failed bank, of which fv then
speaks no more (log 85: DESIGN CHOICE). -/
def Memstat.scrubbed (x : Memstat) (line lines : Nat) : Memstat :=
  if line ≠ x.pass then x
  else if line + 1 < lines then { x with pass := line + 1 }
  else
    let x := { x with pass := 0, corr := [] }
    if x.fv && !x.spareUsed then { x with fv := false, spare := true, spareUsed := true } else x

/-- The scrubber's read of a line, and whether it stays as it is: an uncorrectable text line has no poison to be written back with
(R218, R219). -/
def State.scrubRead (s : State) (m : MemId) (line : Nat) : Bool × State :=
  match m with
  | .textStore row => s.readTextLine row line
  | _ => (false, s.readLine m line)

/-- The row of a memory. -/
def memRow : MemId → Nat
  | .tileStore r _ | .folio r _ | .constBank r _ | .queuePool r | .textStore r => r

/-- Whether no strand owns the present slot at the ports of a row: the entry of the last mesh cycle of its partition is free, or the row
is in none (R218, R242). -/
def State.portFree (s : State) (row : Nat) : Bool :=
  s.parts.all (fun e => !e.2.lay.v || !(s.rows e.1).contains row || e.2.slots[(bv 4 (e.2.mc + 15)).toFin].isNone)

/-- SCRUB_LINE (R217–R219): one line is read, corrected and written back, in a slot that no strand owns; an uncorrectable one is written
poisoned, except in the text store, which has no poison. -/
def execScrubLine (m : MemId) (line : Nat) (s : State) : Out :=
  .next (if !memOk m || decide (memLines m ≤ line) || !s.portFree (memRow m) then s
  else
    let (stays, s) := s.scrubRead m line
    let s := if stays then s else { s with phys := s.phys.filter (fun p => !Phys.isLine m line p) }
    { s with memstat := KV.put s.memstat m ((s.memstatOf m).scrubbed line (memLines m)) })

/-- MEMSTAT_WRITE (R217, R218): fv and fbank are written, a one clears a bit of the counts. -/
def execMemstatWrite (m : MemId) (v : BitVec 32) (s : State) : Out :=
  .next (if !memOk m then s
  else
    let x := s.memstatOf m
    let x := if v.getLsbD 31 then (if x.fv && x.fbank == v.extractLsb' 24 5 then x else x.fail (v.extractLsb' 24 5))
      else { x with fv := false, fbank := v.extractLsb' 24 5 }
    let x := { x with ucnt := x.ucnt &&& ~~~(v.extractLsb' 8 8), ccnt := x.ccnt &&& ~~~(v.extractLsb' 0 8) }
    { s with memstat := KV.put s.memstat m x })

/-- A memstat register as firmware reads it (R218). -/
def Memstat.bits (x : Memstat) : BitVec 32 :=
  bv 32 (pack [(1, x.fv.toNat), (2, 0), (5, x.fbank.toNat), (1, x.spare.toNat), (7, 0), (8, x.ucnt.toNat), (8, x.ccnt.toNat)])

/-! ## Dropped banks and migration (R237, R238) -/

/-- The frames that a bank of a partition holds (log 8: DESIGN CHOICE). -/
def bankFrames (part bank : Nat) : Nat := Config.pick [31, part, bank]

/-- BANK_DROP (R237): refused where the layout reserves too few spare frames. -/
def execBankDrop (part : Nat) (bank : BitVec 8) (s : State) : Out :=
  let x := s.part part
  let n := bankFrames part bank.toNat
  .next (if x.lay.v && !x.dropped.contains bank && decide (n ≤ x.spare) then
      s.setPart part { x with dropped := bank :: x.dropped, spare := x.spare - n }
    else s)

/-- MIGWM_WRITE (R238): no effect while a migration runs. -/
def execMigwmWrite (part : Nat) (v : Word) (s : State) : Out :=
  let x := s.part part
  .next (if x.migwm.act || !x.lay.v then s
    else s.setPart part { x with migwm := ⟨true, v.extractLsb' 48 8, 0, 0⟩ })

/-- A machine frame of a partition (R223). -/
def ownsFrame (e : LayoutEntry) (f : Nat) : Bool := e.cgmask.getLsbD (f / 761856)

/-- The next frame of a partition from f on; 2^23 when there is none (R223, R238, log 20: DESIGN CHOICE). -/
def frameFrom (e : LayoutEntry) (f : Nat) : Nat :=
  if ownsFrame e f then f
  else match (List.range 8).find? (fun g => e.cgmask.getLsbD g && decide (f ≤ 761856 * g)) with
    | some g => 761856 * g
    | none => 2 ^ 23

/-- MIGRATION_LINE_COPY (R238): one line of frame wm is read and commits at its new place, where no error stands (R224); after 1,024 lines
wm advances. No value changes (R237). -/
def execMigrationLineCopy (part : Nat) (s : State) : Out :=
  let x := s.part part
  .next (if !x.migwm.act then s
  else
    let wm := frameFrom x.lay x.migwm.wm.toNat
    let line := 1024 * wm + x.migwm.lines
    let s := s.touch (64 * line)
    let s := { s with phys := clearDev s.phys line }
    let m : Migwm := { x.migwm with wm := bv 23 wm, lines := x.migwm.lines + 1 }
    let m := if m.lines < 1024 then m
      else
        let n := frameFrom x.lay (wm + 1)
        if n < 6094848 then { m with wm := bv 23 n, lines := 0 } else { m with act := false, wm := bv 23 (wm + 1), lines := 0 }
    s.setPart part { x with migwm := m })

/-! ## Suspicion (R295, R296) -/

/-- The range of a window over a log of numbers: the lowest and the highest, 0 when none (R295). -/
def windowRange : List Nat → Nat × Nat
  | [] => (0, 0)
  | n :: l => l.foldl (fun r m => (min r.1 m, max r.2 m)) (n, n)

/-- The suspicion record of one launch in one row, and the status-5 reports for the destinations it reached (R295, R296): a group is
reached by one report to the group. (log 49: DEDUCED) -/
def State.suspicion (s : State) (r : Ran) (live : Bool) (quad : Nat) : State :=
  let last := KV.getD s.mgmt.lastPass quad 0
  let ph := windowRange ((r.phaseLog.zipIdx.filter (fun e => decide (last ≤ e.1))).map (fun e => e.2 + 1))
  let sent := r.sentLog.filter (fun e => decide (last ≤ e.at_))
  let sq := windowRange (sent.map (·.seq))
  let k := r.key
  let rec_ : FaultRec := { FaultRec.zero with
    lid := r.lid, strand := bv 4 k.strand, part := bv 3 k.part, row := bv 5 k.row, rep := 6, kind := 15
    stc := bv 64 last, word := bv 64 s.fab.ftime, op0 := bv 64 (ph.1 * 2 ^ 32 + ph.2), seq := bv 64 sq.1, op1 := bv 64 sq.2
    aux := if last ≤ r.startAt then 1 else 0 }
  let s := if live then s.record k.sk rec_ else s.postAs r.vcp r.era rec_
  let dsts := (sent.map (fun e => (e.grp, e.dst))).eraseDups
  dsts.foldl (fun s d =>
    let dag := ((sent.find? (fun e => (e.grp, e.dst) = d)).map (·.dag)).getD k
    (s.sendMsg
      { op := 5, opnd := bv 64 (5 + sq.1 % 2 ^ 32 * 2 ^ 16), mseq := bv 32 sq.2, src := k, grp := d.1, dst := d.2, dag := dag
        bytes := [], k := 1, m := 1, ln := 0, cls := 0, rty := false, dtime := dtimeOf (s.fab.ftime + 1023000) } false none).1) s

/-- A quad becomes suspect: one record for each launch that ran in each of its rows since its last passing test (R295). -/
def State.suspect (s : State) (quad : Nat) : State :=
  let s := { s with mgmt := { s.mgmt with suspects := if s.mgmt.suspects.contains quad then s.mgmt.suspects else s.mgmt.suspects ++ [quad] } }
  let since := fun (r : Ran) => decide (r.key.row / 4 = quad) && decide (KV.getD s.mgmt.lastPass quad 0 ≤ r.ranTo)
  let live := (s.strands.flatMap (fun e => if e.2.st = .absent then [] else s.ranOf e.1)).filter since
  let past := s.history.filter since
  let s := past.foldl (fun s r => s.suspicion r false quad) s
  live.foldl (fun s r => s.suspicion r true quad) s

/-- The test strand of a quad leaves its windows and its entry (R256). (log 54: DEDUCED) -/
def State.endTest (s : State) (quad : Nat) : State :=
  match s.parts.find? (fun e => e.2.lay.v && e.2.lay.qmask.getLsbD quad) with
  | none => s
  | some (p, _) =>
    let ends := fun (k : StrandKey) => k.part == p && (s.strand k).ist && (s.strand k).tquad == quad
    let s := { s with agents := s.agents.filter (fun e => !ends e.1.sk), strands := s.strands.filter (fun e => !ends e.1) }
    s.remap p

/-- IN_FIELD_TEST_FAILURE (R256, R295, R296). -/
def execInFieldTestFailure (quad : Nat) (s : State) : Out :=
  .next (if quad < 8 then (s.suspect quad).endTest quad else s)

/-- IN_FIELD_TEST_PASS (R256, R295, R296): the quad is no longer suspect, and the window of a later failure starts here. -/
def execInFieldTestPass (quad : Nat) (s : State) : Out :=
  .next (if quad < 8 then
      let m := s.mgmt
      ({ s with
        mgmt := { m with suspects := m.suspects.filter (fun q => q ≠ quad), overdue := m.overdue.filter (fun q => q ≠ quad)
                         lastPass := KV.put m.lastPass quad s.fab.ftime }
        history := s.history.filter (fun r => r.key.row / 4 ≠ quad) }).endTest quad
    else s)

/-! ## The shadow sequencer (R289) -/

/-- Slots of a beat that a word writes (R132, R157). -/
def slotsWritten : Instr → List Nat
  | .vputl _ c slot _ => (List.range (cvtUnits c)).map (fun i => slot.toNat + i)
  | .vladd _ _ _ _ _ slot | .vfxl _ _ _ slot => [slot.toNat]
  | _ => []

/-- The results of a word that have landed and that nothing has replaced since carry poison (R289). -/
def Agent.poisonLanded (a : Agent) (serial row t : Nat) : List (Nat × Nat × Place) → Agent
  | [] => a
  | e :: l =>
    let a := if e.1 = t ∧ !l.any (fun f => f.2 = e.2) then
        let v := (a.core e.2.1).place serial row e.2.1 e.2.2
        a.setCore e.2.1 ((a.core e.2.1).putPlace { v with pois := true } e.2.2)
      else a
    a.poisonLanded serial row t l

/-- A CORE word that the shadow disputes (R289): every result, landed or to come, carries poison. -/
def Agent.disputeCore (a : Agent) (serial row t : Nat) : Agent :=
  let a := a.poisonLanded serial row t a.landed
  match KV.get? a.pipe t with
  | none => a
  | some w =>
    let mark := fun (l : Land) => match l with
      | .row n v => Land.row n { v with pois := true }
      | .unit n v => .unit n { v with pois := true }
      | l => l
    let cores := a.cores.map (fun c => (c.1, { c.2 with
      landing := c.2.landing.map (fun n => if n.issued = t then { n with what := mark n.what } else n)
      runs := c.2.runs.map (fun r => if r.t = t then { r with pois := true } else r) }))
    let beats := a.beats.map (fun b => if b.1 = t then
      (b.1, { b.2 with pois := (slotsWritten w.ins).foldl (fun p i => p ||| bv 8 (2 ^ i)) b.2.pois }) else b)
    { a with pipe := KV.put a.pipe t { w with held := true }, cores := cores, beats := beats }

/-- The word that an engine's stream of an agent issued at a strand cycle, while the shadow may still speak of it (R289). -/
def Agent.issuedWord (a : Agent) (e : Eng) (t : Nat) : Option Issued := a.recent.find? (fun w => w.t == t && w.eng == e)

/-- The cut that a dispute brings to a strand whose clock may run again; one that is re-phasing comes back to it
frozen, and one that is out on an image, or on its way there or back, starts frozen (R245, R289, log 92: DESIGN CHOICE). -/
def State.shadowFreeze (s : State) (k : StrandKey) : State :=
  let x := s.strand k
  if x.st = .rephasing then s.setStrand k { x with left := .frozen, freeze := some (13, 1), timer := false }
  else if x.st = .running ∨ x.st = .stalled ∨ x.st = .frozen then (s.freezeStrand k 13 1).cutPoint k
  else if x.st = .evicting ∨ x.st = .evicted ∨ x.st = .admitted then s.setStrand k { x with freeze := some (13, 1) }
  else s

/-- Whether a word of AGEN or XCHG issues a command; A1 words and RATE do not (R168). -/
def isCommand (w : Word) : Bool :=
  match decodeWord w [0, 0] with
  | .ok i => (xferOf i).isSome || (atomOf i).isSome || (match i with
    | .arow .. | .send _ | .xwr _ | .xrd _ | .xat _ | .recv .. | .rcancel .. => true
    | _ => false)
  | .error _ => false

/-- Whether a word is still to be sent when the shadow speaks of it (R289). Every word is checked before it is sent, so there is no dispute
about a command that its engine has begun (log 31: DEDUCED). -/
def Agent.unsent (a : Agent) (e : Eng) (w : Issued) : Bool :=
  match e with
  | .agen => !isCommand w.word || a.acmds.any (fun c => c.sc == w.t && c.raw == w.word && !c.begun)
  | .xchg => !isCommand w.word || a.xcmds.any (fun c => c.sc == w.t && !c.started && !c.took)
  | _ => true

/-- SHADOW_MISMATCH (R289): an engine word is held with its number, a CORE word's results carry poison, the strand freezes at
the first boundary after detection, which comes 4 mc after the word's issue, and its quad is suspect (log 31: DEDUCED); the weaver
records it. A strand that has halted meanwhile has no clock to cut. -/
def execShadowMismatch (a : AgentKey) (e : Eng) (t : Nat) (s : State) : Out :=
  let g := s.agent a
  let x := s.strand a.sk
  let S := 2 ^ x.scode.toNat
  .next (match g.issuedWord e t with
  | none => s
  | some w =>
    if x.stime ≤ t ∨ t + (4 + S) / S < x.stime ∨ s.cyc.isSome ∨ x.st == .absent ∨ !g.unsent e w then s
    else
      let g := match e with
        | .core => g.disputeCore x.serial a.row t
        | .agen => { g with acmds := g.acmds.map (fun c => if c.sc = t ∧ c.raw = w.word then { c with held := true } else c) }
        | .xchg => { g with xcmds := g.xcmds.map (fun c => if c.sc = t then { c with held := true } else c) }
        | .seq => g
      let s := s.setAgent a g
      let s := s.record a.sk { s.recForAgent a with
        rep := 1, kind := 13, cause := 1, tidx := bv 14 w.idx, bank := w.bank, word := w.word, stc := bv 64 t }
      (s.shadowFreeze a.sk).suspect (a.row / 4))

end Sys2Proof.Machine
end

