-- ==== Sys2Proof/Machine/Mgmt.lean ====
section
/-! DEFINITION. The management processor (spec/20): side-band commands, layout commit in two steps, power and thermal limits,
in-field tests, and the reset order. -/

namespace Sys2Proof.Machine

open Sys2Proof

/-- A response on the side-band port: the command's number and the words (R310). -/
def State.respond (s : State) (n : Nat) (ws : List Word) : State :=
  { s with mgmt := { s.mgmt with responses := s.mgmt.responses ++ [(n, ws)] } }

/-- MGMT_RESYNC (R309, R310): the summary, and with it the cause of a reset, which is then reported (R315). -/
def execMgmtResync (s : State) : Out :=
  let ws := s.summary.flatten
  .next (({ s with mgmt := { s.mgmt with cause := 0 } } : State).respond 0 ws)

/-- The words of a layout: its eight entries (R239). -/
def layoutAll (l : List LayoutEntry) : List Word := (List.range 8).flatMap (fun p => layoutWords (layoutAt l p))

/-- LAYOUT_READ (R310): the layout in force. -/
def execLayoutRead (s : State) : Out := .next (s.respond 1 (layoutAll s.mgmt.inForce))

/-- Whether a layout is refused (R240). -/
def layoutBad (l : List LayoutEntry) (limit : Nat) : Bool :=
  let vs := l.filter (·.v)
  let sum := fun (f : LayoutEntry → Nat) => (vs.map f).foldl (· + ·) 0
  let overlap := (List.range 8).any (fun i =>
    decide (1 < (vs.filter (fun e => e.qmask.getLsbD i)).length) || decide (1 < (vs.filter (fun e => e.cgmask.getLsbD i)).length))
  decide (8 < l.length) || overlap ||
    vs.any (fun e => e.qmask == 0 || e.cgmask == 0 || e.ebud == 0 || e.dstall == 0 || decide (4 < e.fcode.toNat) ||
      decide (16 < e.pshare.toNat) || e.rsv != 0) ||
    decide (16 < sum (·.pshare.toNat)) || decide (limit < sum (·.ebud.toNat))

/-- The partitions whose entry a new layout changes. -/
def State.changedParts (s : State) (l : List LayoutEntry) : List Nat :=
  (List.range 8).filter (fun p => layoutAt l p ≠ layoutAt s.mgmt.inForce p)

/-- LAYOUT_COMMIT (R240, R314): refused, or its two steps begin. -/
def execLayoutCommit (l : List LayoutEntry) (s : State) : Out :=
  let busy := s.mgmt.commit ≠ .idle
  let held := (s.changedParts l).any (fun p => s.strands.any (fun e => e.1.part == p && e.2.st != .absent))
  .next (if busy ∨ layoutBad l s.mgmt.limit ∨ held then s.respond 2 [1]
    else { s with mgmt := { s.mgmt with commit := .writing l } })

/-- Load the registers of a partition (R241, R314, R316). How many spare frames the layout reserves is free (R237, log 8: DESIGN CHOICE). -/
def State.loadPart (s : State) (l : List LayoutEntry) (p : Nat) : State :=
  let e := layoutAt l p
  if e.v then
    s.setPart p { s.part p with
      lay := e, mc := 0, due := s.now + meshPeriod e.fcode, slots := Vector.replicate 16 none, bdone := false, stretched := false
      nstretched := 0, energy := 0, ebud := if s.mgmt.halved then e.ebud.toNat / 2 else e.ebud.toNat
      rd := ⟨(e.hrd.toNat : Int), [], 0⟩, wrq := ⟨(e.hwr.toNat : Int), [], 0⟩, ats := ⟨(e.hats.toNat : Int), [], 0⟩, move := none
      spare := Config.pick [33, p, s.now] }
  else { s with parts := KV.del s.parts p }

/-- The next step of a commit in progress (R314): the shadow is in flash; the pointer flips and the registers load. -/
def State.commitStep (s : State) : State :=
  match s.mgmt.commit with
  | .idle => s
  | .writing l => { s with mgmt := { s.mgmt with commit := .written l } }
  | .written l =>
    let ps := s.changedParts l
    let s := { s with mgmt := { s.mgmt with commit := .idle, notDone := false, inForce := l, flash := some l, seqNo := s.mgmt.seqNo + 1 } }
    (ps.foldl (fun s p => s.loadPart l p) s).respond 2 [0]

/-- POWER_SET (R315). -/
def execPowerSet (uj : Nat) (s : State) : Out :=
  .next (if uj ≤ 200000 then { s with mgmt := { s.mgmt with limit := uj } } else s)

/-- The launch of a test strand: the windows of a test image, whose sizes the spec does not give (log 32: DESIGN CHOICE). -/
def testLaunch : Launch := { Launch.zero with nrows := 32, nunits := 256, depths := List.replicate 8 4 }

/-- TEST (R247, R256): the test strand is admitted at stride 16 in a free phase, or the test is overdue. -/
def execTest (quad : Nat) (s : State) : Out :=
  .next (match s.parts.find? (fun e => e.2.lay.v && e.2.lay.qmask.getLsbD quad) with
  | none => s
  | some (p, _) =>
    let late := { s with mgmt := { s.mgmt with overdue := if s.mgmt.overdue.contains quad then s.mgmt.overdue else s.mgmt.overdue ++ [quad] } }
    match (List.range 16).find? (fun n => (s.strand ⟨p, n⟩).st == .absent) with
    | none => late
    | some n =>
      let k : StrandKey := ⟨p, n⟩
      match s.admission k testLaunch 4 0 true false false false false .absent with
      | .error _ => late
      | .ok ad =>
        let s := { s with serial := s.serial + 1, mgmt := { s.mgmt with overdue := s.mgmt.overdue.filter (· ≠ quad) } }
        let s := s.setStrand k { Strand.absent with
          st := .admitted, scode := 4, phase := bv 4 ad.phase, ist := true, tquad := quad, l := testLaunch, bases := ad.bases, serial := s.serial
          startAt := s.fab.ftime }
        let s := (s.rows p).foldl (fun s r =>
          s.setAgent ⟨p, n, r⟩ { Agent.init with sqr := { Agent.init.sqr with halted := true } }) s
        s.remap p)

/-! ## Reset (R311, R312, R316) -/

/-- The mode the host link trains to: the highest that both ends support, which the other end decides (R297, log 11: DESIGN CHOICE). -/
def trainLink (key : Nat) : LinkMode := choose [32, key] .untrained [.untrained, .cxl4, .cxl3, .cxl2, .pcie7, .pcie6, .pcie5]

/-- An entry of a layout from its 256 bits (R239). -/
def layoutEntryOf (n : Nat) : LayoutEntry :=
  let b : BitVec 256 := bv 256 n
  ⟨b.getLsbD 255, b.extractLsb' 247 8, b.extractLsb' 239 8, b.extractLsb' 236 3, b.extractLsb' 231 5, b.extractLsb' 215 16,
    b.extractLsb' 199 16, b.extractLsb' 183 16, b.extractLsb' 163 20, b.extractLsb' 123 40, b.extractLsb' 0 123⟩

/-- The configuration record that stands in flash at a reset, and whether its signature holds: how it came there, and how it is laid out,
is not given, so its contents are free (R312, log 12: DESIGN CHOICE). -/
def cfgCandidate (key : Nat) : CfgRec × Bool :=
  let w := fun (i : Nat) => (Config.cfgRecord key i).toNat
  (⟨bv 64 (w 0), bv 32 (w 1), bv 128 (w 2 + 2 ^ 64 * w 3),
    (List.range 8).map (fun p => layoutEntryOf (w (4 + 4 * p) + 2 ^ 64 * w (5 + 4 * p) + 2 ^ 128 * w (6 + 4 * p) + 2 ^ 192 * w (7 + 4 * p)))⟩,
   flip [18, key])

/-- LOAD THE CONFIGURATION RECORD (R312): one whose signature fails, or whose counter is below the highest accepted, is refused, and the
accepted one stays in force. -/
def Mgmt.loadCfg (m : Mgmt) (c : CfgRec × Bool) : Mgmt := if c.2 && m.cfg.ctr.ule c.1.ctr then { m with cfg := c.1 } else m

/-- The layout that a reset loads: the one in flash, or where there is none the default layout of the configuration record, if it is one
that would not be refused (R240, R312, R316). -/
def Mgmt.bootLayout (m : Mgmt) : List LayoutEntry :=
  match m.flash with
  | some l => l
  | none => if layoutBad m.cfg.lay m.limit then [] else m.cfg.lay

/-- The slot of the image that boots: one whose signature holds (R311); which of two is not given (log 12: DESIGN CHOICE). -/
def Mgmt.bootSlot (m : Mgmt) (key : Nat) : Nat :=
  if m.slotOk.1 && m.slotOk.2 then Config.pick [20, key] % 2 else if m.slotOk.1 then 0 else 1

/-- The ports as training leaves them: the other end of each link decides (R260, R316, log 11: DESIGN CHOICE). -/
def trainPorts (key : Nat) : Vector (BitVec 2) 32 := Vector.ofFn (fun i : Fin 32 => bv 2 (Config.pick [19, key, i.val] % 3))

/-- MODULE RESET (R316): the image boots, the configuration record is loaded and its trims applied; memory is zero and clean, the ports
train; the layout in force is loaded, then the host link trains. A cause that no RESYNC has reported is kept (R315). Every strand is absent and every VCP page at reset. If both image
slots fail, the processor stays in recovery and nothing else starts (R311). (log 57: DEDUCED) -/
def State.moduleReset (s : State) (cause : Nat) : State :=
  let m := s.mgmt
  let dead := !m.slotOk.1 && !m.slotOk.2
  let ran := s.strands.flatMap (fun e => if e.2.st = .absent then [] else s.ranOf e.1)
  let m := if dead then m else { m.loadCfg (cfgCandidate s.fresh) with image := m.bootSlot s.fresh }
  let m := if dead then m else { m with trims := m.cfg.trims }
  let base : State := { State.reset with
    now := s.now, fresh := s.fresh + 1, serial := s.serial, pending := s.pending, host := s.host, hostReads := s.hostReads
    fmaps := s.fmaps
    phys := s.phys.filterMap (fun p => p.lineOf.map (fun l => .line l.1 l.2 p.errs))
    history := s.history ++ ran
    mgmt := { m with
      recovery := dead, commit := .idle, notDone := m.notDone || m.commit != .idle, inForce := if dead then [] else m.bootLayout
      halved := false, cause := if cause = 0 then m.cause else cause, responses := [] } }
  if dead then base
  else
    let base := { base with fab := { base.fab with ports := trainPorts s.fresh } }
    let s' := (List.range 8).foldl (fun (t : State) p =>
      if (layoutAt base.mgmt.inForce p).v then t.loadPart base.mgmt.inForce p else t) base
    { s' with link := trainLink s.fresh }

/-- RESET (R310, R316). -/
def execReset (s : State) : Out := .next (s.moduleReset 0)

/-- WATCHDOG_RESET (R314): a commit in progress is discarded and reported as not completed. (log 47: DEDUCED) -/
def execWatchdogReset (s : State) : Out :=
  let m := s.mgmt
  .next { s with mgmt := { m with commit := .idle, notDone := m.notDone || m.commit != .idle } }

/-- The words of a 384-bit digest. -/
def digestWords (d : BitVec 384) : List Word := wordsOf 6 d.toNat

/-- SPDM_MEASUREMENTS (R313): the digest of the running image, the counter and the digest of the configuration record, the digest of the
layout in force, and the signature of the response. The digests are functions of what they are digests of, and the signature one of the
response and of a free value; neither function is modelled (log 28: DESIGN CHOICE). -/
def execSpdmMeasurements (s : State) : Out :=
  let (key, s) := s.draw
  let m := s.mgmt
  let c := m.cfg
  let ws := digestWords (Config.digest 0 [m.image]) ++ [c.ctr] ++
    digestWords (Config.digest 1 ([c.ctr.toNat, c.rows.toNat, c.trims.toNat] ++ (layoutAll c.lay).map (·.toNat))) ++
    digestWords (Config.digest 2 ((layoutAll m.inForce).map (·.toNat)))
  .next (s.respond 3 (ws ++ wordsOf 12 (Config.sign key (ws.map (·.toNat))).toNat))

/-- PLDM_SENSOR_READ (R310, log 28: DESIGN CHOICE). -/
def execPldmSensorRead (s : State) : Out :=
  let (key, s) := s.draw
  .next (s.respond 4 ((List.range 3).map (fun i => (Config.report i key).setWidth 64)))

/-- What the side-band port and the module's own sensors do: all that goes on in recovery (R310, R311). -/
def sideBand : Instr → Bool
  | .mgmtResync | .layoutRead | .layoutCommit _ | .powerSet _ | .test _ | .reset | .watchdogReset | .spdmMeasurements
  | .pldmSensorRead | .overtemp100 | .tempRecover95 | .overtemp110 => true
  | _ => false

/-! ## Thermal limits (R315) -/

/-- OVERTEMP_100: every partition's energy budget is halved. -/
def execOvertemp100 (s : State) : Out :=
  .next { s with
    parts := s.parts.map (fun e => (e.1, { e.2 with ebud := e.2.lay.ebud.toNat / 2 }))
    mgmt := { s.mgmt with halved := true } }

/-- TEMP_RECOVER_95: the layout's budgets are restored. -/
def execTempRecover95 (s : State) : Out :=
  .next { s with
    parts := s.parts.map (fun e => (e.1, { e.2 with ebud := e.2.lay.ebud.toNat }))
    mgmt := { s.mgmt with halved := false } }

/-- OVERTEMP_110: the module resets and the cause is kept for the next RESYNC. -/
def execOvertemp110 (s : State) : Out := .next (s.moduleReset 110)

end Sys2Proof.Machine
end

