-- ==== Sys2Proof/Machine/Dispatch.lean ====
section
/-! DEFINITION. The meaning of every instruction: one arm for each constructor, one direct call. -/

namespace Sys2Proof.Machine

open Sys2Proof

/-- What an instruction does to the state. -/
def exec (i : Instr) (s : State) : Host.Outcome State Fault Refusal :=
  match i with
  | .nop => Sys2Proof.Machine.execNop s
  | .start => Sys2Proof.Machine.execStart s
  | .halt => Sys2Proof.Machine.execHalt s
  | .yield mask => Sys2Proof.Machine.execYield mask s
  | .swap rep => Sys2Proof.Machine.execSwap rep s
  | .ovlyp xa imm => Sys2Proof.Machine.execOvlyp xa imm s
  | .ovlys => Sys2Proof.Machine.execOvlys s
  | .br c xa xb disp => Sys2Proof.Machine.execBr c xa xb disp s
  | .call c xa xb disp => Sys2Proof.Machine.execCall c xa xb disp s
  | .ret => Sys2Proof.Machine.execRet s
  | .bq q t disp => Sys2Proof.Machine.execBq q t disp s
  | .repeat_ xa ip cnt st len => Sys2Proof.Machine.execRepeat xa ip cnt st len s
  | .leave => Sys2Proof.Machine.execLeave s
  | .xadd xd xa xb => Sys2Proof.Machine.execXadd xd xa xb s
  | .xsub xd xa xb => Sys2Proof.Machine.execXsub xd xa xb s
  | .xmul xd xa xb => Sys2Proof.Machine.execXmul xd xa xb s
  | .xand xd xa xb => Sys2Proof.Machine.execXand xd xa xb s
  | .xor_ xd xa xb => Sys2Proof.Machine.execXor xd xa xb s
  | .xxor xd xa xb => Sys2Proof.Machine.execXxor xd xa xb s
  | .xshl xd xa xb => Sys2Proof.Machine.execXshl xd xa xb s
  | .xshr xd xa xb => Sys2Proof.Machine.execXshr xd xa xb s
  | .xsra xd xa xb => Sys2Proof.Machine.execXsra xd xa xb s
  | .xmin xd xa xb => Sys2Proof.Machine.execXmin xd xa xb s
  | .xmax xd xa xb => Sys2Proof.Machine.execXmax xd xa xb s
  | .xcmp xd xa xb => Sys2Proof.Machine.execXcmp xd xa xb s
  | .xaddi xd xa imm => Sys2Proof.Machine.execXaddi xd xa imm s
  | .xandi xd xa imm => Sys2Proof.Machine.execXandi xd xa imm s
  | .xori xd xa imm => Sys2Proof.Machine.execXori xd xa imm s
  | .xxori xd xa imm => Sys2Proof.Machine.execXxori xd xa imm s
  | .xshli xd xa imm => Sys2Proof.Machine.execXshli xd xa imm s
  | .xshri xd xa imm => Sys2Proof.Machine.execXshri xd xa imm s
  | .xsrai xd xa imm => Sys2Proof.Machine.execXsrai xd xa imm s
  | .xli xd imm => Sys2Proof.Machine.execXli xd imm s
  | .xlil xd v => Sys2Proof.Machine.execXlil xd v s
  | .inj q stall xd => Sys2Proof.Machine.execInj q stall xd s
  | .cap q stall xd => Sys2Proof.Machine.execCap q stall xd s
  | .popt q stall xd => Sys2Proof.Machine.execPopt q stall xd s
  | .pusht q stall xd => Sys2Proof.Machine.execPusht q stall xd s
  | .qpop q stall xd => Sys2Proof.Machine.execQpop q stall xd s
  | .qstat q xd => Sys2Proof.Machine.execQstat q xd s
  | .lds q7 xa imm => Sys2Proof.Machine.execLds q7 xa imm s
  | .sts xd xa imm => Sys2Proof.Machine.execSts xd xa imm s
  | .phase fabric wait => Sys2Proof.Machine.execPhase fabric wait s
  | .waittc tcx flag xa xd => Sys2Proof.Machine.execWaittc tcx flag xa xd s
  | .gettc xd sel => Sys2Proof.Machine.execGettc xd sel s
  | .xtoa ad xa => Sys2Proof.Machine.execXtoa ad xa s
  | .atox xd aa => Sys2Proof.Machine.execAtox xd aa s
  | .rotset rowsz tilesz => Sys2Proof.Machine.execRotset rowsz tilesz s
  | .getsys xd sel => Sys2Proof.Machine.execGetsys xd sel s
  | .setfpc xa => Sys2Proof.Machine.execSetfpc xa s
  | .setovf xa => Sys2Proof.Machine.execSetovf xa s
  | .sadd g sd sa b => Sys2Proof.Machine.execSadd g sd sa b s
  | .ssub g sd sa b => Sys2Proof.Machine.execSsub g sd sa b s
  | .smul g sd sa b => Sys2Proof.Machine.execSmul g sd sa b s
  | .sand g sd sa b => Sys2Proof.Machine.execSand g sd sa b s
  | .sor g sd sa b => Sys2Proof.Machine.execSor g sd sa b s
  | .sxor g sd sa b => Sys2Proof.Machine.execSxor g sd sa b s
  | .sshl g sd sa b => Sys2Proof.Machine.execSshl g sd sa b s
  | .sshr g sd sa b => Sys2Proof.Machine.execSshr g sd sa b s
  | .ssra g sd sa b => Sys2Proof.Machine.execSsra g sd sa b s
  | .smin g sd sa b => Sys2Proof.Machine.execSmin g sd sa b s
  | .smax g sd sa b => Sys2Proof.Machine.execSmax g sd sa b s
  | .smovx g sd xa => Sys2Proof.Machine.execSmovx g sd xa s
  | .sget g sd sel => Sys2Proof.Machine.execSget g sd sel s
  | .sli g sd v => Sys2Proof.Machine.execSli g sd v s
  | .scmp g c pd sa sb => Sys2Proof.Machine.execScmp g c pd sa sb s
  | .pand g pd pa pb => Sys2Proof.Machine.execPand g pd pa pb s
  | .por g pd pa pb => Sys2Proof.Machine.execPor g pd pa pb s
  | .pxor g pd pa pb => Sys2Proof.Machine.execPxor g pd pa pb s
  | .pnot g pd pa => Sys2Proof.Machine.execPnot g pd pa s
  | .vany g pd va => Sys2Proof.Machine.execVany g pd va s
  | .vall g pd va => Sys2Proof.Machine.execVall g pd va s
  | .vadd g ty r vd va b => Sys2Proof.Machine.execVadd g ty r vd va b s
  | .vsub g ty r vd va b => Sys2Proof.Machine.execVsub g ty r vd va b s
  | .vmul g ty r vd va b => Sys2Proof.Machine.execVmul g ty r vd va b s
  | .vfma g ty r vd va b => Sys2Proof.Machine.execVfma g ty r vd va b s
  | .vfms g ty r vd va b => Sys2Proof.Machine.execVfms g ty r vd va b s
  | .vfmh g ty r vd va b => Sys2Proof.Machine.execVfmh g ty r vd va b s
  | .vmin g ty r vd va b => Sys2Proof.Machine.execVmin g ty r vd va b s
  | .vmax g ty r vd va b => Sys2Proof.Machine.execVmax g ty r vd va b s
  | .vabs g ty vd va => Sys2Proof.Machine.execVabs g ty vd va s
  | .vneg g ty vd va => Sys2Proof.Machine.execVneg g ty vd va s
  | .vcmp g c ty vd va b => Sys2Proof.Machine.execVcmp g c ty vd va b s
  | .vsel g ty vd va b => Sys2Proof.Machine.execVsel g ty vd va b s
  | .vrcp g ty r vd va => Sys2Proof.Machine.execVrcp g ty r vd va s
  | .vrsq g ty r vd va => Sys2Proof.Machine.execVrsq g ty r vd va s
  | .vsqrt g ty r vd va => Sys2Proof.Machine.execVsqrt g ty r vd va s
  | .vexp2 g ty r vd va => Sys2Proof.Machine.execVexp2 g ty r vd va s
  | .vlog2 g ty r vd va => Sys2Proof.Machine.execVlog2 g ty r vd va s
  | .vtanh g ty r vd va => Sys2Proof.Machine.execVtanh g ty r vd va s
  | .vsigm g ty r vd va => Sys2Proof.Machine.execVsigm g ty r vd va s
  | .vsin g ty r vd va => Sys2Proof.Machine.execVsin g ty r vd va s
  | .vcos g ty r vd va => Sys2Proof.Machine.execVcos g ty r vd va s
  | .viadd g ty sat vd va b => Sys2Proof.Machine.execViadd g ty sat vd va b s
  | .visub g ty sat vd va b => Sys2Proof.Machine.execVisub g ty sat vd va b s
  | .vimul g ty sat vd va b => Sys2Proof.Machine.execVimul g ty sat vd va b s
  | .vand g ty vd va b => Sys2Proof.Machine.execVand g ty vd va b s
  | .vor g ty vd va b => Sys2Proof.Machine.execVor g ty vd va b s
  | .vxor g ty vd va b => Sys2Proof.Machine.execVxor g ty vd va b s
  | .vshl g ty vd va b => Sys2Proof.Machine.execVshl g ty vd va b s
  | .vshr g ty vd va b => Sys2Proof.Machine.execVshr g ty vd va b s
  | .vsra g ty vd va b => Sys2Proof.Machine.execVsra g ty vd va b s
  | .vimin g ty vd va b => Sys2Proof.Machine.execVimin g ty vd va b s
  | .vimax g ty vd va b => Sys2Proof.Machine.execVimax g ty vd va b s
  | .vicmp g c ty vd va b => Sys2Proof.Machine.execVicmp g c ty vd va b s
  | .vcvt g dst src r h vd va => Sys2Proof.Machine.execVcvt g dst src r h vd va s
  | .vfxc g vd va => Sys2Proof.Machine.execVfxc g vd va s
  | .vfxa g vd va b => Sys2Proof.Machine.execVfxa g vd va b s
  | .vfxf g r vd va => Sys2Proof.Machine.execVfxf g r vd va s
  | .vrsum g ty r sat vd va => Sys2Proof.Machine.execVrsum g ty r sat vd va s
  | .vrmax g ty vd va => Sys2Proof.Machine.execVrmax g ty vd va s
  | .vrmin g ty vd va => Sys2Proof.Machine.execVrmin g ty vd va s
  | .vperm g ty vd va b => Sys2Proof.Machine.execVperm g ty vd va b s
  | .vbcast g ty vd va lane => Sys2Proof.Machine.execVbcast g ty vd va lane s
  | .vrot g ty vd va k => Sys2Proof.Machine.execVrot g ty vd va k s
  | .vladd g ty r vd va slot => Sys2Proof.Machine.execVladd g ty r vd va slot s
  | .vfxl g vd va slot => Sys2Proof.Machine.execVfxl g vd va slot s
  | .vaddi p vd va imm => Sys2Proof.Machine.execVaddi p vd va imm s
  | .vmuli p vd va imm => Sys2Proof.Machine.execVmuli p vd va imm s
  | .vfmhi p vd va imm => Sys2Proof.Machine.execVfmhi p vd va imm s
  | .vmini p vd va imm => Sys2Proof.Machine.execVmini p vd va imm s
  | .vmaxi p vd va imm => Sys2Proof.Machine.execVmaxi p vd va imm s
  | .viaddi p vd va imm => Sys2Proof.Machine.execViaddi p vd va imm s
  | .vandi p vd va imm => Sys2Proof.Machine.execVandi p vd va imm s
  | .vshli p vd va imm => Sys2Proof.Machine.execVshli p vd va imm s
  | .vli p vd imm => Sys2Proof.Machine.execVli p vd imm s
  | .vmov g ty vd b => Sys2Proof.Machine.execVmov g ty vd b s
  | .mma g fmt mode tb ovr md a sb bdisp => Sys2Proof.Machine.execMma g fmt mode tb ovr md a sb bdisp s
  | .mzero g md => Sys2Proof.Machine.execMzero g md s
  | .mtrn g md ma => Sys2Proof.Machine.execMtrn g md ma s
  | .vgetl g cvt v slot => Sys2Proof.Machine.execVgetl g cvt v slot s
  | .vputl g cvt slot v => Sys2Proof.Machine.execVputl g cvt slot v s
  | .fldv g cvt v sk disp => Sys2Proof.Machine.execFldv g cvt v sk disp s
  | .fstv g cvt sk disp v => Sys2Proof.Machine.execFstv g cvt sk disp v s
  | .fldm g cvt m sk disp => Sys2Proof.Machine.execFldm g cvt m sk disp s
  | .fstm g cvt sk disp m => Sys2Proof.Machine.execFstm g cvt sk disp m s
  | .amov ad aa fld => Sys2Proof.Machine.execAmov ad aa fld s
  | .aaddi ad aa fld imm => Sys2Proof.Machine.execAaddi ad aa fld imm s
  | .asetf ad fld imm => Sys2Proof.Machine.execAsetf ad fld imm s
  | .aincf ad fld imm => Sys2Proof.Machine.execAincf ad fld imm s
  | .aadd ad aa ab fld => Sys2Proof.Machine.execAadd ad aa ab fld s
  | .acol set aa scatter sdim => Sys2Proof.Machine.execAcol set aa scatter sdim s
  | .feed q f => Sys2Proof.Machine.execFeed q f s
  | .drain q5 f => Sys2Proof.Machine.execDrain q5 f s
  | .fillf al set f => Sys2Proof.Machine.execFillf al set f s
  | .spillf al set f => Sys2Proof.Machine.execSpillf al set f s
  | .tld al set f => Sys2Proof.Machine.execTld al set f s
  | .tst al set f => Sys2Proof.Machine.execTst al set f s
  | .kbld n set f => Sys2Proof.Machine.execKbld n set f s
  | .tdesc slot f => Sys2Proof.Machine.execTdesc slot f s
  | .pref f => Sys2Proof.Machine.execPref f s
  | .atadd a => Sys2Proof.Machine.execAtadd a s
  | .atcas a => Sys2Proof.Machine.execAtcas a s
  | .atxch a => Sys2Proof.Machine.execAtxch a s
  | .atmax a => Sys2Proof.Machine.execAtmax a s
  | .atmin a => Sys2Proof.Machine.execAtmin a s
  | .atand a => Sys2Proof.Machine.execAtand a s
  | .ator a => Sys2Proof.Machine.execAtor a s
  | .atfadd a => Sys2Proof.Machine.execAtfadd a s
  | .arow ad col v quad tok => Sys2Proof.Machine.execArow ad col v quad tok s
  | .send m => Sys2Proof.Machine.execSend m s
  | .xwr m => Sys2Proof.Machine.execXwr m s
  | .xrd m => Sys2Proof.Machine.execXrd m s
  | .xat m => Sys2Proof.Machine.execXat m s
  | .recv d atag => Sys2Proof.Machine.execRecv d atag s
  | .rcancel d atag => Sys2Proof.Machine.execRcancel d atag s
  | .rate crt k m rty ddl => Sys2Proof.Machine.execRate crt k m rty ddl s
  | .strandCycle k => Sys2Proof.Machine.execStrandCycle k s
  | .replayRestart k => Sys2Proof.Machine.execReplayRestart k s
  | .stallRelease k => Sys2Proof.Machine.execStallRelease k s
  | .stallTimeout k => Sys2Proof.Machine.execStallTimeout k s
  | .weaveFrameBoundary part => Sys2Proof.Machine.execWeaveFrameBoundary part s
  | .energyPeriodStart => Sys2Proof.Machine.execEnergyPeriodStart s
  | .rephasePoint k => Sys2Proof.Machine.execRephasePoint k s
  | .agenCommandPerform a => Sys2Proof.Machine.execAgenCommandPerform a s
  | .xchgCommandPerform a seq => Sys2Proof.Machine.execXchgCommandPerform a seq s
  | .overlayLoadComplete a => Sys2Proof.Machine.execOverlayLoadComplete a s
  | .launchEnd k => Sys2Proof.Machine.execLaunchEnd k s
  | .shadowMismatch a e t => Sys2Proof.Machine.execShadowMismatch a e t s
  | .fragmentSend part plane cls => Sys2Proof.Machine.execFragmentSend part plane cls s
  | .fabricQuotaWindow => Sys2Proof.Machine.execFabricQuotaWindow s
  | .fragmentReceive plane f => Sys2Proof.Machine.execFragmentReceive plane f s
  | .fragmentForward port f => Sys2Proof.Machine.execFragmentForward port f s
  | .messageDelivery key => Sys2Proof.Machine.execMessageDelivery key s
  | .slotDeadlineExpiry key => Sys2Proof.Machine.execSlotDeadlineExpiry key s
  | .resendRequestReceive f => Sys2Proof.Machine.execResendRequestReceive f s
  | .resendWaitExpiry key => Sys2Proof.Machine.execResendWaitExpiry key s
  | .reportReceive f => Sys2Proof.Machine.execReportReceive f s
  | .reportDeadlineExpiry a seq => Sys2Proof.Machine.execReportDeadlineExpiry a seq s
  | .accessionEntryExpiry key => Sys2Proof.Machine.execAccessionEntryExpiry key s
  | .fdelayRelease plane => Sys2Proof.Machine.execFdelayRelease plane s
  | .timeSyncBeat offset => Sys2Proof.Machine.execTimeSyncBeat offset s
  | .portStateChange port gen => Sys2Proof.Machine.execPortStateChange port gen s
  | .inFieldTestFailure quad => Sys2Proof.Machine.execInFieldTestFailure quad s
  | .evictGraceExpiry k => Sys2Proof.Machine.execEvictGraceExpiry k s
  | .evictionSave k => Sys2Proof.Machine.execEvictionSave k s
  | .readmission k anyphase move => Sys2Proof.Machine.execReadmission k anyphase move s
  | .engineResume a xchg => Sys2Proof.Machine.execEngineResume a xchg s
  | .textStoreRewrite a bank idx w => Sys2Proof.Machine.execTextStoreRewrite a bank idx w s
  | .engineWedge a xchg => Sys2Proof.Machine.execEngineWedge a xchg s
  | .scrubLine m line => Sys2Proof.Machine.execScrubLine m line s
  | .memstatWrite m v => Sys2Proof.Machine.execMemstatWrite m v s
  | .bankDrop part bank => Sys2Proof.Machine.execBankDrop part bank s
  | .migwmWrite part v => Sys2Proof.Machine.execMigwmWrite part v s
  | .migrationLineCopy part => Sys2Proof.Machine.execMigrationLineCopy part s
  | .hostMemoryAccess part addr wr data => Sys2Proof.Machine.execHostMemoryAccess part addr wr data s
  | .hostBudgetRefill => Sys2Proof.Machine.execHostBudgetRefill s
  | .hostLinkRequest part kind bytes => Sys2Proof.Machine.execHostLinkRequest part kind bytes s
  | .pgrespRetry entry => Sys2Proof.Machine.execPgrespRetry entry s
  | .pgrespRefuse entry => Sys2Proof.Machine.execPgrespRefuse entry s
  | .pgrespCancel entry => Sys2Proof.Machine.execPgrespCancel entry s
  | .notify vcp => Sys2Proof.Machine.execNotify vcp s
  | .eventDispatch => Sys2Proof.Machine.execEventDispatch s
  | .statusRead vcp => Sys2Proof.Machine.execStatusRead vcp s
  | .ftailWrite vcp v => Sys2Proof.Machine.execFtailWrite vcp v s
  | .s2inv vcp => Sys2Proof.Machine.execS2inv vcp s
  | .fqWrite part plane v => Sys2Proof.Machine.execFqWrite part plane v s
  | .registerWrite r v => Sys2Proof.Machine.execRegisterWrite r v s
  | .launch rec => Sys2Proof.Machine.execLaunch rec s
  | .ib iova len => Sys2Proof.Machine.execIb iova len s
  | .waitmem c addr val mask => Sys2Proof.Machine.execWaitmem c addr val mask s
  | .waitmemRetry vcp => Sys2Proof.Machine.execWaitmemRetry vcp s
  | .packetRepeat iters pkts => Sys2Proof.Machine.execPacketRepeat iters pkts s
  | .ffence => Sys2Proof.Machine.execFfence s
  | .signal fabric fence addr addend => Sys2Proof.Machine.execSignal fabric fence addr addend s
  | .cancel level id => Sys2Proof.Machine.execCancel level id s
  | .rephase strand scode phase move => Sys2Proof.Machine.execRephase strand scode phase move s
  | .evict strand grace area size => Sys2Proof.Machine.execEvict strand grace area size s
  | .resume strand mode => Sys2Proof.Machine.execResume strand mode s
  | .resync addr size => Sys2Proof.Machine.execResync addr size s
  | .mgmtResync => Sys2Proof.Machine.execMgmtResync s
  | .layoutRead => Sys2Proof.Machine.execLayoutRead s
  | .layoutCommit l => Sys2Proof.Machine.execLayoutCommit l s
  | .powerSet uj => Sys2Proof.Machine.execPowerSet uj s
  | .test quad => Sys2Proof.Machine.execTest quad s
  | .reset => Sys2Proof.Machine.execReset s
  | .watchdogReset => Sys2Proof.Machine.execWatchdogReset s
  | .spdmMeasurements => Sys2Proof.Machine.execSpdmMeasurements s
  | .pldmSensorRead => Sys2Proof.Machine.execPldmSensorRead s
  | .overtemp100 => Sys2Proof.Machine.execOvertemp100 s
  | .tempRecover95 => Sys2Proof.Machine.execTempRecover95 s
  | .overtemp110 => Sys2Proof.Machine.execOvertemp110 s
  | .inFieldTestPass quad => Sys2Proof.Machine.execInFieldTestPass quad s

end Sys2Proof.Machine
end

