-- ==== Sys2Proof/Machine/Tick.lean ====
section
/-! DEFINITION. What comes next when no strand cycle is issuing (log 1: DESIGN CHOICE): the front end's packets, moves of the outside world
and of the units that act in real time, a layout commit, and the mesh cycles of the partitions (R241–R243). -/

namespace Sys2Proof.Machine

open Sys2Proof

/-! ## Moves that the list of moves may hold -/

/-- Packets act only for a VCP (R303). -/
def isPacket : Instr → Bool
  | .launch _ | .ib .. | .waitmem .. | .packetRepeat .. | .ffence | .signal .. | .cancel .. | .rephase .. | .evict ..
  | .resume .. | .resync .. => true
  | _ => false

/-- Steps of the weaver, which a mesh cycle brings (R242, R243). -/
def isWeaver : Instr → Bool
  | .strandCycle _ | .replayRestart _ | .stallRelease _ | .stallTimeout _ | .weaveFrameBoundary _ | .rephasePoint _
  | .evictGraceExpiry _ => true
  | _ => false

/-- A move that comes in real time, not from a text, a packet or a mesh cycle. -/
def isMove (i : Instr) : Bool := i.eng.isNone && !isPacket i && !isWeaver i

/-! ## Units that act in real time (R28, R171, log 1: DESIGN CHOICE) -/

/-- Moves of engines of one agent: each is open, none is forced. A finished XCHG command at the head waits for token room (R172); a frame
that AGEN waits for may be brought here (R236). -/
def Agent.moves (a : Agent) (k : AgentKey) : List Instr :=
  (if a.acmds.isEmpty then [] else [.agenCommandPerform k]) ++
  (if a.acmds.any (fun c => c.page == .moving) then [.engineResume k false] else []) ++
  (a.xcmds.filter (fun c => !c.fin) ++ (a.xcmds.take 1).filter (·.fin)).map (fun c => .xchgCommandPerform k c.seq) ++
  (match a.sqr.ovly with
    | some o => if o.done then [] else [.overlayLoadComplete k]
    | none => [])

/-- The on-chip memories, by number (R213). -/
def memAt (i : Nat) : MemId :=
  let n := i % 4672
  if n < 1536 then .tileStore (n / 48) (n % 48)
  else if n < 3072 then .folio ((n - 1536) / 48) (n % 48)
  else if n < 4608 then .constBank ((n - 3072) / 48) (n % 48)
  else if n < 4640 then .queuePool (n - 4608)
  else .textStore (n - 4640)

/-- The next line of a background scrubber: which memory's it is, is free (R218, log 1: DESIGN CHOICE). -/
def State.scrubNext (s : State) : Instr :=
  let m := memAt (Config.pick [22, s.fresh])
  .scrubLine m (s.memstatOf m).pass

/-- A decoded slot acts by its op: a report, a resend request, or a message to deliver (R274, R276, R190). -/
def Slot.move (x : Slot) : Instr :=
  match x.hdr.op.toNat with
  | 5 => .reportReceive x.hdr
  | 6 => .resendRequestReceive x.hdr
  | _ => .messageDelivery x.key

/-- Moves that may come at this moment, in a fixed order; each of them may also come later (log 1: DESIGN CHOICE). -/
def State.openMoves (s : State) : List Instr :=
  s.agents.flatMap (fun e => e.2.moves e.1) ++
  (s.fab.slots.filter (fun x => x.st != .collecting)).map Slot.move ++
  (s.fab.outq.map (fun o => Instr.fragmentSend o.part o.f.plane.toNat o.f.cls.toNat)).eraseDups ++
  (s.strands.filter (fun e => !e.2.ist && (e.2.st == .halted || e.2.st == .running))).map (fun e => .launchEnd e.1) ++
  (s.strands.filter (fun e => e.2.st == .evicting)).map (fun e => .evictionSave e.1) ++
  (s.vcps.filter (fun e => e.2.wait.isSome)).map (fun e => .waitmemRetry e.1) ++
  s.events.map (fun _ => .eventDispatch) ++
  s.mgmt.overdue.map (fun q => .test q) ++ [s.scrubNext] ++
  s.phys.filterMap (fun p => p.lineOf.map (fun l => .scrubLine l.1 l.2)) ++
  (s.parts.filter (fun e => e.2.migwm.act)).map (fun e => .migrationLineCopy e.1)

/-- Deadlines that have passed (R272–R274, R277, R280). -/
def State.dueMoves (s : State) : List Instr :=
  (s.fab.slots.filter (fun x => x.st == .collecting && s.passedBefore x.part x.dtime && (x.resendBy.isNone || x.gotResent))).map
    (fun x => .slotDeadlineExpiry x.key) ++
  (s.fab.slots.filter s.waitOver).map (fun x => .resendWaitExpiry x.key) ++
  s.agents.flatMap (fun e => (e.2.xcmds.filter (s.reportDue e.1)).map (fun c => .reportDeadlineExpiry e.1 c.seq)) ++
  (s.fab.acc.filter (fun a => s.passedBefore a.part a.dtime)).map (fun a => .accessionEntryExpiry a.key) ++
  (s.fab.delayed.filter (fun d => decide (d.until_ ≤ s.fab.ftime))).map (fun d => .fdelayRelease d.plane)

/-- What comes at fixed intervals of real time after `t` and not after the present time: the periods of energy, host link and quota; the
time-sync beat, with a measured offset that is free; and the WAITMEMs, which are tried at least once per µs (R254, R255, R269, R279,
R303). -/
def State.periods (s : State) (t : Nat) : List Instr :=
  let crossed := fun (p : Nat) => decide (t / p < s.now / p)
  (if crossed 193800000 then [.energyPeriodStart] else []) ++
    (if crossed 19380000 then [.hostBudgetRefill, .timeSyncBeat (bv 32 (Config.pick [21, s.now]))] else []) ++
    (if crossed 1938000 then .fabricQuotaWindow :: (s.vcps.filter (fun e => e.2.wait.isSome)).map (fun e => .waitmemRetry e.1) else [])

/-- The moves of this moment join the list: periods and deadlines for certain, the others by free choice (log 1: DESIGN CHOICE, log 3: DESIGN CHOICE). -/
def State.gather (s : State) (t : Nat) : State :=
  let (key, s) := s.draw
  let open_ := (s.openMoves.zipIdx).filterMap (fun m => if flip [50, key, m.2] then none else some m.1)
  { s with pending := s.pending ++ (s.periods t ++ s.dueMoves ++ open_).map (fun i => (s.now, i)) }

/-! ## Mesh cycles (R241–R243, R249) -/

/-- Real time goes on to a moment; fabric time counts its nanoseconds, but for those that a slew holds back (R279, log 2: DEDUCED). -/
def State.advanceTo (s : State) (t : Nat) : State :=
  let u := max s.now t
  let d := u / 1938 - s.now / 1938
  { s with now := u, fab := { s.fab with ftime := s.fab.ftime + (d - s.fab.lag), lag := s.fab.lag - d } }

/-- The valid partition whose next mesh cycle comes first. -/
def State.nextPart (s : State) : Option Nat :=
  (s.parts.filter (fun e => e.2.lay.v)).foldl (fun (b : Option (Nat × Nat)) e =>
    match b with
    | some (_, d) => if e.2.due < d then some (e.1, e.2.due) else b
    | none => some (e.1, e.2.due)) none |>.map (·.1)

/-- The strand of a partition that has reached its stall limit, or whose grace has expired where it stands (R249, R253). -/
def State.forced (s : State) (p : Nat) : Option Instr :=
  ((s.strands.filter (fun e => e.1.part = p)).filterMap (fun e =>
    let x := e.2
    let past := x.evp && x.grace.any (fun g => decide (g ≤ s.fab.ftime))
    if past && (x.st == .stalled || (x.st == .frozen && !x.disputed)) then some (Instr.evictGraceExpiry e.1)
    else if x.st == .stalled && x.timer && x.atEntry == 0 && decide (s.limit e.1 ≤ x.wstall) then some (.stallTimeout e.1)
    else none)).head?

/-- What an owned entry brings its strand (R243, R248–R250, R253); none when the entry passes empty, as it does once every row has halted
(R63). -/
def State.entryStep (s : State) (k : StrandKey) : Option Instr :=
  let x := s.strand k
  match x.st with
  | .running =>
    if x.rephaseAt.any (fun T => decide (T ≤ x.stime)) then some (.rephasePoint k)
    else if x.evp && x.grace.any (fun g => decide (g ≤ s.fab.ftime)) then some (.evictGraceExpiry k)
    else if s.rowsHalted k then none
    else some (.strandCycle k)
  | .stalled =>
    if x.atEntry == 1 && decide (s.limit k ≤ x.wstall) then some (.stallTimeout k)
    else if x.replay.isSome then some (.replayRestart k)
    else some (.stallRelease k)
  | _ => none

/-- The clock of a partition's mesh and the stall timers after one mesh cycle (R241, R249). -/
def State.meshCycle (s : State) (p : Nat) : State :=
  let x := s.part p
  let s := s.setPart p { x with mc := x.mc + 1, due := x.due + meshPeriod x.lay.fcode, bdone := false }
  if x.stretched then s
  else { s with strands := s.strands.map (fun e =>
    if e.1.part = p ∧ e.2.timer then (e.1, { e.2 with wstall := e.2.wstall + 1 }) else e) }

/-- ONE MESH CYCLE of a partition: the frame boundary, then what stalls and graces force, then the entry (R242, R243). A strand whose timer
reaches the limit in a mesh cycle that it owns is tried in that cycle first (R32, R249, log 83: DESIGN CHOICE). -/
def State.mesh (s : State) (p : Nat) : Act :=
  let x := s.part p
  if x.mc % 16 = 0 ∧ !x.bdone then
    .run (.weaveFrameBoundary p) (s.setPart p { x with bdone := true })
  else match s.forced p with
    | some i => .run i s
    | none =>
      let t := s.now
      let s := (s.meshCycle p).advanceTo x.due
      let s := s.gather t
      if x.stretched then .done s
      else match x.slots[(bv 4 x.mc).toFin] with
        | none => .done s
        | some n => (match s.entryStep ⟨p, n.toNat⟩ with
          | some i => .run i s
          | none => .done s)

/-! ## A word made to issue next (log 1: DESIGN CHOICE) -/

/-- The current agent stands before the instruction whose bits are `n`, in a strand cycle that is issuing: its text holds the
words, its references make the first word due now. A START stands at index 0 in strand cycle 0 (R62). -/
def State.issueNext (s : State) (n : Nat) : State :=
  let k := s.cur
  let w : Word := bv 64 n
  let at0 := w = mkWord 0 0 1 0
  let pc := if at0 then 0 else 1
  let t := if at0 then 0 else 2048
  let a := s.agent k
  let q := { a.sqr with
    text0 := [(pc, w), (pc + 1, bv 64 (n / 2 ^ 64)), (pc + 2, bv 64 (n / 2 ^ 128))]
    pc := pc, bank := false, loops := [], refs := Refs.all (t - 1 - wordIdle w), prev := none, jump := none, halted := false
    skip := [], late := none, bad := false }
  let x := s.strand k.sk
  let s := s.setStrand k.sk { x with st := .running, stime := t, l := { x.l with tlen := 16384 }, bases := [0, 0, 0, 0, 0] }
  let s := s.setAgent k { a with sqr := q }
  { s with
    cyc := some ⟨k.sk, [k.row], true⟩
    phys := s.phys.filter (fun p => match p.lineOf with | some (.textStore _, _) => false | _ => true) }

/-! ## The next step -/

/-- When a fragment that comes at a time is handled: at the end of the mesh cycle of its partition in which it comes (R271); none before
then. A partition with no clock has no mesh cycles. -/
def State.fragWhen (s : State) (p τ : Nat) : Option Nat :=
  let x := s.part p
  let P := meshPeriod x.lay.fcode
  if !x.lay.v then (if τ ≤ s.now then some τ else none)
  else if τ ≤ x.due - P then some (x.due - (x.due - τ) / P * P) else none

/-- When a move of the list acts, and its place among those of one moment: fragments of one mesh cycle go in the order of their index
(R271), released ones among them; none where its time has not come. -/
def State.moveKey (s : State) (e : Nat × Instr) : Option (Nat × Nat) :=
  match e.2 with
  | .fragmentReceive _ f | .fragmentForward _ f => (s.fragWhen f.dpart.toNat e.1).map (fun t => (t, f.fidx.toNat))
  | .fdelayRelease n => (match lowest (s.overdue n) with
    | some d => (s.fragWhen d.f.dpart.toNat e.1).map (fun t => (t, d.f.fidx.toNat))
    | none => if e.1 ≤ s.now then some (e.1, 0) else none)
  | _ => if e.1 ≤ s.now then some (e.1, 0) else none

/-- The move of the list that comes first of those whose time has come; among equals the one listed first. -/
def State.firstMove (s : State) : Option ((Nat × Instr) × Nat × Nat) :=
  s.pending.foldl (fun b e =>
    match s.moveKey e, b with
    | some k, some (d, j) => if k.1 < j.1 ∨ (k.1 = j.1 ∧ k.2 < j.2) then some (e, k) else some (d, j)
    | some k, none => some (e, k)
    | none, b => b) none

/-- That move, and the list without it. -/
def State.takeDue (s : State) : Option (Instr × List (Nat × Instr)) := s.firstMove.map (fun m => (m.1.2, s.pending.erase m.1))

/-- One word, by a step of its own, of a move that reads or writes many words of device memory for the front end (R209, log 37: DESIGN CHOICE). -/
def State.ahead (s : State) (i : Instr) : Option State :=
  match i with
  | .evictionSave k => some (s.saveAhead k)
  | .readmission k anyphase move => some (s.readmitAhead k anyphase move)
  | .launchEnd k => some (s.endAhead k)
  | .engineResume k false => ((s.agent k).acmds.find? (fun c => c.page == .moving)).map (fun c => s.bringFrame k c false)
  | _ => none

/-- A move of the list acts if it is one that may come so; in recovery only the side band answers (R311). One with many words may do one of them
first, and then comes again (R209, log 37: DESIGN CHOICE). -/
def State.moveStep (s : State) (i : Instr) : Act :=
  if isMove i && (!s.mgmt.recovery || sideBand i) then
    match s.ahead i, flip [78, s.now, s.fresh] with
    | some t, true => .done { t with fresh := t.fresh + 1, pending := t.pending ++ [(s.now, i)] }
    | _, _ => .run i s
  else .done s

/-- The VCP that a front-end core goes on with now, if one does: packets of different VCPs have no order between them, and a packet has no
time (R301, log 1: DESIGN CHOICE). -/
def State.readyVcp (s : State) : Option Nat :=
  if flip [75, s.now, s.fresh] then none
  else choose [76, s.now, s.fresh] none ((s.vcps.filter (fun e => s.vcpReady e.1)).map (fun e => some e.1))

/-- The next act of the machine: a strand cycle that is issuing comes first, since it is one instant of strand time (R11);
then a packet, then a move whose time has come, then a layout commit, then a mesh cycle. -/
def State.act (s : State) : Act :=
  match s.cyc with
  | some c => s.fetchStep c
  | none =>
    match s.readyVcp with
    | some v => (match s.vcpStep v with
      | (some i, s) => .run i s
      | (none, s) => .done s)
    | none =>
      match s.takeDue with
      | some (i, l) => ({ s with pending := l } : State).moveStep i
      | none =>
        if s.mgmt.commit ≠ .idle then .done s.commitStep
        else match s.nextPart with
          | some p => s.mesh p
          | none => .done ((s.advanceTo (s.now + 1020)).gather s.now)

end Sys2Proof.Machine
end

