-- ==== Sys2Proof/Machine/Step.lean ====
section
/-! DEFINITION. One step of the machine, and a state made to issue a given word next. -/

namespace Sys2Proof.Machine

open Sys2Proof

/-- One step: the next act, and the meaning of the instruction it brings. -/
def step (s : State) : Host.Outcome State Fault Refusal :=
  match s.act with
  | .done t => .next t
  | .run i t => exec i t

/-- The state in which the instruction whose bits are `w` issues next at the current agent (log 1: DESIGN CHOICE). -/
def State.withFetchWord (s : State) (nbits w : Nat) : State := s.issueNext (w % 2 ^ nbits)

end Sys2Proof.Machine
end

