-- ==== Sys2Proof/Safety.lean ====
section
/-! DEFINITION. The terms the statements use: an instruction that goes on, what a word leaves alone, a stall, a static-stream
fault taken, a CORE word in the pipe and its effect at a column, and device memory in canonical form. -/

namespace Sys2Proof.Machine

open Sys2Proof

/-- The instruction answers a next state, which has a property. -/
def goes (i : Instr) (s : State) (P : State → Prop) : Prop := ∃ t, exec i s = .next t ∧ P t

/-- The device memory that the host sees as G is in canonical form. -/
def State.memOk (s : State) : Prop := s.mem.wf = true

/-! ## What a word leaves alone (R8, R11) -/

/-- Nothing differs but agents and the model's own free-value counter, and of the agents only one. -/
def onlyAgent (k : AgentKey) (s t : State) : Prop :=
  t = { s with agents := t.agents, fresh := t.fresh } ∧ ∀ j, j ≠ k → t.agent j = s.agent j

/-- Nothing differs but the agent whose word issues, and the model's own free-value counter. -/
def onlyMe (s t : State) : Prop := onlyAgent s.cur s t

/-- Nothing differs but one strand. -/
def onlyStrand (k : StrandKey) (s t : State) : Prop :=
  t = { s with strands := t.strands } ∧ ∀ j, j ≠ k → t.strand j = s.strand j

/-- Nothing differs but one partition. -/
def onlyPart (p : Nat) (s t : State) : Prop := t = { s with parts := t.parts } ∧ ∀ q, q ≠ p → t.part q = s.part q

/-- Nothing differs but one VCP. -/
def onlyVcp (v : Nat) (s t : State) : Prop := t = { s with vcps := t.vcps } ∧ ∀ u, u ≠ v → t.vcp u = s.vcp u

/-- Results of the sequencer wait to land with L = 1; nothing else of the machine differs (R23). -/
def pends (s t : State) (ps : List Pend) : Prop :=
  onlyMe s t ∧ t.me = { s.me with sqr := { s.sqr with pend := s.sqr.pend ++ ps } }

/-- The strand stalls before this strand cycle; nothing else differs (R25, R30). -/
def stalls (s t : State) : Prop := onlyStrand s.cur.sk s t ∧ t.myStrand = { s.myStrand with st := .stalled }

/-- The fault that is taken where a check finds one: a word that stands too late in the text takes its order fault, and one at the
end of a loop iteration its kernel overrun, before those that R57 lists after it (R49, R51, R57, R287). -/
def faultOf (s : State) (kind cause : Nat) : Nat × Nat :=
  match s.sqr.late with
  | some (.order _) => if 2 < kind then (3, 0) else (kind, cause)
  | some (.overrun ..) => if 3 < kind then (4, 0) else (kind, cause)
  | none => (kind, cause)

/-- Nothing of a partition differs but its host-link requests (R255). -/
def sameParts (s t : State) : Prop :=
  ∀ p, t.part p = { s.part p with rd := (t.part p).rd, wrq := (t.part p).wrq, ats := (t.part p).ats }

/-- A static-stream fault is taken (R32, R284, R287): the strand freezes with kind and cause, its record names the agent, the
strand cycle and the word, and no agent, memory, partition or fabric state differs but the mark that no word of this row
follows, and the requests that write the record (R255). -/
def faults (s t : State) (idx kind cause : Nat) : Prop :=
  (∀ k, k ≠ s.cur → t.agent k = s.agent k) ∧ t.me = { s.me with sqr := { s.sqr with bad := true } } ∧
  (∀ k, k ≠ s.cur.sk → t.strand k = s.strand k) ∧ t.mem = s.mem ∧ t.fab = s.fab ∧ sameParts s t ∧ t.cur = s.cur ∧
  t.myStrand.st = .frozen ∧ t.myStrand.freeze = some (faultOf s kind cause) ∧ t.myStrand.stime = s.myStrand.stime ∧
  ∃ r, t.myStrand.recs = s.myStrand.recs ++ [r] ∧ (r.kind.toNat, r.cause.toNat) = faultOf s kind cause ∧ r.tidx = bv 14 idx ∧
    r.stc = bv 64 s.t ∧ r.lid = s.myStrand.l.lid ∧ r.strand = bv 4 s.cur.strand ∧ r.part = bv 3 s.cur.part ∧ r.row = bv 5 s.cur.row

/-! ## CORE words (R20, R21, R42) -/

/-- A CORE word has entered the pipe of its row at the strand cycle of its issue with its stage guard and its snapshots; nothing
else differs. -/
def piped (s t : State) (g : Guard) (w : PipeWord) : Prop :=
  onlyMe s t ∧ t.me = { s.me with pipe := KV.put s.me.pipe s.t w } ∧ w.stage = s.sqr.stageGuard g ∧ w.fpc = s.sqr.fpc ∧
    w.ovf = s.sqr.ovf ∧ w.held = false

/-- The guards of a word hold at a column: its stage guard and its core predicate. -/
def enabled (x : Ctx) (g : Guard) : Prop := x.w.stage = true ∧ x.core.guard g = true

/-- A CORE word issues, and at every column where its guards hold its effect has a property; where they do not, it has none. -/
def coreDoes (i : Instr) (s : State) (g : Guard) (P : PipeWord → Ctx → Eff → Prop) : Prop :=
  ∃ t w, exec i s = .next t ∧ piped s t g w ∧
    ∀ x : Ctx, x.w = w → (enabled x g → P w x (columnWord w.ins x)) ∧ (¬ enabled x g → columnWord w.ins x = Eff.none)

/-- Lane i of a row, w bits wide (R15, R111). -/
def lane (w : Nat) (d : BitVec 1024) (i : Nat) : Nat := d.toNat / 2 ^ (w * i) % 2 ^ w

/-- The one effect at a column is a row that lands after L strand cycles, with flags where any are set. -/
def landsRow (e : Eff) (L : Nat) (v : BitVec 10) (r : RowV) (f : BitVec 5) (read : Bool) : Prop :=
  e = { Eff.none with lands := (L, .row v.toNat r) :: flagLand L f, read := read }

/-- The row operands lie in the window after renaming (R14, R57). -/
def rowsIn (s : State) (vs : List (BitVec 10)) : Prop := ∀ v ∈ vs, s.sqr.rowIndex v.toNat < s.myStrand.l.nrows

/-- The tile operands lie in the window after renaming (R14, R57). -/
def tilesIn (s : State) (ms : List (BitVec 5)) : Prop :=
  ∀ m ∈ ms, 32 * s.sqr.tileIndex m.toNat + 32 ≤ s.myStrand.l.nrows

/-- The B operand lies in its window (R57, R112). -/
def bIn (s : State) : BSrc → Prop
  | .row v => s.sqr.rowIndex v.toNat < s.myStrand.l.nrows
  | .kb n => n.toNat < s.myStrand.l.nkb
  | .lit _ | .slot _ => True

/-- An operand of a CORE word that must lie in a window of its strand: a row, a tile, a constant-bank word, or a run of folio units (R57). -/
inductive Use where
  | row (v : BitVec 10)
  | tile (m : BitVec 5)
  | bank (n : Nat)
  | folio (first units : Nat)

/-- The operand lies in its window, rows and tiles after renaming (R14, R57). -/
def Use.inside (s : State) : Use → Prop
  | .row v => s.sqr.rowIndex v.toNat < s.myStrand.l.nrows
  | .tile m => 32 * s.sqr.tileIndex m.toNat + 32 ≤ s.myStrand.l.nrows
  | .bank n => n < s.myStrand.l.nkb
  | .folio d n => d + n ≤ s.myStrand.l.nunits

/-- The cause of a window violation of the operand (R57, R285). -/
def Use.cause : Use → Nat
  | .row _ => 1
  | .tile _ => 2
  | .folio .. => 3
  | .bank _ => 4

/-- The windows a B operand uses (R112). -/
def bUses : BSrc → List Use
  | .row v => [.row v]
  | .kb n => [.bank n.toNat]
  | _ => []

/-- Folio units that a tile takes in a format (R159). -/
def tileRun : Cvt → Nat
  | .raw | .f32 | .i32 => 128
  | .bf16 => 64
  | .m8 => 33
  | .i8 => 32

/-- The windows that a CORE word of one or two rows, a folio word, or a matrix word uses, in the order of its operands (R112, R120–R134, R145,
R152, R153, R156–R159). A B operand of a folio base in a scalar counts from the displacement (R143). -/
def usesOf : Instr → List Use
  | .vany _ _ va | .vall _ _ va => [.row va]
  | .vadd _ _ _ vd va b | .vsub _ _ _ vd va b | .vmul _ _ _ vd va b | .vfma _ _ _ vd va b | .vfms _ _ _ vd va b | .vfmh _ _ _ vd va b
  | .vmin _ _ _ vd va b | .vmax _ _ _ vd va b | .vcmp _ _ _ vd va b | .viadd _ _ _ vd va b | .visub _ _ _ vd va b | .vimul _ _ _ vd va b
  | .vicmp _ _ _ vd va b => .row vd :: .row va :: bUses b
  | .vsel _ _ vd va b => .row vd :: .row va :: bUses b
  | .vperm _ _ vd va b => .row vd :: .row va :: bUses b
  | .vand _ _ vd va b | .vor _ _ vd va b | .vxor _ _ vd va b | .vshl _ _ vd va b | .vshr _ _ vd va b | .vsra _ _ vd va b
  | .vimin _ _ vd va b | .vimax _ _ vd va b => .row vd :: .row va :: bUses b
  | .vfxa _ vd va b => .row vd :: .row va :: (match b with | .row v => [.row v] | _ => [])
  | .vabs _ _ vd va | .vneg _ _ vd va => [.row vd, .row va]
  | .vrcp _ _ _ vd va | .vrsq _ _ _ vd va | .vsqrt _ _ _ vd va | .vexp2 _ _ _ vd va | .vlog2 _ _ _ vd va | .vtanh _ _ _ vd va
  | .vsigm _ _ _ vd va | .vsin _ _ _ vd va | .vcos _ _ _ vd va => [.row vd, .row va]
  | .vcvt _ _ _ _ _ vd va | .vfxc _ vd va | .vfxf _ _ vd va | .vrsum _ _ _ _ vd va => [.row vd, .row va]
  | .vrmax _ _ vd va | .vrmin _ _ vd va => [.row vd, .row va]
  | .vbcast _ _ vd va _ | .vrot _ _ vd va _ => [.row vd, .row va]
  | .vladd _ _ _ vd va _ | .vfxl _ vd va _ => [.row vd, .row va]
  | .vaddi _ vd va _ | .vmuli _ vd va _ | .vfmhi _ vd va _ | .vmini _ vd va _ | .vmaxi _ vd va _ | .viaddi _ vd va _ | .vandi _ vd va _ =>
    [.row vd, .row va]
  | .vshli _ vd va _ => [.row vd, .row va]
  | .vli _ vd _ => [.row vd]
  | .vmov _ _ vd b => .row vd :: bUses b
  | .vgetl _ _ v _ => [.row v]
  | .vputl _ _ _ v => [.row v]
  | .fldv _ c v _ d | .fstv _ c _ d v => [.row v, .folio d.toNat (cvtUnits c)]
  | .fldm _ c m _ d | .fstm _ c _ d m => [.tile m, .folio d.toNat (tileRun c)]
  | .mma _ f _ _ _ md a _ bd =>
    .tile md :: (match a with | .tile m => [.tile m] | .folio _ => [.folio 0 (mmaUnits f)] | .lane => []) ++ [.folio bd.toNat (mmaUnits f)]
  | .mzero _ md => [.tile md]
  | .mtrn _ md ma => [.tile md, .tile ma]
  | _ => []

/-- A word of the matrix array (R145, R152, R153). -/
def isMatrix : Instr → Bool
  | .mma .. | .mzero .. | .mtrn .. => true
  | _ => false

/-! ## Values of sequencer and agent words, as whole numbers -/

/-- The destination and the exact value of a sequencer arithmetic word, before it wraps to 64 bits (R69, R70). -/
def aluValue (x : BitVec 4 → Word) : Instr → Option (BitVec 4 × Int)
  | .xadd d a b => some (d, (x a).toInt + (x b).toInt)
  | .xsub d a b => some (d, (x a).toInt - (x b).toInt)
  | .xmul d a b => some (d, (x a).toInt * (x b).toInt)
  | .xand d a b => some (d, ((x a).toNat &&& (x b).toNat : Nat))
  | .xor_ d a b => some (d, ((x a).toNat ||| (x b).toNat : Nat))
  | .xxor d a b => some (d, ((x a).toNat ^^^ (x b).toNat : Nat))
  | .xshl d a b => some (d, ((x a).toNat * 2 ^ ((x b).toNat % 64) : Nat))
  | .xshr d a b => some (d, ((x a).toNat / 2 ^ ((x b).toNat % 64) : Nat))
  | .xsra d a b => some (d, (x a).toInt / 2 ^ ((x b).toNat % 64))
  | .xmin d a b => some (d, min (x a).toInt (x b).toInt)
  | .xmax d a b => some (d, max (x a).toInt (x b).toInt)
  | .xcmp d a b => some (d, ((x a).toInt - (x b).toInt).sign)
  | .xaddi d a i => some (d, (x a).toInt + i.toInt)
  | .xandi d a i => some (d, ((x a).toNat &&& (i.signExtend 64).toNat : Nat))
  | .xori d a i => some (d, ((x a).toNat ||| (i.signExtend 64).toNat : Nat))
  | .xxori d a i => some (d, ((x a).toNat ^^^ (i.signExtend 64).toNat : Nat))
  | .xshli d a i => some (d, ((x a).toNat * 2 ^ i.toNat : Nat))
  | .xshri d a i => some (d, ((x a).toNat / 2 ^ i.toNat : Nat))
  | .xsrai d a i => some (d, (x a).toInt / 2 ^ i.toNat)
  | .xli d i => some (d, i.toInt)
  | .xlil d v => some (d, v.toInt)
  | _ => none

/-- Truth of a branch condition over the values of the two registers (R39, R64). -/
def brTrue : BrCond → Word → Word → Prop
  | .always, _, _ => True
  | .z, a, _ => a.toInt = 0
  | .nz, a, _ => a.toInt ≠ 0
  | .neg, a, _ => a.toInt < 0
  | .nneg, a, _ => 0 ≤ a.toInt
  | .eq, a, b => a.toInt = b.toInt
  | .ne, a, b => a.toInt ≠ b.toInt
  | .lt, a, b => a.toInt < b.toInt
  | .ltu, a, b => a.toNat < b.toNat

/-- The entries that a queue holds, the places that a replayable phase keeps besides, and its depth (R24, R76, R220). -/
def heldOf (q : Queues) (n : Nat) : Nat × Nat × Nat :=
  if n = 6 then (q.q6.items.length, q.q6.kept, 16) else if n = 7 then (q.q7.items.length, q.q7.kept, 16)
  else if n = 8 then (q.q8.length, 0, 255) else if n = 9 then (q.q9, 0, 255)
  else if n = 10 then (q.q10.length, 0, 255) else if n = 11 then (q.q11, 0, 255)
  else ((q.beat n).items.length, (q.beat n).kept, (q.beat n).depth)

/-- Truth of a queue test (R65, R220): a token queue is full at 255 tokens; the head of an empty beat queue carries no poison, and an
empty queue is not clean. -/
def qTrue (t : QTest) (q : Queues) (n : Nat) : Prop :=
  let h := heldOf q n
  match t with
  | .empty => h.1 = 0
  | .nempty => h.1 ≠ 0
  | .full => if 8 ≤ n ∧ n ≤ 11 then h.1 = 255 else h.2.2 ≤ h.1 + h.2.1
  | .pois => ∃ e l, (q.beat n).items = e :: l ∧ e.pois ≠ 0
  | .clean => ∃ e l, (q.beat n).items = e :: l ∧ e.pois = 0

/-- The queues that a test may name: poison is asked of beat queues (R65). -/
def qMay (t : QTest) (q : BitVec 4) : Prop := t = .pois ∨ t = .clean → q.toNat < 6 ∨ 12 ≤ q.toNat

/-- The text index that a BQ names (R65). -/
def bqTarget (s : State) (disp : BitVec 20) : Nat := (BitVec.ofInt 64 (s.idx + disp.toInt)).toNat

/-- The text index that a BR or CALL names, wrapped to 64 bits (R64). -/
def brTarget (s : State) (c : BrCond) (xa : BitVec 4) (disp : BitVec 20) : Nat :=
  (BitVec.ofInt 64 (s.idx + disp.toInt + (if c = .always then (s.xr xa).toInt else 0))).toNat

/-- A value an A1 word, ATOX or an XCHG word may read from an agent register: the register, or a value before or after an
engine write that the program has not observed (R170). -/
def aMay (a : Agent) (r : BitVec 4) (v : Word) : Prop := v = a.ar r ∨ ∃ e ∈ a.aAlt, e.reg = r ∧ e.written = some v

/-- The agent register word leaves `v`: the whole register, or field k of `from_` replaced by `f` (R165, R174). -/
def putsField (v from_ : Word) (k : BitVec 2) (f : Nat) : Prop :=
  ∀ j : BitVec 2, (fieldOf v j).toNat = if j = k then f % 65536 else (fieldOf from_ j).toNat

/-- A value that an AGEN word samples from an agent register (R169, R170): the register, or what an earlier command has written there.
The last write of an uncompleted command stands, and the last of a completed one too unless the program wrote the register. -/
def aSamples (a : Agent) (r : BitVec 4) (v : Word) : Prop :=
  aMay a r v ∧ ((∀ e ∈ a.aAlt, e.reg = r → e.written = none) → v = a.ar r) ∧
  ∀ p e l w, a.aAlt = p ++ e :: l → e.reg = r → a.tca < e.seq ∨ e.clash = false → e.written = some w →
    (∀ f ∈ l, f.reg = r → f.written = none) → v = w

/-- An AGEN command with number `seq` has written `v` to agent register `r` between `a` and `b` (R170): its entry holds the value, every
later AGEN command takes it, and what the register holds beside it is as before until the observation. -/
def wroteA (seq : Nat) (r : BitVec 4) (v : Word) (a b : Agent) : Prop :=
  (∀ e ∈ b.aAlt, e.reg = r → e.seq = seq → e.written = some v) ∧ (∀ c ∈ b.acmds, seq < c.seq → c.a[BitVec.toFin r] = v) ∧
  b.ar r = a.ar r ∧ b.aAlt.map (fun e => (e.reg, e.seq, e.clash)) = a.aAlt.map (fun e => (e.reg, e.seq, e.clash))

/-- The place of a row's issue in a strand cycle: the agent of row r issues. -/
def State.atWord (s : State) (c : Cyc) (r : Nat) : State := { s with cur := ⟨c.key.part, c.key.strand, r⟩ }

/-! ## Exact values (R90, R105) -/

/-- Whether a value is a number. -/
def Fp.isFin : Fp → Bool
  | .fin .. => true
  | _ => false

/-- The exponent of the lowest bit of a number. -/
def Fp.low : Fp → Int
  | .fin _ _ e => e
  | _ => 0

/-- The sign of a number. -/
def Fp.minus : Fp → Bool
  | .fin n .. => n
  | .inf n => n
  | .nan _ => false

/-- A number in units of 2^lo, exact where lo is at most the exponent of its lowest bit. -/
def Fp.scaled (lo : Int) : Fp → Int
  | .fin neg m e => (if neg then -1 else 1) * ((m * 2 ^ (e - lo).toNat : Nat) : Int)
  | _ => 0

/-- Whether a value is less than another: numbers by their exact values, infinities beyond all of them, NaNs never (R91). -/
def Fp.below : Fp → Fp → Bool
  | .nan _, _ | _, .nan _ => false
  | .inf n, .inf k => n && !k
  | .inf n, .fin .. => n
  | .fin .., .inf k => !k
  | a, b => let lo := min a.low b.low; decide (a.scaled lo < b.scaled lo)

/-- The product of two numbers in units of 2^lo, exact where lo is at most the sum of their exponents. -/
def Fp.times (lo : Int) (a b : Fp) : Int := a.scaled a.low * b.scaled b.low * ((2 ^ (a.low + b.low - lo).toNat : Nat) : Int)

/-! ## CORE words by value -/

/-- A scalar source of a C3 word (R114). -/
def srcS (s : BitVec 4 → BitVec 32) : SSrc → BitVec 32
  | .reg r => s r
  | .imm i => i.signExtend 32

/-- The guard and destination of a word that writes a scalar register with a value of its sources (R114, R115, R117). -/
def scalarDest : Instr → Option (Guard × BitVec 4)
  | .sadd g d _ _ | .ssub g d _ _ | .smul g d _ _ | .sand g d _ _ | .sor g d _ _ | .sxor g d _ _ | .sshl g d _ _
  | .sshr g d _ _ | .ssra g d _ _ | .smin g d _ _ | .smax g d _ _ | .smovx g d _ | .sli g d _ => some (g, d)
  | _ => none

/-- Its exact value before it wraps to 32 bits: x registers at issue, scalar registers at the column. -/
def scalarValue (x : BitVec 4 → Word) (s : BitVec 4 → BitVec 32) : Instr → Int
  | .sadd _ _ a b => (s a).toInt + (srcS s b).toInt
  | .ssub _ _ a b => (s a).toInt - (srcS s b).toInt
  | .smul _ _ a b => (s a).toInt * (srcS s b).toInt
  | .sand _ _ a b => ((s a).toNat &&& (srcS s b).toNat : Nat)
  | .sor _ _ a b => ((s a).toNat ||| (srcS s b).toNat : Nat)
  | .sxor _ _ a b => ((s a).toNat ^^^ (srcS s b).toNat : Nat)
  | .sshl _ _ a b => ((s a).toNat * 2 ^ ((srcS s b).toNat % 32) : Nat)
  | .sshr _ _ a b => ((s a).toNat / 2 ^ ((srcS s b).toNat % 32) : Nat)
  | .ssra _ _ a b => (s a).toInt / 2 ^ ((srcS s b).toNat % 32)
  | .smin _ _ a b => min (s a).toInt (srcS s b).toInt
  | .smax _ _ a b => max (s a).toInt (srcS s b).toInt
  | .smovx _ _ xa => (x xa).toInt
  | .sli _ _ (.imm i) => i.toInt
  | .sli _ _ (.lit w) => w.toInt
  | _ => 0

/-- Truth of an integer compare over exact values (R44). -/
def icondTrue : ICond → Int → Int → Prop
  | .eq, a, b => a = b
  | .ne, a, b => a ≠ b
  | .lt, a, b => a < b
  | .le, a, b => a ≤ b
  | .gt, a, b => b < a
  | .ge, a, b => b ≤ a

/-- The one effect at a column is a scalar result with L = 1; a write to s0 is discarded (R114). -/
def landsS (e : Eff) (d : BitVec 4) (v : BitVec 32) : Prop :=
  e = { Eff.none with lands := if d = 0 then [] else [(1, .sreg d v)] }

/-- The one effect at a column is a predicate result with L = 1 (R118). -/
def landsP (e : Eff) (d : BitVec 4) (c : Prop) (read : Bool) : Prop :=
  ∃ v : Bool, e = { Eff.none with lands := [(1, .pred d v)], read := read } ∧ (v = true ↔ c)

/-- The one effect at a column is a row result of w-bit lanes f 0, f 1, …, with L: poisoned by any source row and by any lane
that poisons, with the flags of every lane (R94, R103, R104, R111). -/
def lanewise (e : Eff) (L w : Nat) (vd : BitVec 10) (srcs : List PlaceV) (f : Nat → Res) : Prop :=
  let ks := List.range (1024 / w)
  let p := srcs.any (·.pois)
  ∃ d, landsRow e L vd ⟨d, p || ks.any (fun k => (f k).pois)⟩ (orFlags (ks.map f)) p ∧
    ∀ k, k < 1024 / w → lane w d k = (f k).bits % 2 ^ w

/-- A lane as a signed number (R100). -/
def slane (w v : Nat) : Int := if v < 2 ^ (w - 1) then v else (v : Int) - 2 ^ w

/-- A signed number held in the range of w bits (R100). -/
def clampI (w : Nat) (v : Int) : Int := max (-(2 ^ (w - 1))) (min (2 ^ (w - 1) - 1) v)

/-- All ones (−1) where an integer compare holds, else zero (R44, R123). -/
def icondValue : ICond → Int → Int → Int
  | .eq, a, b => if a = b then -1 else 0
  | .ne, a, b => if a = b then 0 else -1
  | .lt, a, b => if a < b then -1 else 0
  | .le, a, b => if a ≤ b then -1 else 0
  | .gt, a, b => if b < a then -1 else 0
  | .ge, a, b => if b ≤ a then -1 else 0

/-- A vector word of integers: guard, type, vd, va, B, and the exact value of a lane before it wraps (R123, R126, R133). -/
def intWord : Instr → Option (Guard × ITy × BitVec 10 × BitVec 10 × BSrc × (Nat → Nat → Int))
  | .viadd g ty sat vd va b => let w := widthI ty
    some (g, ty, vd, va, b, fun p q => if sat then clampI w (slane w p + slane w q) else p + q)
  | .visub g ty sat vd va b => let w := widthI ty
    some (g, ty, vd, va, b, fun p q => if sat then clampI w (slane w p - slane w q) else p - q)
  | .vimul g ty sat vd va b => let w := widthI ty
    some (g, ty, vd, va, b, fun p q => if sat then clampI w (slane w p * slane w q) else p * q)
  | .vand g ty vd va b => some (g, ty, vd, va, b, fun p q => (p &&& q : Nat))
  | .vor g ty vd va b => some (g, ty, vd, va, b, fun p q => (p ||| q : Nat))
  | .vxor g ty vd va b => some (g, ty, vd, va, b, fun p q => (p ^^^ q : Nat))
  | .vshl g ty vd va b => some (g, ty, vd, va, b, fun p q => (p * 2 ^ (q % widthI ty) : Nat))
  | .vshr g ty vd va b => some (g, ty, vd, va, b, fun p q => (p / 2 ^ (q % widthI ty) : Nat))
  | .vsra g ty vd va b => let w := widthI ty
    some (g, ty, vd, va, b, fun p q => slane w p / 2 ^ (q % w))
  | .vimin g ty vd va b => let w := widthI ty
    some (g, ty, vd, va, b, fun p q => min (slane w p) (slane w q))
  | .vimax g ty vd va b => let w := widthI ty
    some (g, ty, vd, va, b, fun p q => max (slane w p) (slane w q))
  | .vicmp g c ty vd va b => let w := widthI ty
    some (g, ty, vd, va, b, fun p q => icondValue c (slane w p) (slane w q))
  | .viaddi p vd va i => some (⟨false, p.setWidth 4⟩, .i32, vd, va, .lit (i.signExtend 32), fun p q => p + q)
  | .vandi p vd va i => some (⟨false, p.setWidth 4⟩, .i32, vd, va, .lit (i.signExtend 32), fun p q => (p &&& q : Nat))
  | .vshli p vd va i => some (⟨false, p.setWidth 4⟩, .i32, vd, va, .lit (i.setWidth 32), fun p q => (p * 2 ^ q : Nat))
  | _ => none

/-- A floating-point word of a row, a B operand and perhaps vd: guard, type, rounding, vd, va, B, whether it reads vd, L, and the
result of a lane from A, B and vd (R91, R121, R123, R133). -/
def floatWord : Instr → Option (Guard × FTy × Rnd × BitVec 10 × BitVec 10 × BSrc × Bool × Nat × (FEnv → Nat → Nat → Nat → Res))
  | .vadd g ty r vd va b => let u := fpUnpack (fracOf ty)
    some (g, ty, r, vd, va, b, false, 4, fun e p q _ => fpAdd (fracOf ty) e (u p) (u q))
  | .vsub g ty r vd va b => let u := fpUnpack (fracOf ty)
    some (g, ty, r, vd, va, b, false, 4, fun e p q _ => fpAdd (fracOf ty) e (u p) (u q).negate)
  | .vmul g ty r vd va b => let u := fpUnpack (fracOf ty)
    some (g, ty, r, vd, va, b, false, 4, fun e p q _ => fpMul (fracOf ty) e (u p) (u q))
  | .vfma g ty r vd va b => let u := fpUnpack (fracOf ty)
    some (g, ty, r, vd, va, b, true, 4, fun e p q v => fpFused (fracOf ty) e false (u p) (u q) (u v))
  | .vfms g ty r vd va b => let u := fpUnpack (fracOf ty)
    some (g, ty, r, vd, va, b, true, 4, fun e p q v => fpFused (fracOf ty) e true (u p) (u q) (u v))
  | .vfmh g ty r vd va b => let u := fpUnpack (fracOf ty)
    some (g, ty, r, vd, va, b, true, 4, fun e p q v => fpFused (fracOf ty) e false (u v) (u p) (u q))
  | .vmin g ty r vd va b => some (g, ty, r, vd, va, b, false, 2, fun _ p q _ => fpMinMax (fracOf ty) false p q)
  | .vmax g ty r vd va b => some (g, ty, r, vd, va, b, false, 2, fun _ p q _ => fpMinMax (fracOf ty) true p q)
  | .vcmp g c ty vd va b => some (g, ty, .fpc, vd, va, b, false, 2, fun _ p q _ =>
      ⟨if (fpCompare (fracOf ty) c p q).1 then 2 ^ widthF ty - 1 else 0, (fpCompare (fracOf ty) c p q).2, false⟩)
  | .vaddi p vd va i => some (⟨false, p.setWidth 4⟩, .f32, .fpc, vd, va, .lit (i.setWidth 32 <<< 12), false, 4,
      fun e p q _ => fpAdd 23 e (fpUnpack 23 p) (fpUnpack 23 q))
  | .vmuli p vd va i => some (⟨false, p.setWidth 4⟩, .f32, .fpc, vd, va, .lit (i.setWidth 32 <<< 12), false, 4,
      fun e p q _ => fpMul 23 e (fpUnpack 23 p) (fpUnpack 23 q))
  | .vfmhi p vd va i => some (⟨false, p.setWidth 4⟩, .f32, .fpc, vd, va, .lit (i.setWidth 32 <<< 12), true, 4,
      fun e p q v => fpFused 23 e false (fpUnpack 23 v) (fpUnpack 23 p) (fpUnpack 23 q))
  | .vmini p vd va i => some (⟨false, p.setWidth 4⟩, .f32, .fpc, vd, va, .lit (i.setWidth 32 <<< 12), false, 2,
      fun _ p q _ => fpMinMax 23 false p q)
  | .vmaxi p vd va i => some (⟨false, p.setWidth 4⟩, .f32, .fpc, vd, va, .lit (i.setWidth 32 <<< 12), false, 2,
      fun _ p q _ => fpMinMax 23 true p q)
  | _ => none

/-- A floating-point word of one row: guard, type, vd, va, L, and the result of a lane (R122, R125). -/
def unaryWord (env : FTy → Rnd → FEnv) : Instr → Option (Guard × FTy × BitVec 10 × BitVec 10 × Nat × (Nat → Res))
  | .vabs g ty vd va => some (g, ty, vd, va, 2, fpSignOp (fracOf ty) false)
  | .vneg g ty vd va => some (g, ty, vd, va, 2, fpSignOp (fracOf ty) true)
  | .vrcp g ty r vd va => some (g, ty, vd, va, 10, spLane (fracOf ty) (env ty r) .rcp)
  | .vrsq g ty r vd va => some (g, ty, vd, va, 10, spLane (fracOf ty) (env ty r) .rsq)
  | .vsqrt g ty r vd va => some (g, ty, vd, va, 10, spLane (fracOf ty) (env ty r) .sqrt)
  | .vexp2 g ty r vd va => some (g, ty, vd, va, 10, spLane (fracOf ty) (env ty r) .exp2)
  | .vlog2 g ty r vd va => some (g, ty, vd, va, 10, spLane (fracOf ty) (env ty r) .log2)
  | .vtanh g ty r vd va => some (g, ty, vd, va, 10, spLane (fracOf ty) (env ty r) .tanh)
  | .vsigm g ty r vd va => some (g, ty, vd, va, 10, spLane (fracOf ty) (env ty r) .sigm)
  | .vsin g ty r vd va => some (g, ty, vd, va, 10, spLane (fracOf ty) (env ty r) .sin)
  | .vcos g ty r vd va => some (g, ty, vd, va, 10, spLane (fracOf ty) (env ty r) .cos)
  | _ => none

/-- How a word that issues now rounds to a type (R13, R92, R93, R95). -/
def State.issueEnv (s : State) (ty : FTy) (r : Rnd) : FEnv :=
  ⟨rndMode r s.sqr.fpc, s.sqr.fpc.getLsbD 3, match ty with | .f32 => ovF32 s.sqr.ovf | .bf16 => ovBf16 s.sqr.ovf⟩

/-- Where an engine or a CORE word finds element i of block k of a matrix operand in storage units (R141, R142): a byte of unit k, or a
16-bit half-word of units 2k and 2k+1. -/
def elemAt (fmt : MFmt) (us : Nat → BitVec 256) (k i : Nat) : Nat :=
  match fmt with
  | .bf16 => (us (2 * k + i / 16)).toNat / 2 ^ (16 * (i % 16)) % 2 ^ 16
  | _ => (us k).toNat / 2 ^ (8 * i) % 256

/-- The value of an element of a matrix operand under the scale of its block (R96, R105). -/
def elemFp (fmt : MFmt) (v : Nat) (scale : Byte) : Fp :=
  match fmt with
  | .m8 => m8Fp v scale.toInt
  | .bf16 => fpUnpack 7 v
  | .i8 => intFp (slane 8 v)

/-! ## Engine commands and their items (R171, R172, R177, R184) -/

/-- The number that n bytes of memory from an address on spell, lowest first (R4). -/
def Mem.num (m : Mem) (a n : Nat) : Nat := ((List.range n).map (fun i => (m.byte (a + i)).toNat * 256 ^ i)).sum

/-- The value that an atomic leaves in memory, as a number of 8w bits, from the old value, the operand and the comparand (R108, R184). -/
def atomValue (i : Instr) (w : Nat) (ovf : BitVec 14) (old op cmp : Nat) : Nat :=
  let le := decide (slane (8 * w) old ≤ slane (8 * w) op)
  match i with
  | .atadd _ => (old + op) % 2 ^ (8 * w)
  | .atcas _ => if old = cmp then op else old
  | .atxch _ => op
  | .atmax _ => if le then op else old
  | .atmin _ => if le then old else op
  | .atand _ => old &&& op
  | .ator _ => old ||| op
  | .atfadd _ => (fpAdd 23 ⟨.rne, false, ovF32 ovf⟩ (fpUnpack 23 old) (fpUnpack 23 op)).bits % 2 ^ 32
  | _ => old

/-- A register of a command, or a pair low first, as an atomic of w bytes takes it (R184). -/
def ACmd.opOf (c : ACmd) (r : BitVec 4) (w : Nat) : Nat :=
  if w = 16 then c.a[BitVec.toFin r].toNat + 2 ^ 64 * c.a[BitVec.toFin (r + 1)].toNat else c.a[BitVec.toFin r].toNat % 2 ^ (8 * w)

/-- A record with these values is the newest of a strand. -/
def noted (k : StrandKey) (s t : State) (kind cause rep seq : Nat) : Prop :=
  ∃ f, (t.strand k).recs = (s.strand k).recs ++ [f] ∧ f.kind = bv 4 kind ∧ f.cause = bv 8 cause ∧ f.rep = bv 4 rep ∧ f.seq = bv 64 seq

/-- AGEN has halted at its head command with a record of the cause (R193). -/
def haltsA (k : AgentKey) (s t : State) (c : ACmd) (cause : Nat) : Prop :=
  (t.agent k).haltA = true ∧ t.mem = s.mem ∧ (t.agent k).tca = (s.agent k).tca ∧ (t.agent k).td = (s.agent k).td ∧
    (t.agent k).a = (s.agent k).a ∧ (t.agent k).cores = (s.agent k).cores ∧ noted k.sk s t 9 cause 2 c.seq

/-- AGEN waits at its head command for a page: its request stands in the page-request queue, or waits to be posted (R233, R235). -/
def asksA (k : AgentKey) (s t : State) (c : ACmd) : Prop :=
  ∃ h, (t.agent k).acmds.head? = some h ∧ h.seq = c.seq ∧ (t.agent k).haltA = (s.agent k).haltA ∧
    (t.agent k).tca = (s.agent k).tca ∧ t.mem = s.mem ∧ t.strands = s.strands ∧
    ((h.page = .unposted ∧ ∃ r, (Waiter.agen k c.seq, k.part, r) ∈ t.unposted) ∨
      ∃ i e, h.page = .posted i ∧ KV.get? t.pageq i = some e ∧ e.who = .agen k c.seq ∧ e.part = k.part)

/-- AGEN's head command is complete: it is gone, the counter of completed commands is its number unless it is a primer entry, and its
token is pushed (R171, R172). -/
def doneA (c : ACmd) (a b : Agent) : Prop :=
  b.acmds.map (·.seq) = a.acmds.tail.map (·.seq) ∧ b.tca = (if c.seq = 0 then a.tca else c.seq) ∧
    b.q.q8 = if c.tok then a.q.q8 ++ [c.seq] else a.q.q8

/-- AGEN's head command stands at an item with these beats taken, and no command has completed. -/
def standsA (c : ACmd) (a b : Agent) (item rank : Nat) (buf : List Beat) : Prop :=
  ∃ h, b.acmds = h :: a.acmds.tail ∧ h.seq = c.seq ∧ h.ins = c.ins ∧ h.item = item ∧ h.rank = rank ∧ h.buf = buf ∧ b.tca = a.tca ∧
    b.q.q8 = a.q.q8

/-- An item has performed: the next item, the next column, or the end of the command (R177). -/
def itemDone (c : ACmd) (items cols : Nat) (a b : Agent) : Prop :=
  if c.item + 1 < items then standsA c a b (c.item + 1) c.rank []
  else if c.rank + 1 < cols then standsA c a b 0 (c.rank + 1) []
  else doneA c a b

/-- XCHG has halted at a command with a record of the cause (R193). -/
def haltsX (k : AgentKey) (s t : State) (c : XCmd) (cause : Nat) : Prop :=
  (t.agent k).haltX = true ∧ t.mem = s.mem ∧ t.fab = s.fab ∧ (t.agent k).tcx = (s.agent k).tcx ∧
    (t.agent k).cores = (s.agent k).cores ∧ noted k.sk s t 9 cause 3 c.seq

/-- The fragments of one message of a command wait to leave, each with its operation, operand, number and sender, the payload in its
data fragments, and the command has been sent and waits for that many reports (R187–R189, R264, R277). -/
def sends (k : AgentKey) (s t : State) (c : XCmd) (op : Nat) (opnd : Word) (data need kdata : Nat) (bytes : List PByte) : Prop :=
  (∃ outs, outs ≠ [] ∧ t.fab.outq = s.fab.outq ++ outs ∧
    (∀ o ∈ outs, o.f.op = bv 4 op ∧ o.f.opnd = opnd ∧ o.f.mseq = bv 32 c.seq ∧ o.f.k = bv 5 kdata ∧ o.f.m = bv 4 c.crt.m ∧
      o.f.dtime = dtimeOf (s.fab.ftime + 1000 * c.crt.ddl) ∧ fragSrc o.f = ⟨k.part % 8, k.strand % 16, k.row % 32⟩ ∧
      o.owner = some (k, c.seq)) ∧
    ∀ i, i < data → ∃ o ∈ outs, o.f.fidx = bv 5 i ∧
      o.f.payload = bv 4096 (natOfBytes (((bytes.drop (512 * i)).take 512).map (·.1))) ∧
      ∀ u, u < 8 → o.f.pois.getLsbD u = ((((bytes.drop (512 * i)).take 512).drop (64 * u)).take 64).any (·.2)) ∧
  t.mem = s.mem ∧ (t.agent k).cores = (s.agent k).cores ∧ (t.agent k).tcx = (s.agent k).tcx ∧
  ∀ x ∈ (t.agent k).xcmds, x.seq = c.seq → x.sent = true ∧ x.started = true ∧ x.need = need ∧ x.acc = none ∧
    x.deadline = s.fab.ftime + 2000 * c.crt.ddl

/-- The columns that a transfer works on (R167, R176). -/
def xferCols (c : ACmd) : List Nat := if isCore c.ins then c.set.work (isStore c.ins) else [0]

/-- The bytes of an item of a transfer (R176, R178). -/
def xferSize (c : ACmd) (f : Xfer) (d : Desc) : Nat := if isKbld c.ins then 4 * (f.nm1.toNat + 1) else (shapeOf (dFmt d)).bytes

/-- The byte offset of the present item in a flat tensor (R167, R177). -/
def xferOff (c : ACmd) (f : Xfer) (d : Desc) : Nat :=
  let i := if isKbld c.ins then 0 else c.item
  let n := if isKbld c.ins then 1 else f.nm1.toNat + 1
  bits (c.acVal f) 47 0 + ((if c.set.scatter then c.rank else 0) * n + i) * xferSize c f d

/-- The first row or unit of the present item (R165, R177). -/
def xferBase (c : ACmd) (d : Desc) : Nat :=
  let l := c.tgtVal (locReg c.ins)
  if isRows c.ins then bits l 53 44 + c.item * (shapeOf (dFmt d)).rows else bits l 17 0 / 32 + c.item * (shapeOf (dFmt d)).units

/-- The sum of the first n values. -/
def sumTo (n : Nat) (f : Nat → Int) : Int := ((List.range n).map f).sum

end Sys2Proof.Machine
end

