-- ==== Sys2Proof/Certificates/Slice0/Obligations.lean ====
section
/-! DEFINITION. The statements for the provers. Each name says what it states. A statement that rests on a choice of the model
says so and names the log entry. -/

open Sys2Proof Sys2Proof.Machine

/-! ## Encoding, fetch, the whole machine -/

/-- DECODE OF ENCODE (R33–R47, R55, R56): every well-formed word, at every idle count, encodes to words that decode to it, to
its idle count and to the number of words it owns, whatever follows. -/
def Obligations.DecodeOfEncodeIsTheInstruction : Prop :=
  ∀ (idle : BitVec 10) (i : Instr) (rest : List Word), i.wf = true → i.eng.isSome = true →
    decodeWords (encode idle i ++ rest) = .ok (idle.toNat, i, (encode idle i).length)

/-- Words that the spec writes out decode to what the spec says they are (R65, R70, R77, R80, R111, R118, R174, R188). -/
def Obligations.WordsOfTheSpecDecode : Prop :=
  decodeWords [0x0000_4118_000F_FFFB] = .ok (0, .br .nz 3 0 (-5), 1) ∧
  decodeWords [0x0001_019F_FFFF_FFFF] = .ok (0, .xaddi 3 3 (-1), 1) ∧
  decodeWords [0x0001_8040_0000_0000] = .ok (0, .inj 0 true 0, 1) ∧
  decodeWords [0x0001_8A40_0000_0000] = .ok (0, .cap 4 true 0, 1) ∧
  decodeWords [0x0002_0840_0000_0000] = .ok (0, .waittc false false 4 0, 1) ∧
  decodeWords [0x2001_0000_5004_0200] = .ok (0, .vadd ⟨false, 0⟩ .f32 .fpc 5 1 (.row 2), 1) ∧
  decodeWords [0x2000_8024_0049_0000] = .ok (0, .scmp ⟨false, 0⟩ .lt 9 1 2, 1) ∧
  decodeWords [0x4000_0290_7000_0000] = .ok (0, .amov 5 2 none, 1) ∧
  decodeWords [0x4000_28B0_7000_0005] = .ok (0, .acol 1 6 true 1, 1) ∧
  decodeWords [0x6000_8602_8000_0000] = .ok (0, .recv .q12 5, 1)

/-- A STEP RUNS THE DECODED WORD (R48, R49, R53, R56–R58, R62): in a strand cycle that is issuing, where the words at the present
text index decode to a word whose issue time is this strand cycle and that no rule of the fetch stops, the step is the word's
meaning, with the text index past its words and its engine's reference time at this strand cycle. A word that does not decode is
an illegal word of its cause, one that lacks the LIT words it owns is literal misuse, a control word in a kernel is illegal, a
word whose issue time lies before the preceding word's is an order fault, and a text that does not begin with START in strand
cycle 0 has no START. Behind a branch, HALT or overlay switch taken in this strand cycle a word that is not due in it does not
issue: the stream takes its new index and the next row goes on (R50; that an earlier issue time there is no order fault either is
the model's reading, log 17). -/
def Obligations.StepRunsTheDecodedWord : Prop :=
  ∀ (s : State) (c : Cyc) (r : Nat) (rs : List Nat) (e : Eng),
    s.cyc = some c → c.rows = r :: rs → c.started = true → s.phys = [] →
    let s1 := s.atWord c r
    let q := s1.sqr
    let w := s1.textWord s1.cur q.bank q.pc
    let ws := (List.range 3).map (fun j => s1.textWord s1.cur q.bank (q.pc + j))
    let lits := s1.litsAt w q.pc
    let T := q.refs.get e + 1 + wordIdle w
    q.bad = false → q.halted = false → q.late = none → q.skip.contains q.pc = false → q.kernelStop ≠ some q.pc →
    q.pc < s1.myStrand.l.tlen → engOf w = some e →
    let first := s1.t = 0 ∧ q.pc = 0
    -- the word's time is this strand cycle, and no word before it in the text issues later
    let due := if first then w = mkWord 0 0 1 0 else T = s1.t ∧
      ∀ p, q.prev = some p → p.t < s1.t ∨ (p.t = s1.t ∧ engRank p.eng < engRank e)
    (∀ idle n i, due → decodeWords ws = .ok (idle, i, n) → q.pc + n ≤ s1.myStrand.l.tlen →
      (q.loops = [] ∨ isControl i = false) → (i = .start → idle = 0) →
      step s = exec i (s1.setMe { s1.me with
        sqr := { q with pc := q.pc + n, refs := q.refs.set e s1.t, prev := some ⟨s1.t, e, q.pc, n - 1⟩
                        head := if q.prev.isNone then q.head else none, late := none }
        recent := s1.me.recent ++ [⟨s1.t, e, q.pc, q.bank, w⟩] })) ∧
    (∀ err, due → decodeWord w (lits.map (·.setWidth 32) ++ [0, 0]) = .error err →
      ∃ t, step s = .next t ∧ faults s1 t q.pc 1 err.code) ∧
    (∀ i, due → decodeWord w (lits.map (·.setWidth 32) ++ [0, 0]) = .ok i →
      (lits.length < litCount w → ∃ t, step s = .next t ∧ faults s1 t q.pc 1 7) ∧
      (lits.length = litCount w → q.loops ≠ [] → isControl i = true → ∃ t, step s = .next t ∧ faults s1 t q.pc 1 8)) ∧
    (¬ first → q.jump = none → T < s1.t → (∀ p, q.prev = some p → T < p.t) → ∃ t, step s = .next t ∧ faults s1 t q.pc 3 0) ∧
    (¬ first → q.jump ≠ none → T ≠ s1.t →
      step s = .next { s1.setSqr (q.land s1.t) with cyc := some { c with rows := rs, started := false } }) ∧
    (first → w ≠ mkWord 0 0 1 0 → ∃ t, step s = .next t ∧ faults s1 t q.pc 1 9)

/-- WHAT A RESET LEAVES (R239, R260, R262, R298, R316): every strand is absent, no partition has a layout, device memory is zero and
clean, no VCP queue exists, no identity is written and every port is down; that memory is zero and clean before anything has
written it is the model's choice (log 12). Device memory is in canonical form at reset. -/
def Obligations.ResetLeavesNothingRunning : Prop :=
  ((∀ k, (State.reset.strand k).st = .absent) ∧ (∀ p, (State.reset.part p).lay.v = false) ∧
   (∀ a, State.reset.mem.byte a = 0) ∧ (∀ a, State.reset.mem.poisAt a = false) ∧
   (∀ v, (State.reset.vcp v).created = false) ∧ State.reset.fab.written = false ∧
   (∀ p : Fin 32, State.reset.fab.ports[p] = 0)) ∧
  (State.reset.memOk)

/-- EVERY STEP KEEPS THE CANONICAL FORM OF DEVICE MEMORY: addresses rise strictly, no listed byte is the one that an unlisted
address reads as, poisoned lines rise strictly. -/
def Obligations.StepKeepsMemoryCanonical : Prop := ∀ s s' : State, s.memOk → step s = .next s' → s'.memOk

/-- A WORD ACTS ON ITS OWN AGENT AND STRAND (R8, R28): whatever word of the four engines issues, in whatever state, device
memory, the fabric, the partitions, the list of moves, every other agent and every other strand are as before; engine commands
act later. A partition's requests on the host link may be those that a fault record needs; a word that reads a queue entry whose
line has a physical error may change what the line holds. -/
def Obligations.WordsActOnTheirOwnAgentAndStrand : Prop :=
  ∀ (i : Instr) (s t : State), i.eng.isSome = true → exec i s = .next t →
    t.mem = s.mem ∧ t.wlog = s.wlog ∧ t.fab = s.fab ∧ sameParts s t ∧ t.pending = s.pending ∧ t.mgmt = s.mgmt ∧ t.now = s.now ∧
    t.cur = s.cur ∧ t.myStrand.stime = s.myStrand.stime ∧
    (s.phys = [] ∨ (∀ q st xd tst d, i ≠ .inj q st xd ∧ i ≠ .qpop q st xd ∧ i ≠ .bq q tst d ∧ i ≠ .qstat q xd) →
      (∀ k, k ≠ s.cur → t.agent k = s.agent k) ∧ (∀ k, k ≠ s.cur.sk → t.strand k = s.strand k))

/-! ## Sequencer words -/

/-- SEQUENCER ARITHMETIC (R69, R70): each of the twelve register forms, the eight immediate forms and XLIL goes on to a state in
which its value, wrapped to 64 bits, waits to land in xd with L = 1; nothing else differs. -/
def Obligations.SequencerArithmeticWritesItsValue : Prop :=
  ∀ (i : Instr) (s : State) (d : BitVec 4) (v : Int), aluValue s.xr i = some (d, v) →
    goes i s (fun t => pends s t [.x d (BitVec.ofInt 64 v)])

/-- SYSTEM AND COUNTER READS (R76, R81, R87): GETSYS, GETTC and QSTAT write the value they select with L = 1. The queue status
is given field by field. CONTROL REGISTER WRITES (R68, R82, R88, R89): XTOA, SETFPC, SETOVF and ROTSET with an accepted value go
on with it pending; ATOX writes a value that R170 lets it read. -/
def Obligations.SystemWordsReadAndWrite : Prop :=
  (∀ (s : State) (d : BitVec 4),
     goes (.getsys d 0) s (fun t => pends s t [.x d (bv 64 s.myStrand.stime)]) ∧
     goes (.getsys d 1) s (fun t => pends s t [.x d (bv 64 s.cur.strand)]) ∧
     goes (.getsys d 2) s (fun t => pends s t [.x d (bv 64 (2 ^ s.myStrand.scode.toNat))]) ∧
     goes (.getsys d 3) s (fun t => pends s t [.x d (bv 64 s.myStrand.phase.toNat)]) ∧
     goes (.getsys d 4) s (fun t => pends s t [.x d (bv 64 s.cur.row)]) ∧
     goes (.getsys d 5) s (fun t => pends s t [.x d (bv 64 s.cur.part)]) ∧
     goes (.getsys d 6) s (fun t => pends s t [.x d s.myStrand.l.lid]) ∧
     goes (.getsys d 7) s (fun t => pends s t [.x d (bv 64 (s.idx + 16384 * s.sqr.bank.toNat))]) ∧
     goes (.getsys d 8) s (fun t => pends s t [.x d (bv 64 s.sqr.fpc.toNat)]) ∧
     goes (.getsys d 9) s (fun t => pends s t [.x d (bv 64 (match s.sqr.loops with | [] => 0 | l :: _ => l.i))]) ∧
     goes (.gettc d 0) s (fun t => pends s t [.x d (bv 64 s.me.tca)]) ∧
     goes (.gettc d 1) s (fun t => pends s t [.x d (bv 64 s.me.tcx)]) ∧
     goes (.gettc d 2) s (fun t => pends s t [.x d (bv 64 s.me.seqA)]) ∧
     goes (.gettc d 3) s (fun t => pends s t [.x d (bv 64 s.me.seqX)]) ∧
     ∀ q : BitVec 4, s.phys = [] ∨ (6 ≤ q.toNat ∧ q.toNat ≤ 11) → goes (.qstat q d) s (fun t => ∃ v : Word, pends s t [.x d v] ∧
       v.toNat % 256 = s.me.q.occ q.toNat % 256 ∧ v.toNat / 256 % 256 = s.me.q.depth q.toNat % 256 ∧
       v.getLsbD 17 = s.me.q.isFull q.toNat ∧ v.getLsbD 18 = s.me.q.isEmpty q.toNat ∧
       (q.toNat < 6 ∨ 12 ≤ q.toNat → v.getLsbD 16 = s.me.q.headPois q.toNat ∧ v.toNat / 2 ^ 19 = 0) ∧
       (q.toNat = 6 ∨ q.toNat = 7 → v.getLsbD 16 = false ∧ v.toNat / 2 ^ 19 = (s.me.q.res q.toNat).resv % 32) ∧
       (8 ≤ q.toNat ∧ q.toNat ≤ 11 → v.getLsbD 16 = false ∧ v.toNat / 2 ^ 19 = 0))) ∧
  (∀ s : State,
     (∀ ad xa, goes (.xtoa ad xa) s (fun t => pends s t [.a ad (s.xr xa)])) ∧
     (∀ d aa, goes (.atox d aa) s (fun t => ∃ v, aMay s.me aa v ∧ pends s t [.x d v])) ∧
     (∀ xa, (s.xr xa).toNat < 16 → 1 ≤ (s.xr xa).toNat % 8 → (s.xr xa).toNat % 8 ≤ 5 →
       goes (.setfpc xa) s (fun t => pends s t [.fpc (bv 4 (s.xr xa).toNat)])) ∧
     (∀ xa, s.myStrand.priv = true → (s.xr xa).toNat < 16384 → (s.xr xa).toNat % 4 ≠ 3 → (s.xr xa).toNat / 4 % 4 ≠ 3 →
       (∀ k ∈ [4, 6, 8, 10, 12], (s.xr xa).toNat / 2 ^ k % 4 ≤ 1) →
       goes (.setovf xa) s (fun t => pends s t [.ovf (bv 14 (s.xr xa).toNat)])) ∧
     (∀ (rs : BitVec 10) (ts : BitVec 6), rs.toNat ≤ s.myStrand.l.nrows → ts.toNat ≤ s.myStrand.l.nrows / 32 →
       goes (.rotset rs ts) s (fun t => pends s t [.rot rs.toNat ts.toNat])))

/-- CONTROL REGISTER FAULTS (R57, R68, R88, R89): a value SETFPC or SETOVF does not accept is an illegal word, SETOVF without
privilege is a privileged-word fault, a ROTSET size beyond the window is a window violation; each is taken as a static-stream
fault. BRANCH FAULTS (R57, R64, R65, R285): a taken BR, CALL, BQ or RET whose target lies outside the window is a window violation,
a taken CALL with four return indices an overflow, a RET with none an underflow. KERNEL FAULTS (R57, R58, R66, R67): a REPEAT
whose kernel passes the window's end is a window violation, one whose kernel does not hold the LIT words of its last instruction
is literal misuse, one with four loops held overflows the loop stack, one that stands too late takes its order fault or overrun
before the word after it is looked at, and where no instruction follows, that word is illegal at its own index; a LEAVE outside a
kernel is an illegal word. -/
def Obligations.SequencerFaultsAreTaken : Prop :=
  (∀ s : State, s.sqr.bad = false →
     (∀ xa, 16 ≤ (s.xr xa).toNat ∨ (s.xr xa).toNat % 8 = 0 ∨ 6 ≤ (s.xr xa).toNat % 8 →
       goes (.setfpc xa) s (fun t => faults s t s.idx 1 5)) ∧
     (∀ xa, 16384 ≤ (s.xr xa).toNat ∨ (s.xr xa).toNat % 4 = 3 ∨ (s.xr xa).toNat / 4 % 4 = 3 ∨
         (∃ k ∈ [4, 6, 8, 10, 12], 2 ≤ (s.xr xa).toNat / 2 ^ k % 4) →
       goes (.setovf xa) s (fun t => faults s t s.idx 1 5)) ∧
     (∀ xa, s.myStrand.priv = false → (s.xr xa).toNat < 16384 → (s.xr xa).toNat % 4 ≠ 3 → (s.xr xa).toNat / 4 % 4 ≠ 3 →
       (∀ k ∈ [4, 6, 8, 10, 12], (s.xr xa).toNat / 2 ^ k % 4 ≤ 1) → goes (.setovf xa) s (fun t => faults s t s.idx 7 0)) ∧
     (∀ (rs : BitVec 10) (ts : BitVec 6), s.myStrand.l.nrows < rs.toNat ∨ s.myStrand.l.nrows / 32 < ts.toNat →
       goes (.rotset rs ts) s (fun t => faults s t s.idx 2 7))) ∧
  (∀ (s : State) (c : BrCond) (xa xb : BitVec 4) (disp : BitVec 20), s.sqr.bad = false →
     let reads := fun (tst : QTest) => tst = .pois ∨ tst = .clean → s.phys = []
     (brTrue c (s.xr xa) (s.xr xb) → s.myStrand.l.tlen ≤ brTarget s c xa disp →
       goes (.br c xa xb disp) s (fun t => faults s t s.idx 2 5) ∧ goes (.call c xa xb disp) s (fun t => faults s t s.idx 2 5)) ∧
     (brTrue c (s.xr xa) (s.xr xb) → brTarget s c xa disp < s.myStrand.l.tlen → 4 ≤ s.sqr.rets.length →
       goes (.call c xa xb disp) s (fun t => faults s t s.idx 6 1)) ∧
     (∀ q tst, reads tst → qMay tst q → qTrue tst s.me.q q.toNat → s.myStrand.l.tlen ≤ bqTarget s disp →
       goes (.bq q tst disp) s (fun t => faults s t s.idx 2 5)) ∧
     (∀ r rs, s.sqr.rets = r :: rs → s.myStrand.l.tlen ≤ r → goes .ret s (fun t => faults s t s.idx 2 5)) ∧
     (s.sqr.rets = [] → goes .ret s (fun t => faults s t s.idx 6 2))) ∧
  (∀ s : State, s.sqr.bad = false →
     (∀ (xa : BitVec 4) (ip : BitVec 10) (cnt : BitVec 12) (st : BitVec 4) (len : BitVec 13),
       let stop := s.idx + 1 + len.toNat
       let next := s.textWord s.cur s.sqr.bank (s.idx + 1)
       let faulty := fun (idx kind cause : Nat) => goes (.repeat_ xa ip cnt st len) s (fun t => faults s t idx kind cause)
       (s.myStrand.l.tlen < stop → faulty s.idx 2 5) ∧
       (stop ≤ s.myStrand.l.tlen → s.kernelEnd (s.idx + 1) len.toNat ≠ stop → faulty s.idx 1 7) ∧
       (stop ≤ s.myStrand.l.tlen → s.kernelEnd (s.idx + 1) len.toNat = stop →
         (4 ≤ s.sqr.loops.length → faulty s.idx 6 3) ∧
         (s.sqr.loops.length < 4 → s.sqr.late ≠ none → faulty s.idx 4 0) ∧
         (s.sqr.loops.length < 4 → s.sqr.late = none → engOf next = none → s.sqr.skip.contains (s.idx + 1) = false →
           faulty (s.idx + 1) 1 (if isLit next then 7 else 1)))) ∧
     (s.sqr.loops = [] → goes .leave s (fun t => faults s t s.idx 1 10)))

/-- AGENT REGISTER WORDS (R167, R174, R175, R192): every A1 word and RATE goes on with its result pending with L = 1; a field
form changes only its field, and a field sum carries into no other. -/
def Obligations.AgentRegisterWordsWriteTheirValue : Prop :=
  ∀ (s : State) (ad aa ab : BitVec 4) (imm : BitVec 28) (k : BitVec 2),
    let puts := fun (i : Instr) (P : Word → Prop) => goes i s (fun t => ∃ v, P v ∧ pends s t [.a ad v])
    puts (.amov ad aa none) (fun v => aMay s.me aa v) ∧
    puts (.amov ad aa (some k)) (fun v => ∃ x y, aMay s.me aa x ∧ aMay s.me ad y ∧ putsField v y k (fieldOf x k).toNat) ∧
    puts (.aaddi ad aa none imm) (fun v => ∃ x, aMay s.me aa x ∧ v = BitVec.ofInt 64 (x.toInt + imm.toInt)) ∧
    puts (.aaddi ad aa (some k) imm) (fun v => ∃ x, aMay s.me aa x ∧ putsField v x k ((fieldOf x k).toNat + imm.toNat)) ∧
    puts (.asetf ad none imm) (fun v => v = BitVec.ofInt 64 imm.toInt) ∧
    puts (.asetf ad (some k) imm) (fun v => ∃ y, aMay s.me ad y ∧ putsField v y k imm.toNat) ∧
    puts (.aincf ad none imm) (fun v => ∃ y, aMay s.me ad y ∧ v = BitVec.ofInt 64 (y.toInt + imm.toInt)) ∧
    puts (.aincf ad (some k) imm) (fun v => ∃ y, aMay s.me ad y ∧ putsField v y k ((fieldOf y k).toNat + imm.toNat)) ∧
    puts (.aadd ad aa ab none) (fun v => ∃ x y, aMay s.me aa x ∧ aMay s.me ab y ∧ v = BitVec.ofInt 64 (x.toInt + y.toInt)) ∧
    puts (.aadd ad aa ab (some k)) (fun v => ∃ x y, aMay s.me aa x ∧ aMay s.me ab y ∧
      putsField v x k ((fieldOf x k).toNat + (fieldOf y k).toNat)) ∧
    (∀ (sc : Bool) (sd : BitVec 2), goes (.acol ad aa sc sd) s (fun t =>
      ∃ x, aMay s.me aa x ∧ pends s t [.colset ad ⟨bv 48 x.toNat, sc, sd⟩])) ∧
    ∀ (n : BitVec 3) (ck : BitVec 5) (cm : BitVec 4) (rty : Bool) (ddl : BitVec 10),
      goes (.rate n ck cm rty ddl) s (fun t => pends s t [.crt n ⟨ck.toNat, cm.toNat, rty, ddl.toNat⟩])

/-! ## Control flow -/

/-- BRANCHES (R64, R65): a BR, CALL or BQ whose condition holds, and a RET, with the target in the window, go on with the target
pending, and RET takes the newest return index; one whose condition does not hold changes nothing. The tests of BQ are those of
R65, field by field. THE STREAM MOVES when the
words of the branch's strand cycle have issued (R50, R63, R64, R86): every reference time becomes t+2 and fetch is at the
target; a CALL pushes the index after its strand cycle; HALT ends the stream and discards the return stack; an overlay switch
goes to index 0 of the other bank. -/
def Obligations.BranchesMoveTheStream : Prop :=
  (∀ (s : State) (disp : BitVec 20),
     let reads := fun (tst : QTest) => tst = .pois ∨ tst = .clean → s.phys = []
     (∀ c xa xb, brTrue c (s.xr xa) (s.xr xb) → brTarget s c xa disp < s.myStrand.l.tlen →
       goes (.br c xa xb disp) s (fun t => onlyMe s t ∧
         t.me = { s.me with sqr := { s.sqr with jump := some (.to (brTarget s c xa disp) false s.idx) } })) ∧
     (∀ c xa xb, brTrue c (s.xr xa) (s.xr xb) → brTarget s c xa disp < s.myStrand.l.tlen → s.sqr.rets.length < 4 →
       goes (.call c xa xb disp) s (fun t => onlyMe s t ∧
         t.me = { s.me with sqr := { s.sqr with jump := some (.to (brTarget s c xa disp) true s.idx) } })) ∧
     (∀ c xa xb, ¬ brTrue c (s.xr xa) (s.xr xb) → goes (.br c xa xb disp) s (fun t => t = s) ∧
       goes (.call c xa xb disp) s (fun t => t = s)) ∧
     (∀ q tst, reads tst → qMay tst q → qTrue tst s.me.q q.toNat → bqTarget s disp < s.myStrand.l.tlen →
       goes (.bq q tst disp) s (fun t => onlyMe s t ∧
         t.me = { s.me with sqr := { s.sqr with jump := some (.to (bqTarget s disp) false s.idx) } })) ∧
     (∀ q tst, reads tst → qMay tst q → ¬ qTrue tst s.me.q q.toNat → goes (.bq q tst disp) s (fun t => t = s)) ∧
     (∀ r rs, s.sqr.rets = r :: rs → r < s.myStrand.l.tlen → goes .ret s (fun t => onlyMe s t ∧
       t.me = { s.me with sqr := { s.sqr with rets := rs, jump := some (.to r false s.idx) } }))) ∧
  (∀ (q : Sqr) (t : Nat),
     (q.jump = none → q.land t = q) ∧
     (∀ target call src, q.jump = some (.to target call src) →
       (q.land t).pc = target ∧ (q.land t).bank = q.bank ∧ (∀ e, (q.land t).refs.get e = t + 2) ∧ (q.land t).jump = none ∧
       (q.land t).head = some (src, t, q.bank, target) ∧
       (q.land t).x = q.x ∧ (q.land t).loops = q.loops ∧ (q.land t).rets = if call then q.pc :: q.rets else q.rets) ∧
     (q.jump = some .halt → (q.land t).halted = true ∧ (q.land t).rets = [] ∧ (q.land t).x = q.x) ∧
     (q.jump = some .overlay →
       (q.land t).pc = 0 ∧ (q.land t).bank = !q.bank ∧ (∀ e, (q.land t).refs.get e = t + 2) ∧ (q.land t).ovly = none ∧
       (q.land t).head = none ∧ (q.land t).overlaid = true ∧
       (q.land t).x = q.x ∧ (q.land t).vrot = q.vrot ∧ (q.land t).mrot = q.mrot))

/-- REPEAT AND LEAVE (R51, R66, R67): a REPEAT with a count above zero pushes its loop, saves p1–p7, sets p1 and clears the
others and makes every reference time the strand cycle before the first iteration; with a count of zero fetch goes on after the
kernel; LEAVE inside a kernel marks the outermost loop to end. THE END OF AN ITERATION (R14, R51, R66, R67): rotation goes down by
one in each region, the stage predicates shift by one with p1 set exactly while iterations start, and after iteration n + st − 2
the saved predicates return and the loop is popped; the outermost loop that LEAVE marked ends with this iteration, and an inner
loop of it runs on. -/
def Obligations.KernelsRunTheirIterations : Prop :=
  (∀ (s : State) (xa : BitVec 4) (ip : BitVec 10) (cnt : BitVec 12) (st : BitVec 4) (len : BitVec 13) (n : Nat),
     n = (if xa = 0 then cnt.toNat else (s.xr xa).toNat) →
     s.idx + 1 + len.toNat ≤ s.myStrand.l.tlen → s.sqr.loops.length < 4 → s.sqr.late = none →
     s.kernelEnd (s.idx + 1) len.toNat = s.idx + 1 + len.toNat →
     (engOf (s.textWord s.cur s.sqr.bank (s.idx + 1))).isSome = true ∨ s.sqr.skip.contains (s.idx + 1) = true →
     (0 < n → goes (.repeat_ xa ip cnt st len) s (fun t => onlyMe s t ∧ t.me = { s.me with sqr := { s.sqr with
       loops := ⟨s.idx + 1, len.toNat, ip.toNat, st.toNat, n, 0, s.sqr.p, s.t + 1⟩ :: s.sqr.loops
       refs := ⟨s.t, s.t, s.t, s.t⟩, pc := if s.sqr.skip.contains (s.idx + 1) then s.idx + 2 else s.idx + 1, p := 1 } })) ∧
     (n = 0 → goes (.repeat_ xa ip cnt st len) s (fun t => onlyMe s t ∧ t.me = { s.me with sqr := { s.sqr with
       refs := ⟨s.t, s.t, s.t, s.t⟩, pc := s.idx + 1 + len.toNat, prev := none } }))) ∧
  (∀ s : State, s.sqr.loops ≠ [] →
     goes .leave s (fun t => onlyMe s t ∧ t.me = { s.me with sqr := { s.sqr with leaving := true } })) ∧
  (∀ (q : Sqr) (l : Loop) (outer : List Loop), 0 < l.n →
     let q' := q.endIteration l outer
     (0 < q.rowsz → q.vrot < q.rowsz → (q'.vrot + 1) % q.rowsz = q.vrot ∧ q'.vrot < q.rowsz) ∧ (q.rowsz = 0 → q'.vrot = q.vrot) ∧
     (0 < q.tilesz → q.mrot < q.tilesz → (q'.mrot + 1) % q.tilesz = q.mrot ∧ q'.mrot < q.tilesz) ∧ (q.tilesz = 0 → q'.mrot = q.mrot) ∧
     (∀ e, q'.refs.get e = l.b + l.ip - 1) ∧ q'.x = q.x ∧ q'.rets = q.rets ∧ q'.jump = q.jump ∧
     (q.leaving = false ∨ outer ≠ [] → q'.leaving = q.leaving ∧
       (l.i + 1 < l.n + l.st - 1 →
         q'.pc = l.origin ∧ (∃ m, q'.loops = m :: outer ∧ m.i = l.i + 1 ∧ m.b = l.b + l.ip ∧ m.saved = l.saved ∧ m.n = l.n) ∧
         q'.p.getLsbD 0 = decide (l.i + 1 < l.n) ∧ ∀ k, k < 6 → q'.p.getLsbD (k + 1) = q.p.getLsbD k) ∧
       (l.n + l.st - 1 ≤ l.i + 1 → q'.p = l.saved ∧ q'.loops = outer ∧ q'.pc = q.pc)) ∧
     (q.leaving = true → outer = [] → q'.p = l.saved ∧ q'.loops = [] ∧ q'.pc = q.pc ∧ q'.leaving = false))

/-- NOP, START, HALT, YIELD, SWAP, PHASE AND OVLYP (R61–R63, R79, R83–R85) go on with exactly their own effect. OVLYS (R86, R137):
with the load complete and the trailer's waits met the switch is pending; while the load is not complete, or a wait that the
trailer names is open, the strand stalls, and the stream ends here all the same; without an OVLYP, or with a return index held,
the word is illegal; a failed load, or an image whose last word is no trailer, is an overlay fault, also while the load goes on
(which of two causes is taken is the model's choice, log 80); a trailer whose line cannot be corrected is an illegal word there
(that OVLYS's read is such a fetch is the model's choice too). -/
def Obligations.StreamWordsTakeTheirEffect : Prop :=
  (∀ s : State,
     goes .nop s (fun t => t = s) ∧
     (s.idx = 0 → s.sqr.bank = false → goes .start s (fun t => onlyMe s t ∧ t.me = { s.me with sqr := { s.sqr with refs := ⟨0, 0, 0, 0⟩ } })) ∧
     goes .halt s (fun t => onlyMe s t ∧ t.me.sqr = { s.sqr with jump := some .halt } ∧ t.me.swap = none ∧
       t.me.cores = s.me.cores ∧ t.me.acmds = s.me.acmds ∧ t.me.xcmds = s.me.xcmds ∧ t.me.b = s.me.b) ∧
     (∀ mask : BitVec 32, (∀ k, k < 32 → mask.getLsbD k = true → k < s.myStrand.l.nrows / 32) →
       (s.myStrand.evp = false → goes (.yield mask) s (fun t => t = s)) ∧
       (s.myStrand.evp = true → goes (.yield mask) s (fun t => onlyMe s t ∧
         t.me = { s.me with sqr := { s.sqr with yield := some mask } }))) ∧
     goes (.swap false) s (fun t => onlyMe s t ∧ t.me = s.me.closePhase) ∧
     (s.me.idleEngines = true → goes (.swap true) s (fun t => onlyMe s t ∧
       t.me = { s.me.closePhase with swap := some ⟨s.t, 0, s.sqr, s.me.closePhase.q, []⟩ })) ∧
     (s.me.idleEngines = false → s.myStrand.st ≠ .frozen → goes (.swap true) s (fun t => stalls s t)) ∧
     (∀ fab w, goes (.phase fab w) s (fun t => onlyMe s t ∧
       t.me = { s.me with sqr := { s.sqr with phase := some ⟨fab, w, s.me.seqA, s.me.seqX⟩ } })) ∧
     (∀ xa imm, goes (.ovlyp xa imm) s (fun t => onlyMe s t ∧ t.me = { s.me with sqr := { s.sqr with
       ovly := some ⟨BitVec.ofInt 64 ((s.xr xa).toInt + imm.toInt), 0, none, false, none, .none, []⟩ } }))) ∧
  (∀ s : State, s.sqr.bad = false → s.myStrand.st ≠ .frozen →
     let tr := s.textWord s.cur s.sqr.bank (s.sqr.imageLen - 1)
     let waitsHere := goes .ovlys s (fun t => stalls (s.setSqr { s.sqr with jump := some .overlay }) t)
     (∀ o, s.sqr.ovly = some o → s.sqr.rets = [] → o.done = false ∨ o.err = none →
       (s.readText (s.sqr.imageLen - 1)).1 = true → goes .ovlys s (fun t => faults s t (s.sqr.imageLen - 1) 1 15)) ∧
     (s.phys = [] →
      (∀ o, s.sqr.ovly = some o → s.sqr.rets = [] → o.done = true → o.err = none → isTrailer tr = true →
       (tr.getLsbD 0 = true → s.me.tca = s.me.seqA) → (tr.getLsbD 1 = true → s.me.tcx = s.me.seqX) →
       (tr.getLsbD 2 = true → s.me.q.q9 = 0) → (tr.getLsbD 3 = true → s.me.q.q11 = 0) →
       goes .ovlys s (fun t => onlyMe s t ∧ t.me = { s.me.closePhase with sqr := { s.sqr with jump := some .overlay } })) ∧
     (∀ o, s.sqr.ovly = some o → s.sqr.rets = [] → o.done = false → isTrailer tr = true → waitsHere) ∧
     (∀ o, s.sqr.ovly = some o → s.sqr.rets = [] → o.done = true → o.err = none → isTrailer tr = true →
       (tr.getLsbD 0 = true ∧ s.me.tca ≠ s.me.seqA) ∨ (tr.getLsbD 1 = true ∧ s.me.tcx ≠ s.me.seqX) ∨
         (tr.getLsbD 2 = true ∧ s.me.q.q9 ≠ 0) ∨ (tr.getLsbD 3 = true ∧ s.me.q.q11 ≠ 0) → waitsHere) ∧
     (∀ o, s.sqr.ovly = some o → s.sqr.rets = [] → o.done = false ∨ o.err = none → isTrailer tr = false →
       goes .ovlys s (fun t => faults s t s.idx 12 5)) ∧
     (s.sqr.ovly = none → goes .ovlys s (fun t => faults s t s.idx 1 11)) ∧
     (∀ o, s.sqr.ovly = some o → s.sqr.rets ≠ [] → goes .ovlys s (fun t => faults s t s.idx 1 12)) ∧
     (∀ o c, s.sqr.ovly = some o → s.sqr.rets = [] → o.done = true → o.err = some c → c < 256 →
       goes .ovlys s (fun t => faults s t s.idx 12 c))))

/-! ## Queue words and commands -/

/-- INJ AND CAP (R19, R25, R72, R73): an INJ of a queue that holds a beat removes the head and fills beat t+2 with it, valid
set; a CAP of a queue with room appends the beat that leaves column 47, empty before strand cycle 48; flag mode writes 0. One
that cannot proceed stalls the strand before its strand cycle, or writes 1: a flag-mode INJ then fills beat t+2 with zeros, all
poison set and valid clear, and a flag-mode CAP changes no queue. -/
def Obligations.BeatWordsMoveBeats : Prop :=
  ∀ (s : State) (q xd : BitVec 4) (stall : Bool), s.phys = [] →
    let Q := s.me.q.beat q.toNat
    (∀ e l, Q.items = e :: l → goes (.inj q stall xd) s (fun t => onlyMe s t ∧
      t.me.q = s.me.q.setBeat q.toNat ⟨Q.depth, l, if s.me.marked then Q.kept + 1 else Q.kept, (Q.rd + 1) % max 1 Q.depth⟩ ∧
      t.me.beats = KV.put s.me.beats (s.t + 2) { e with valid := true } ∧
      t.sqr = { s.sqr with pend := s.sqr.pend ++ (if stall then [] else [.x xd 0]) } ∧ t.me.cores = s.me.cores ∧ t.me.a = s.me.a)) ∧
    (Q.items = [] →
      (s.myStrand.st ≠ .frozen → goes (.inj q true xd) s (fun t => stalls s t)) ∧
      goes (.inj q false xd) s (fun t => onlyMe s t ∧ t.me.q = s.me.q ∧
        t.sqr = { s.sqr with pend := s.sqr.pend ++ [.x xd 1] } ∧
        t.me.beats = KV.put s.me.beats (s.t + 2) ⟨0, 0, 0xFF, false⟩)) ∧
    (Q.full = false → goes (.cap q stall xd) s (fun t => onlyMe s t ∧
      t.me.q = s.me.q.setBeat q.toNat ⟨Q.depth, Q.items ++
        [if s.t < 48 then Beat.empty else KV.getD s.me.beats (s.t - 48) Beat.empty], Q.kept, Q.rd⟩ ∧
      t.me.beats = s.me.beats ∧ t.sqr = { s.sqr with pend := s.sqr.pend ++ (if stall then [] else [.x xd 0]) } ∧
      t.me.cores = s.me.cores ∧ t.me.a = s.me.a)) ∧
    (Q.full = true →
      (s.myStrand.st ≠ .frozen → goes (.cap q true xd) s (fun t => stalls s t)) ∧
      goes (.cap q false xd) s (fun t => pends s t [.x xd 1]))

/-- POPT AND PUSHT (R74, with the empty and full conditions of R24 and the two modes of R25): POPT removes one token from q8 or
q10, and PUSHT adds one to q9 or q11, with 0 in xd in flag mode; on an empty or full queue stall mode stalls the strand before
its strand cycle, and flag mode writes 1 and moves no token. Removing a token observes the command that pushed it (R205). -/
def Obligations.TokenWordsMoveTokens : Prop :=
  ∀ (s : State) (stall : Bool) (xd : BitVec 4),
    let flag : List Pend := if stall then [] else [.x xd 0]
    let moves := fun (t : State) (q : Queues) (ps : List Pend) => onlyMe s t ∧
      t.me = { s.me with q := q, sqr := { s.sqr with pend := s.sqr.pend ++ ps ++ flag } }
    let waits := fun (i : Bool → Instr) => (s.myStrand.st ≠ .frozen → goes (i true) s (fun t => stalls s t)) ∧
      goes (i false) s (fun t => pends s t [.x xd 1])
    (∀ n l, s.me.q.q8 = n :: l → goes (.popt 8 stall xd) s (fun t => moves t { s.me.q with q8 := l } [.observe false n])) ∧
    (∀ n l, s.me.q.q10 = n :: l → goes (.popt 10 stall xd) s (fun t => moves t { s.me.q with q10 := l } [.observe true n])) ∧
    (s.me.q.q9 ≠ 255 → goes (.pusht 9 stall xd) s (fun t => moves t { s.me.q with q9 := s.me.q.q9 + 1 } [])) ∧
    (s.me.q.q11 ≠ 255 → goes (.pusht 11 stall xd) s (fun t => moves t { s.me.q with q11 := s.me.q.q11 + 1 } [])) ∧
    (s.me.q.q8 = [] → waits (fun b => .popt 8 b xd)) ∧ (s.me.q.q10 = [] → waits (fun b => .popt 10 b xd)) ∧
    (s.me.q.q9 = 255 → waits (fun b => .pusht 9 b xd)) ∧ (s.me.q.q11 = 255 → waits (fun b => .pusht 11 b xd))

/-- QPOP (R75): it removes the head entry of q6 or q7 and writes it to xd with L = 1, and in flag mode 0 to x(xd+1); with an
empty queue stall mode stalls the strand before its strand cycle, and flag mode writes 1 to x(xd+1) and leaves xd and the queue;
a flag-mode word whose xd is not an even register from x2 to x14 is not accepted, so it is an illegal word at its issue. Removing
a command's last entry observes it (R205). -/
def Obligations.QpopRemovesTheHead : Prop :=
  ∀ (s : State) (q : BitVec 4) (stall : Bool) (xd : BitVec 4), s.phys = [] → q = 6 ∨ q = 7 →
    let Q := s.me.q.res q.toNat
    (∀ e l, Q.items = e :: l → goes (.qpop q stall xd) s (fun t => onlyMe s t ∧ t.me = { s.me with
      q := s.me.q.setRes q.toNat { Q with items := l, kept := if s.me.marked then Q.kept + 1 else Q.kept, rd := (Q.rd + 1) % 16 }
      sqr := { s.sqr with pend := s.sqr.pend ++ .x xd e.val ::
        ((if e.last then [.observe false e.seq] else []) ++ (if stall then [] else [.x (xd + 1) 0])) } })) ∧
    (Q.items = [] → (s.myStrand.st ≠ .frozen → goes (.qpop q true xd) s (fun t => stalls s t)) ∧
      goes (.qpop q false xd) s (fun t => pends s t [.x (xd + 1) 1])) ∧
    (∀ w lits, decodeWord w lits = .ok (.qpop q false xd) → xd.toNat % 2 = 0 ∧ 2 ≤ xd.toNat) ∧
    (∀ idle, xd.toNat % 2 = 1 ∨ xd = 0 → decodeWords (encode idle (.qpop q false xd)) = .error .notAccepted)

/-- WAITTC (R80, R205): where the counter has reached x[a] the word goes on and observes the commands up to it, with 0 in xd in
flag mode; where it has not, stall mode stalls and flag mode writes 1. That commands beyond the target are not observed is the
model's reading (log 82). WHAT AN OBSERVATION LEAVES IN AN AGENT REGISTER (R170): the last of the observed writes, or, where the program
wrote the register since that command issued, one of the program's value and an observed write; else the register as it was. -/
def Obligations.WaittcObservesOrWaits : Prop :=
  ∀ (s : State) (tcx : Bool) (xa xd : BitVec 4), s.myStrand.st ≠ .frozen →
    let c := if tcx then s.me.tcx else s.me.tca
    ((s.xr xa).toNat ≤ c →
      goes (.waittc tcx false xa 0) s (fun t => pends s t [.observe tcx (s.xr xa).toNat]) ∧
      goes (.waittc tcx true xa xd) s (fun t => pends s t [.observe tcx (s.xr xa).toNat, .x xd 0])) ∧
    (c < (s.xr xa).toNat →
      goes (.waittc tcx false xa 0) s (fun t => stalls s t) ∧ goes (.waittc tcx true xa xd) s (fun t => pends s t [.x xd 1])) ∧
    (∀ (a : Agent) (n t key : Nat) (r : BitVec 4), let b := a.observe false n t key
      (b.ar r = a.ar r ∨ ∃ e ∈ a.aAlt, e.reg = r ∧ e.seq ≤ n ∧ e.written = some (b.ar r)) ∧
      ((∀ e ∈ a.aAlt, e.reg = r → e.seq ≤ n → e.written = none) → b.ar r = a.ar r) ∧
      ((∀ e ∈ b.aAlt, n < e.seq)) ∧
      ∀ p e l w, a.aAlt = p ++ e :: l → e.reg = r → e.seq ≤ n → e.clash = false → e.written = some w →
        (∀ f ∈ l, f.reg = r → f.seq ≤ n → f.written = none) → b.ar r = w)

/-- AGEN COMMANDS (R78, R168, R169, R176, R185, R186): LDS and an atomic whose result queue has room reserve their entries;
every AGEN command goes on with the next sequence number, at the end of its engine's commands, with every agent register
sampled, its column set, overflow table and crt0 as they stand; the counters of completed commands, the cores and the memory buffer are as before. -/
def Obligations.AgenCommandsIssueInOrder : Prop :=
  ∀ s : State,
    let issues := fun (i : Instr) (j : Instr) (set : BitVec 4) (P : ACmd → Agent → Prop) => goes i s (fun t => onlyMe s t ∧ ∃ c,
      t.me.acmds = s.me.acmds ++ [c] ∧ t.me.seqA = s.me.seqA + 1 ∧ c.seq = s.me.seqA + 1 ∧ c.ins = j ∧ c.sc = s.t ∧
      c.tidx = s.idx ∧ c.set = s.me.colset[set.toFin] ∧ c.ovf = s.sqr.ovf ∧ c.crt = s.me.crt[(0 : Fin 8)] ∧
      (∀ r, aSamples s.me r c.a[BitVec.toFin r]) ∧ c.took = false ∧
      c.fin = false ∧ c.rank = 0 ∧ c.item = 0 ∧ t.me.xcmds = s.me.xcmds ∧ t.me.seqX = s.me.seqX ∧ t.me.tca = s.me.tca ∧
      t.me.cores = s.me.cores ∧ t.me.b = s.me.b ∧ t.me.a = s.me.a ∧ t.sqr = s.sqr ∧ P c t.me)
    let plain := fun (i : Instr) (set : BitVec 4) => issues i i set (fun _ a => a.q = s.me.q ∧ a.aAlt = s.me.aAlt)
    (∀ q7 xa imm, (s.me.q.res (if q7 then 7 else 6)).items.length + (s.me.q.res (if q7 then 7 else 6)).resv +
        (s.me.q.res (if q7 then 7 else 6)).kept < 16 →
      issues (.lds q7 xa imm) (.lds q7 xa imm) 0 (fun c a => c.addr = BitVec.ofInt 64 ((s.xr xa).toInt + imm.toInt) ∧
        (a.q.res (if q7 then 7 else 6)).resv = (s.me.q.res (if q7 then 7 else 6)).resv + 1)) ∧
    (∀ xd xa imm, issues (.sts xd xa imm) (.sts xd xa imm) 0 (fun c a =>
      c.addr = BitVec.ofInt 64 ((s.xr xa).toInt + imm.toInt) ∧ c.val = s.xr xd ∧ a.q = s.me.q)) ∧
    (∀ q f, plain (.feed q f) 0) ∧ (∀ q5 f, plain (.drain q5 f) 0) ∧ (∀ al set f, plain (.fillf al set f) set) ∧
    (∀ al set f, plain (.spillf al set f) set) ∧ (∀ al set f, plain (.tld al set f) set) ∧ (∀ al set f, plain (.tst al set f) set) ∧
    (∀ n set f, n.toNat + f.nm1.toNat < s.myStrand.l.nkb → plain (.kbld n set f) set) ∧
    (∀ slot f, plain (.tdesc slot f) 0) ∧ (∀ f, plain (.pref f) 0) ∧
    (∀ (a : Atom) i, i ∈ [Instr.atadd a, .atcas a, .atxch a, .atmax a, .atmin a, .atand a, .ator a, .atfadd a] →
      s.me.swap = none →
      (s.me.q.res (if a.rq then 7 else 6)).items.length + (s.me.q.res (if a.rq then 7 else 6)).resv +
        (s.me.q.res (if a.rq then 7 else 6)).kept + (if a.wid = .w128 then 2 else 1) ≤ 16 →
      issues i i 0 (fun c b =>
        (b.q.res (if a.rq then 7 else 6)).resv = (s.me.q.res (if a.rq then 7 else 6)).resv + (if a.wid = .w128 then 2 else 1) ∧
        b.aAlt = s.me.aAlt ++ (if a.ret then [⟨a.ad, c.seq, none, false⟩] else []) ++
          (if a.ret ∧ a.wid = .w128 then [⟨a.ad + 1, c.seq, none, false⟩] else []))) ∧
    (∀ ad col v quad tok, rowsIn s [v] → issues (.arow ad col v quad tok) (.arow ad col (s.row10 v) quad tok) 0 (fun c b =>
      b.q = s.me.q ∧ b.aAlt = s.me.aAlt ++ [⟨ad, c.seq, none, false⟩, ⟨ad + 1, c.seq, none, false⟩]))

/-- XCHG COMMANDS (R168, R169, R187, R190, R191): every X1 command, RECV and RCANCEL goes on with the next sequence number, at
the end of its engine's commands, with its code rate and the registers it names sampled; nothing is sent yet. -/
def Obligations.XchgCommandsIssueInOrder : Prop :=
  ∀ s : State,
    let issues := fun (i : Instr) (P : XCmd → Prop) => goes i s (fun t => onlyMe s t ∧ ∃ c,
      t.me.xcmds = s.me.xcmds ++ [c] ∧ t.me.seqX = s.me.seqX + 1 ∧ c.seq = s.me.seqX + 1 ∧ c.ins = i ∧ c.sc = s.t ∧
      c.tidx = s.idx ∧ c.sent = false ∧ c.fin = false ∧ c.started = false ∧ t.me.acmds = s.me.acmds ∧ t.me.seqA = s.me.seqA ∧
      t.me.tcx = s.me.tcx ∧ t.me.cores = s.me.cores ∧ t.me.q = s.me.q ∧ t.me.b = s.me.b ∧ t.me.a = s.me.a ∧ t.sqr = s.sqr ∧
      P c)
    let msg := fun (m : Xmsg) (c : XCmd) => aMay s.me m.ae c.ae ∧ aMay s.me m.asrc c.asrc ∧ aMay s.me m.adst c.adst ∧
      c.crt = s.me.crt[m.crt.toFin]
    (∀ m, issues (.xrd m) (msg m)) ∧
    (s.me.swap = none → (∀ m, issues (.send m) (msg m) ∧ issues (.xwr m) (msg m) ∧ issues (.xat m) (msg m)) ∧
      (∀ tag, issues (.recv .q12 tag) (fun c => aMay s.me tag c.atag) ∧ issues (.recv .q13 tag) (fun c => aMay s.me tag c.atag) ∧
        issues (.rcancel .q12 tag) (fun c => aMay s.me tag c.atag) ∧ issues (.rcancel .q13 tag) (fun c => aMay s.me tag c.atag)) ∧
      (∀ r tag, issues (.recv (.loc r) tag) (fun c => aMay s.me tag c.atag ∧ aMay s.me r c.adst) ∧
        issues (.rcancel (.loc r) tag) (fun c => aMay s.me tag c.atag ∧ aMay s.me r c.adst)))

/-! ## CORE words: issue, and effect at a column -/

/-- SCALAR WORDS (R42, R114, R115, R117): each of the eleven C3 forms, SMOVX and SLI enters the pipe; at every column where its
guards hold, the 32 low bits of its value land in sd with L = 1, and s0 discards them; elsewhere nothing happens. -/
def Obligations.ScalarWordsWriteTheirValue : Prop :=
  ∀ (i : Instr) (s : State) (g : Guard) (d : BitVec 4), scalarDest i = some (g, d) →
    coreDoes i s g (fun _ x e => landsS e d (BitVec.ofInt 32 (scalarValue s.xr x.s i)))

/-- SGET, PREDICATE AND ROW-TEST WORDS (R45, R116, R118, R119, R120): what each writes with L = 1; the clearing read of fst also
clears fst, and a poisoned row gives 0. -/
def Obligations.StatusAndPredicateWordsWriteTheirValue : Prop :=
  ∀ (s : State) (g : Guard) (d : BitVec 4),
    coreDoes (.sget g d .col) s g (fun _ x e => landsS e d (bv 32 x.c)) ∧
    coreDoes (.sget g d .row) s g (fun _ x e => landsS e d (bv 32 x.key.row)) ∧
    coreDoes (.sget g d .strand) s g (fun _ x e => landsS e d (bv 32 x.key.strand)) ∧
    coreDoes (.sget g d .part) s g (fun _ x e => landsS e d (bv 32 x.key.part)) ∧
    coreDoes (.sget g d .fst) s g (fun _ x e => landsS e d (x.core.fst.setWidth 32)) ∧
    coreDoes (.sget g d .fstc) s g (fun _ x e => e = { Eff.none with
      lands := (1, .clearFst) :: (if d = 0 then [] else [(1, .sreg d (x.core.fst.setWidth 32))]) }) ∧
    (∀ c sa sb, coreDoes (.scmp g c d sa sb) s g (fun _ x e => landsP e d (icondTrue c (x.s sa).toInt (x.s sb).toInt) false)) ∧
    (∀ pa pb, coreDoes (.pand g d pa pb) s g (fun _ x e => landsP e d (x.p pa = true ∧ x.p pb = true) false) ∧
      coreDoes (.por g d pa pb) s g (fun _ x e => landsP e d (x.p pa = true ∨ x.p pb = true) false) ∧
      coreDoes (.pxor g d pa pb) s g (fun _ x e => landsP e d (x.p pa ≠ x.p pb) false) ∧
      coreDoes (.pnot g d pa) s g (fun _ x e => landsP e d (x.p pa = false) false)) ∧
    (∀ va, rowsIn s [va] →
      coreDoes (.vany g d va) s g (fun _ x e => let r := x.row (s.row10 va)
        landsP e d (r.pois = false ∧ r.data ≠ 0) r.pois) ∧
      coreDoes (.vall g d va) s g (fun _ x e => let r := x.row (s.row10 va)
        landsP e d (r.pois = false ∧ ∀ k, k < 128 → lane 8 r.data k ≠ 0) r.pois))

/-- INTEGER AND LOGIC VECTOR WORDS (R100, R111, R123, R126, R133): twelve register forms and three immediate forms; each lane of
vd takes the low bits of its value with L = 2 and no flag, poisoned by a poisoned source. -/
def Obligations.IntegerVectorWordsWriteTheirLanes : Prop :=
  ∀ (i : Instr) (s : State) (g : Guard) (ty : ITy) (vd va : BitVec 10) (b : BSrc) (f : Nat → Nat → Int),
    intWord i = some (g, ty, vd, va, b, f) → rowsIn s [vd, va] → bIn s b →
    coreDoes i s g (fun _ x e => let w := widthI ty; let A := x.row (s.row10 va); let B := x.b (s.renameB b)
      lanewise e 2 w (s.row10 vd) [A, B] (fun k => ⟨(f (lane w A.data k) (lane w B.data k) % 2 ^ w).toNat, 0, false⟩))

/-- FLOATING-POINT VECTOR WORDS (R91, R92, R95, R111, R121, R123, R133): nine register forms and five immediate forms; each lane
of vd takes the result of its lanes under the rounding, flush and overflow entry in force at issue, with all flags, with L = 4
or, for minimum, maximum and compare, L = 2. MINIMUM, MAXIMUM AND COMPARE BY VALUE (R91): of two numbers or infinities the
greater or the lesser unchanged, of zeros of both signs +0 the maximum and −0 the minimum; the order of a compare is that of the
values, zeros equal; a NaN gives the canonical NaN, and compares as unordered, invalid if it signals or an order was asked. -/
def Obligations.FloatVectorWordsWriteTheirLanes : Prop :=
  (∀ (i : Instr) (s : State) (g : Guard) (ty : FTy) (r : Rnd) (vd va : BitVec 10) (b : BSrc) (rd : Bool) (L : Nat)
     (f : FEnv → Nat → Nat → Nat → Res),
     floatWord i = some (g, ty, r, vd, va, b, rd, L, f) → rowsIn s [vd, va] → bIn s b →
     coreDoes i s g (fun _ x e =>
       let w := widthF ty; let A := x.row (s.row10 va); let B := x.b (s.renameB b); let V := x.row (s.row10 vd)
       lanewise e L w (s.row10 vd) (if rd then [A, B, V] else [A, B])
         (fun k => f (s.issueEnv ty r) (lane w A.data k) (lane w B.data k) (lane w V.data k)))) ∧
  (∀ (f x y : Nat), f = 23 ∨ f = 7 → x < 2 ^ (f + 9) → y < 2 ^ (f + 9) →
     let a := fpUnpack f x
     let b := fpUnpack f y
     let nv : BitVec 5 := if a.isSig || b.isSig then fNv else 0
     (∀ mx, a.isNan = true ∨ b.isNan = true → fpMinMax f mx x y = ⟨fpNan f, nv, false⟩) ∧
     (a.below b = true → fpMinMax f true x y = .exact y ∧ fpMinMax f true y x = .exact y ∧
       fpMinMax f false x y = .exact x ∧ fpMinMax f false y x = .exact x) ∧
     (∀ mx, a.isNan = false → fpMinMax f mx x x = .exact x) ∧
     (∀ p q, p ≠ q → fpMinMax f true (fpSign f p) (fpSign f q) = .exact 0 ∧
       fpMinMax f false (fpSign f p) (fpSign f q) = .exact (fpSign f true)) ∧
     (a.isNan = true ∨ b.isNan = true →
       (∀ c ∈ [Cond.eq, .or], fpCompare f c x y = (false, nv)) ∧ (∀ c ∈ [Cond.ne, .un], fpCompare f c x y = (true, nv)) ∧
       ∀ c ∈ [Cond.lt, .le, .gt, .ge], fpCompare f c x y = (false, fNv)) ∧
     (a.isNan = false → b.isNan = false →
       fpCompare f .lt x y = (a.below b, 0) ∧ fpCompare f .gt x y = (b.below a, 0) ∧
       fpCompare f .le x y = (!b.below a, 0) ∧ fpCompare f .ge x y = (!a.below b, 0) ∧
       fpCompare f .eq x y = (!a.below b && !b.below a, 0) ∧ fpCompare f .ne x y = (a.below b || b.below a, 0) ∧
       fpCompare f .or x y = (true, 0) ∧ fpCompare f .un x y = (false, 0)))

/-- VABS, VNEG AND THE SPECIAL FUNCTIONS (R122, R125): each lane of vd takes the function of its lane of va, with L = 2 or L =
10. THE SPECIAL FUNCTIONS AT THEIR BOUNDARIES (R91, R94, R125), in both formats and every rounding: zeros, infinities, the negative
operands of VRSQ, VSQRT and VLOG2, VLOG2 of one, VEXP2 from 128 on, which overflows by the entry in force, and NaNs. -/
def Obligations.UnaryWordsAndSpecialFunctions : Prop :=
  (∀ (i : Instr) (s : State) (g : Guard) (ty : FTy) (vd va : BitVec 10) (L : Nat) (f : Nat → Res),
     unaryWord s.issueEnv i = some (g, ty, vd, va, L, f) → rowsIn s [vd, va] →
     coreDoes i s g (fun _ x e => let w := widthF ty; let A := x.row (s.row10 va)
       lanewise e L w (s.row10 vd) [A] (fun k => f (lane w A.data k)))) ∧
  (∀ (f : Nat) (e : FEnv) (neg : Bool), f = 23 ∨ f = 7 →
     let z := fpSign f neg
     let inf := fpInf f neg
     let one := 127 * 2 ^ f
     let bad : Res := ⟨fpNan f, fNv, false⟩
     spLane f e .rcp z = ⟨inf, fDz, false⟩ ∧ spLane f e .rsq z = ⟨inf, fDz, false⟩ ∧ spLane f e .log2 z = ⟨fpInf f true, fDz, false⟩ ∧
     spLane f e .sqrt z = .exact z ∧ spLane f e .tanh z = .exact z ∧ spLane f e .sin z = .exact z ∧
     spLane f e .exp2 z = .exact one ∧ spLane f e .cos z = .exact one ∧ spLane f e .sigm z = .exact (126 * 2 ^ f) ∧
     spLane f e .rcp inf = .exact z ∧ spLane f e .sin inf = bad ∧ spLane f e .cos inf = bad ∧
     spLane f e .tanh inf = .exact (z + one) ∧ spLane f e .exp2 inf = .exact (if neg then 0 else inf) ∧
     spLane f e .sigm inf = .exact (if neg then 0 else one) ∧
     (∀ x, x < 2 ^ (f + 8) → 0 < x → x ≤ 255 * 2 ^ f →
       spLane f e .rsq (2 ^ (f + 8) + x) = bad ∧ spLane f e .sqrt (2 ^ (f + 8) + x) = bad ∧ spLane f e .log2 (2 ^ (f + 8) + x) = bad) ∧
     spLane f e .rsq (fpInf f false) = .exact 0 ∧ spLane f e .sqrt (fpInf f false) = .exact (fpInf f false) ∧
     spLane f e .log2 (fpInf f false) = .exact (fpInf f false) ∧ spLane f e .log2 one = .exact 0 ∧
     (∀ x, 134 * 2 ^ f ≤ x → x < 255 * 2 ^ f →
       let r := spLane f e .exp2 x
       r.fl = fOf ||| fIx ∧ (r.pois = true ↔ e.ent = .poison) ∧
       (e.ent = .largest ∨ e.ent = .poison → r.bits = fpMax f false) ∧ (e.ent = .nan → r.bits = fpNan f) ∧
       (e.ent = .infinity → r.bits = if e.rm = .rtz ∨ e.rm = .rdn then fpMax f false else fpInf f false)) ∧
     (∀ (fn : SpFn) (x : Nat), x < 2 ^ (f + 8) → 255 * 2 ^ f < x →
       spLane f e fn (z + x) = ⟨fpNan f, if x / 2 ^ (f - 1) % 2 = 0 then fNv else 0, false⟩))

/-- SELECTION, MOVES AND PERMUTATION OF LANES (R111, R124, R131, R133, R134). -/
def Obligations.LaneMovesWriteTheirLanes : Prop :=
  ∀ (s : State) (g : Guard) (ty : Ty) (vd va : BitVec 10) (b : BSrc), rowsIn s [vd, va] → bIn s b →
    let w := widthT ty
    let n := 1024 / w
    coreDoes (.vsel g ty vd va b) s g (fun _ x e =>
      let A := x.row (s.row10 va); let B := x.b (s.renameB b); let V := x.row (s.row10 vd)
      lanewise e 2 w (s.row10 vd) [A, B, V] (fun k => .exact (if lane w B.data k = 0 then lane w V.data k else lane w A.data k))) ∧
    coreDoes (.vmov g ty vd b) s g (fun _ x e => let B := x.b (s.renameB b)
      landsRow e 2 (s.row10 vd) ⟨B.data, B.pois⟩ 0 B.pois) ∧
    (∀ (p : BitVec 3) (imm : BitVec 20), coreDoes (.vli p vd imm) s ⟨false, p.setWidth 4⟩ (fun _ _ e =>
      lanewise e 2 32 (s.row10 vd) [] (fun _ => .exact (imm.signExtend 32).toNat))) ∧
    coreDoes (.vperm g ty vd va b) s g (fun _ x e => let A := x.row (s.row10 va); let B := x.b (s.renameB b)
      lanewise e 6 w (s.row10 vd) [A, B] (fun k => .exact (lane w A.data (lane w B.data k % n)))) ∧
    (∀ j : BitVec 6, coreDoes (.vbcast g ty vd va j) s g (fun _ x e => let A := x.row (s.row10 va)
      lanewise e 6 w (s.row10 vd) [A] (fun _ => .exact (lane w A.data (j.toNat % n)))) ∧
      coreDoes (.vrot g ty vd va j) s g (fun _ x e => let A := x.row (s.row10 va)
        lanewise e 6 w (s.row10 vd) [A] (fun k => .exact (lane w A.data ((k + j.toNat) % n)))))

/-- VCVT (R97, R100, R127, R128): the elements it converts and where they go, by the widths of the two formats; a result other
than M8 is the rounded or narrowed element; an M8 result is the converted block with its scale byte; other bytes of vd stay; L =
4. THE VALUE OF AN M8 CODE (R96, R97) and M8 BLOCKS (R99): the scale is the least that keeps every element below 1.96875 · 2^E, each
code the nearest, ties to the even one; NaNs, infinities and overflow; flags and poison. NARROWING (R100, R102): rounding to an
integer, an integer narrowed, FX128 to FP32. -/
def Obligations.ConversionsWriteTheirElements : Prop :=
  (∀ (s : State) (g : Guard) (dst src : CvtFmt) (r : Rnd) (hb : Bool) (vd va : BitVec 10), rowsIn s [vd, va] → dst ≠ src →
    let sw := src.width; let dw := dst.width; let h := hb.toNat
    -- 64 elements where both are at most 16 bits wide and one is 16
    let n := if sw ≤ 16 ∧ dw ≤ 16 ∧ ¬ (sw = 8 ∧ dw = 8) then 64 else 32
    let from_ := fun k => if n = 64 ∨ sw = 32 then k else 32 * h + k
    let to_ := fun k => if n = 64 ∨ dw = 32 then k else 32 * h + k
    coreDoes (.vcvt g dst src r hb vd va) s g (fun _ x e =>
      let A := x.row (s.row10 va); let V := x.row (s.row10 vd)
      let v := fun k => lane sw A.data (from_ k)
      let sc := fun k => if sw = 8 then lane 8 A.data (64 + from_ k / 32) else 0
      let el := fun k => cvtElem dst src (rndMode r s.sqr.fpc) (s.sqr.fpc.getLsbD 3) s.sqr.ovf (v k) (sc k)
      let blk := fun j => convertBlock (ovM8 s.sqr.ovf) ((List.range 32).map (fun i => cvtValue src (v (32 * j + i)) (sc (32 * j + i))))
      ∃ d p fl, landsRow e 4 (s.row10 vd) ⟨d, A.pois || V.pois || p⟩ fl (A.pois || V.pois) ∧
        (dst ≠ .m8 → p = (List.range n).any (fun k => (el k).pois) ∧ fl = orFlags ((List.range n).map el) ∧
          ∀ k, k < n → lane dw d (to_ k) = (el k).bits % 2 ^ dw) ∧
        (dst = .m8 → p = (List.range (n / 32)).any (fun j => (blk j).pois) ∧
          fl = (List.range (n / 32)).foldl (fun f j => f ||| (blk j).fl) 0 ∧
          ∀ k, k < n → lane 8 d (to_ k) = (blk (k / 32)).codes.getD (k % 32) 0 % 256 ∧
            lane 8 d (64 + to_ k / 32) = wrapInt 8 (blk (k / 32)).scale) ∧
        (∀ j, j < 128 → (∀ k, k < n → ¬ (dw / 8 * to_ k ≤ j ∧ j < dw / 8 * to_ k + dw / 8)) →
          (dst = .m8 → ∀ k, k < n → j ≠ 64 + to_ k / 32) → lane 8 d j = lane 8 V.data j))) ∧
  (∀ (neg : Bool) (E : Int), let sg := if neg then 128 else 0
     m8Fp sg E = .fin neg 0 0 ∧
     ∀ k b : Nat, k ≤ 6 → 2 ^ (6 - k) ≤ b → b < 2 ^ (7 - k) →
       let f := 4 - k
       let fld := b - 2 ^ (6 - k)
       let lo : Int := if k = 5 then -21 else if k = 6 then -22 else -3 - 4 * (k : Int)
       m8Fp (sg + b) E = .fin neg (2 ^ f + fld % 2 ^ f) (lo + (fld / 2 ^ f : Nat) - f + E)) ∧
  (∀ (m : Nat) (e lo : Int), lo ≤ e → lo ≤ -22 →
     let c := (m8Round m e).1
     let off := fun (d : Nat) => ((m8Fp d 0).scaled lo - (m * 2 ^ (e - lo).toNat : Nat)).natAbs
     c ≤ 127 ∧ ((m8Round m e).2 = true ↔ off c ≠ 0) ∧ ∀ d, d ≤ 127 → off c ≤ off d ∧ (off c = off d → d ≠ c → c % 2 = 0)) ∧
  (∀ (ent : OvE) (xs : List Fp),
     let cb := convertBlock ent xs
     let n := xs.length
     let code := fun (neg : Bool) (c : Nat) => if c = 0 then 0 else if neg then c + 128 else c
     let coded := fun (ov : Bool) => cb.pois = false ∧ cb.codes.length = n ∧
       (∀ (i : Nat) neg m e, xs[i]? = some (Fp.fin neg m e) → cb.codes[i]? = some (code neg (m8Round m (e - cb.scale)).1)) ∧
       (∀ (i : Nat) neg, xs[i]? = some (Fp.inf neg) → cb.codes[i]? = some (code neg 127)) ∧
       cb.fl &&& (fNv ||| fDz) = 0 ∧ (cb.fl &&& fOf ≠ 0 ↔ ov = true) ∧
       (cb.fl &&& fIx ≠ 0 ↔ ov = true ∨ ∃ neg m e, Fp.fin neg m e ∈ xs ∧ (m8Round m (e - cb.scale)).2 = true) ∧
       (cb.fl &&& fUf ≠ 0 ↔ ∃ neg m e, Fp.fin neg m e ∈ xs ∧ m ≠ 0 ∧ (m8Round m (e - cb.scale)).1 = 0)
     let tooBig := (ent = .poison → cb = ⟨List.replicate n 0, 0, true, fOf ||| fIx⟩) ∧ (ent ≠ .poison → cb.scale = 127 ∧ coded true)
     let fits := fun (E : Int) => ∀ x ∈ xs, 32 * (x.scaled (min x.low E)).natAbs < 63 * 2 ^ (E - min x.low E).toNat
     ((∃ q, Fp.nan q ∈ xs) → cb = ⟨List.replicate n 0, 0, true, fNv⟩) ∧
     ((∀ q, Fp.nan q ∉ xs) → (∃ q, Fp.inf q ∈ xs) → tooBig) ∧
     ((∀ x ∈ xs, x.isFin = true) →
       ((∀ x ∈ xs, x.scaled x.low = 0) → cb = ⟨List.replicate n 0, 0, false, 0⟩) ∧
       ∀ E, fits E → ¬ fits (E - 1) → (E ≤ 127 → cb.scale = max (-128) E ∧ coded false) ∧ (127 < E → tooBig))) ∧
  (∀ (src : CvtFmt) (rm : RMode) (fz : Bool) (ovf : BitVec 14) (v sc : Nat), v < 2 ^ src.width → sc < 256 →
     let x := cvtValue src v sc
     let int := src = .i32 ∨ src = .i16 ∨ src = .i8
     x = (match src with
       | .f32 => fpUnpack 23 v
       | .bf16 => fpUnpack 7 v
       | .m8 => m8Fp v (slane 8 sc)
       | .i32 | .i16 | .i8 => .fin (decide (slane src.width v < 0)) (slane src.width v).natAbs 0) ∧
     cvtElem .f32 src rm fz ovf v sc = fpOut 23 ⟨rm, fz, ovF32 ovf⟩ x ∧
     cvtElem .bf16 src rm fz ovf v sc = fpOut 7 ⟨rm, fz, ovBf16 ovf⟩ x ∧
     ∀ dst ent, (dst, ent) ∈ [(CvtFmt.i32, ovI32 ovf), (.i16, ovI16 ovf), (.i8, ovI8 ovf)] →
       (int → cvtElem dst src rm fz ovf v sc = narrowInt dst.width ent (slane src.width v)) ∧
       (¬ int → cvtElem dst src rm fz ovf v sc = fpToInt dst.width 0 rm ent x)) ∧
  (∀ (w k : Nat) (rm : RMode) (ent : OvE), 0 < w →
     let is := fun (r : Res) (v : Int) (fl : BitVec 5) (p : Prop) => r.bits < 2 ^ w ∧ slane w r.bits = v ∧ r.fl = fl ∧ (r.pois = true ↔ p)
     (∀ q, fpToInt w k rm ent (.nan q) = ⟨0, fNv, ent == .poison⟩) ∧
     (∀ neg, is (fpToInt w k rm ent (.inf neg)) (if neg then -(2 ^ (w - 1)) else 2 ^ (w - 1) - 1) (fNv ||| fIx) (ent = .poison)) ∧
     (∀ neg m e, let q := roundTo rm neg m e (-(k : Int)); let v : Int := if neg then -(q.1 : Int) else q.1
       is (fpToInt w k rm ent (.fin neg m e)) (clampI w v) (if clampI w v = v then (if q.2 then fIx else 0) else fNv ||| fIx)
         (clampI w v ≠ v ∧ ent = .poison)) ∧
     ∀ v : Int, is (narrowInt w ent v) (clampI w v) (if clampI w v = v then 0 else fOf ||| fIx) (clampI w v ≠ v ∧ ent = .poison)) ∧
  (∀ (rm : RMode) (x : Nat), x < 2 ^ 128 → let v := slane 128 x
     fxToF32 rm x = if v = 0 then .exact 0 else fpOut 23 ⟨rm, false, .infinity⟩ (.fin (decide (v < 0)) v.natAbs (-64)))

/-- REDUCTIONS (R106, R130): with L = 6 every lane of vd takes the sum of all lanes of va, wrapped, for integers without
saturation; the minimum or maximum of all lanes, for integers; and the pairwise tree of saturating sums, FP32 or BF16 sums,
minima or maxima. -/
def Obligations.ReductionsWriteEveryLane : Prop :=
  ∀ (s : State) (g : Guard) (r : Rnd) (vd va : BitVec 10), rowsIn s [vd, va] →
    let all := fun (e : Eff) (x : Ctx) (w : Nat) (fl : BitVec 5) (P : Nat → Prop) => let A := x.row (s.row10 va)
      ∃ d, landsRow e 6 (s.row10 vd) ⟨d, A.pois⟩ fl A.pois ∧ ∃ v, P v ∧ ∀ k, k < 1024 / w → lane w d k = v
    let lanes := fun (x : Ctx) (w : Nat) => (List.range (1024 / w)).map (lane w (x.row (s.row10 va)).data)
    let ints : List (Ty × Nat) := [(.i32, 32), (.i16, 16)]
    (∀ ty w, (ty, w) ∈ ints → coreDoes (.vrsum g ty r false vd va) s g (fun _ x e =>
      all e x w 0 (fun v => (v : Int) = sumTo (1024 / w) (fun k => (lane w (x.row (s.row10 va)).data k : Int)) % 2 ^ w))) ∧
    (∀ ty w, (ty, w) ∈ ints → coreDoes (.vrsum g ty r true vd va) s g (fun _ x e =>
      all e x w 0 (fun v => v = (treeReduce (fun p q => .exact (clampI w (slane w p + slane w q) % 2 ^ w).toNat)
        (if w = 32 then 5 else 6) (lanes x w)).1))) ∧
    (∀ ty w, (ty, w) ∈ ints → coreDoes (.vrmax g ty vd va) s g (fun _ x e => all e x w 0 (fun v =>
      v ∈ lanes x w ∧ ∀ u ∈ lanes x w, slane w u ≤ slane w v))) ∧
    (∀ ty w, (ty, w) ∈ ints → coreDoes (.vrmin g ty vd va) s g (fun _ x e => all e x w 0 (fun v =>
      v ∈ lanes x w ∧ ∀ u ∈ lanes x w, slane w v ≤ slane w u))) ∧
    (∀ ft : FTy,
      let f := fracOf ft; let w := widthF ft; let n := (match ft with | .f32 => 5 | .bf16 => 6)
      let ty : Ty := (match ft with | .f32 => .f32 | .bf16 => .bf16)
      let tree := fun (x : Ctx) (op : Nat → Nat → Res) => treeReduce op n (lanes x w)
      coreDoes (.vrsum g ty r false vd va) s g (fun _ x e =>
        let q := tree x (fun p q => fpAdd f (s.issueEnv ft r) (fpUnpack f p) (fpUnpack f q))
        all e x w q.2 (fun v => v = q.1 % 2 ^ w)) ∧
      coreDoes (.vrmax g ty vd va) s g (fun _ x e =>
        let q := tree x (fpMinMax f true)
        all e x w q.2 (fun v => v = q.1 % 2 ^ w)) ∧
      coreDoes (.vrmin g ty vd va) s g (fun _ x e =>
        let q := tree x (fpMinMax f false)
        all e x w q.2 (fun v => v = q.1 % 2 ^ w)))

/-- FX128 WORDS AND LANE ACCUMULATES (R94, R95, R102, R107, R129, R132): the conversion, the sum and the return of 128-bit numbers; a lane
accumulate adds its slot and the low lanes of va, puts the sums in the low lanes of vd with zeros above and sends them east. An FX128 sum out of
range under a poison entry is delivered as saturated, with of and ix: R102's words on order do not hold of it, and this is the model's choice
(log 56). -/
def Obligations.AccumulatesWriteRowAndSlot : Prop :=
  ∀ (s : State) (g : Guard) (r : Rnd) (vd va : BitVec 10) (slot : BitVec 3), rowsIn s [vd, va] →
    coreDoes (.vfxc g vd va) s g (fun _ x e => let A := x.row (s.row10 va)
      lanewise e 4 128 (s.row10 vd) [A] (fun k => fpToInt 128 64 .rne (ovFx s.sqr.ovf) (fpUnpack 23 (lane 32 A.data k)))) ∧
    (∀ b : BFx, (match b with | .row v => rowsIn s [v] | .slot _ => True) →
      coreDoes (.vfxa g vd va b) s g (fun _ x e =>
        let A := x.row (s.row10 va); let B := x.b (match b with | .row v => .row (s.row10 v) | .slot n => .slot n)
        lanewise e 4 128 (s.row10 vd) [A, B] (fun k =>
          narrowInt 128 (ovFx s.sqr.ovf) (slane 128 (lane 128 A.data k) + slane 128 (lane 128 B.data k))))) ∧
    coreDoes (.vfxf g r vd va) s g (fun _ x e => let A := x.row (s.row10 va)
      lanewise e 4 32 (s.row10 vd) [A] (fun k => if k < 8 then fxToF32 (rndMode r s.sqr.fpc) (lane 128 A.data k) else .exact 0)) ∧
    (let acc := fun (w : Nat) (f : Nat → Nat → Res) (x : Ctx) (e : Eff) =>
      let A := x.row (s.row10 va); let B := x.beat.slot slot.toNat; let p := A.pois || x.beat.pois.getLsbD slot.toNat
      let rs := (List.range (256 / w)).map (fun k => f (B.toNat / 2 ^ (w * k) % 2 ^ w) (lane w A.data k))
      ∃ d out, e = { Eff.none with lands := (4, .row (s.row10 vd).toNat ⟨d, p || rs.any (·.pois)⟩) :: flagLand 4 (orFlags rs), read := p
                                   beat := some out } ∧
        (∀ k, k < 1024 / w → lane w d k = if k < 256 / w then (rs.getD k (.exact 0)).bits % 2 ^ w else 0) ∧
        out.slot slot.toNat = d.setWidth 256 ∧ out.pois.getLsbD slot.toNat = (p || rs.any (·.pois)) ∧ out.valid = true ∧
        out.scale = x.beat.scale ∧ ∀ j, j < 8 → j ≠ slot.toNat →
          out.slot j = x.beat.slot j ∧ out.pois.getLsbD j = x.beat.pois.getLsbD j
    (∀ ty, coreDoes (.vladd g ty r vd va slot) s g (fun _ x e => acc (widthF ty)
      (fun p q => fpAdd (fracOf ty) (s.issueEnv ty r) (fpUnpack (fracOf ty) p) (fpUnpack (fracOf ty) q)) x e)) ∧
    coreDoes (.vfxl g vd va slot) s g (fun _ x e => acc 128
      (fun p q => narrowInt 128 (ovFx s.sqr.ovf) (slane 128 p + slane 128 q)) x e))

/-- MOVES BETWEEN ROWS, BEAT SLOTS AND FOLIO UNITS (R143, R144, R155–R159): what each reads, where its data, scale, poison and
flags go, and its latency; a unit beyond the window reads as poisoned zeros, and a write to it is dropped. THE ELEMENTS OF MOVES (R155): raw, FP32 and I32 rows
are their bits; BF16 elements are the high halves of lanes; I8 elements are sign-extended on the way in; on the way out BF16
rounds, I8 narrows, and M8 is one converted block. -/
def Obligations.MovesCarryTheirElements : Prop :=
  (∀ (s : State) (g : Guard) (c : Cvt) (v : BitVec 10) (m : BitVec 5) (slot : BitVec 3) (sk : BitVec 4) (disp : BitVec 13),
     let n := match c with | .raw | .f32 | .i32 => 4 | .bf16 => 2 | .m8 | .i8 => 1
     let units := fun (x : Ctx) (u k : Nat) => packN 256 ((List.range k).map (fun i => (x.unit (u + i)).data.toNat))
     let pois := fun (x : Ctx) (u k : Nat) => (List.range k).any (fun i => (x.unit (u + i)).pois)
     let in_ := fun (x : Ctx) (u : Nat) => decide (u < x.l.nunits)
     (∀ (x : Ctx) (u : Nat), x.l.nunits ≤ u → x.unit u = ⟨0, true⟩) ∧
     (rowsIn s [v] →
       coreDoes (.vgetl g c v slot) s g (fun _ x e =>
         let r := loadRow c (x.beat.data.toNat / 2 ^ (256 * slot.toNat) % 2 ^ (256 * n)) (x.beat.scaleOf slot.toNat)
         let p := (List.range n).any (fun i => x.beat.pois.getLsbD (slot.toNat + i))
         landsRow e 2 (s.row10 v) ⟨r.1, p⟩ r.2 p) ∧
       (slot.toNat + n ≤ 8 → coreDoes (.vputl g c slot v) s g (fun _ x e =>
         let R := x.row (s.row10 v); let st := storeRow c s.sqr.fpc s.sqr.ovf R.data
         ∃ out, e = { Eff.none with lands := flagLand 1 st.fl, read := R.pois, beat := some out } ∧ out.valid = true ∧
           out.data.toNat / 2 ^ (256 * slot.toNat) % 2 ^ (256 * n) = st.bits % 2 ^ (256 * n) ∧
           (c = .m8 → out.scaleOf slot.toNat = st.scale) ∧ (c ≠ .m8 → out.scale = x.beat.scale) ∧
           (∀ j, j < 8 → out.pois.getLsbD j = if slot.toNat ≤ j ∧ j < slot.toNat + n then R.pois || st.pois else x.beat.pois.getLsbD j) ∧
           ∀ j, j < 8 → ¬ (slot.toNat ≤ j ∧ j < slot.toNat + n) → out.slot j = x.beat.slot j)) ∧
       (disp.toNat + n ≤ s.myStrand.l.nunits →
         coreDoes (.fldv g c v sk disp) s g (fun _ x e =>
           let u := (x.s sk).toNat + disp.toNat; let r := loadRow c (units x u n) 0
           landsRow e 2 (s.row10 v) ⟨r.1, pois x u n⟩ r.2 (pois x u n)) ∧
         coreDoes (.fstv g c sk disp v) s g (fun _ x e =>
           let R := x.row (s.row10 v); let st := storeRow c s.sqr.fpc s.sqr.ovf R.data; let u := (x.s sk).toNat + disp.toNat
           e = { Eff.none with
             lands := ((List.range n).filter (fun i => in_ x (u + i))).map (fun i =>
               (2, .unit (u + i) ⟨bv 256 (st.bits / 2 ^ (256 * i)), R.pois || st.pois⟩)) ++ flagLand 2 st.fl
             read := R.pois }))) ∧
     (let all := if c = .m8 then 33 else 32 * n
      tilesIn s [m] → disp.toNat + all ≤ s.myStrand.l.nunits →
       coreDoes (.fldm g c m sk disp) s g (fun _ x e =>
         let u := (x.s sk).toNat + disp.toNat; let S := x.unit (u + 32)
         let row := fun r => loadRow c (units x (u + n * r) n) (if c = .m8 then S.data.extractLsb' (8 * r) 8 else 0)
         let rp := fun r => pois x (u + n * r) n || (decide (c = .m8) && S.pois)
         e = { Eff.none with
           lands := (List.range 32).map (fun r => (4, .row (32 * (s.tile5 m).toNat + r) ⟨(row r).1, rp r⟩)) ++
             flagLand 4 ((List.range 32).foldl (fun f r => f ||| (row r).2) 0)
           read := (List.range 32).any rp }) ∧
       coreDoes (.fstm g c sk disp m) s g (fun _ x e =>
         let u := (x.s sk).toNat + disp.toNat; let R := fun r => (x.tile (s.tile5 m)).getD r ⟨0, false⟩
         let st := fun r => storeRow c s.sqr.fpc s.sqr.ovf (R r).data
         e = { Eff.none with
           lands := (List.range 32).flatMap (fun r => ((List.range n).filter (fun i => in_ x (u + n * r + i))).map (fun i =>
               (4, .unit (u + n * r + i) ⟨bv 256 ((st r).bits / 2 ^ (256 * i)), (R r).pois || (st r).pois⟩))) ++
             (if c = .m8 ∧ u + 32 < x.l.nunits then [(4, .unit (u + 32) ⟨bv 256 (packN 8 ((List.range 32).map (fun r => (st r).scale.toNat))),
               (List.range 32).any (fun r => (R r).pois || (st r).pois)⟩)] else []) ++
             flagLand 4 ((List.range 32).foldl (fun f r => f ||| (st r).fl) 0)
           read := (List.range 32).any (fun r => (R r).pois) }))) ∧
  (∀ (fpc : BitVec 4) (ovf : BitVec 14) (r : BitVec 1024) (v : Nat) (sc : Byte) (k : Nat), k < 32 →
     let L := lane 32 r k
     (∀ c ∈ [Cvt.raw, .f32, .i32], lane 32 (loadRow c v sc).1 k = v / 2 ^ (32 * k) % 2 ^ 32 ∧ (loadRow c v sc).2 = 0 ∧
       (storeRow c fpc ovf r).bits / 2 ^ (32 * k) % 2 ^ 32 = L ∧ (storeRow c fpc ovf r).fl = 0) ∧
     lane 32 (loadRow .bf16 v sc).1 k = v / 2 ^ (16 * k) % 2 ^ 16 * 2 ^ 16 ∧
     (lane 32 (loadRow .i8 v sc).1 k : Int) = slane 8 (v / 2 ^ (8 * k) % 256) % 2 ^ 32 ∧
     (storeRow .bf16 fpc ovf r).bits / 2 ^ (16 * k) % 2 ^ 16 =
       (fpOut 7 ⟨fpcMode fpc, fpc.getLsbD 3, ovBf16 ovf⟩ (fpUnpack 23 L)).bits % 2 ^ 16 ∧
     (((storeRow .i8 fpc ovf r).bits / 2 ^ (8 * k) % 256 : Nat) : Int) = clampI 8 (slane 32 L) % 256 ∧
     ((storeRow .i8 fpc ovf r).fl = 0 ↔ ∀ j, j < 32 → clampI 8 (slane 32 (lane 32 r j)) = slane 32 (lane 32 r j)) ∧
     (storeRow .m8 fpc ovf r).bits / 2 ^ (8 * k) % 256 =
       (convertBlock (ovM8 ovf) ((List.range 32).map (fun j => fpUnpack 23 (lane 32 r j)))).codes.getD k 0 % 256)

/-! ## Matrix words -/

/-- MMA STARTS A PRODUCT (R54, R57, R142–R147, R150): with operands in the window, the matrix attribute and the array free, MMA
enters the pipe and occupies the array for its beats; at a column where its guards hold it fixes B, a folio A, and the
accumulator rows (+0 for ovw), and ends any chain that could begin; a tile A goes through the down-converter (R148): element (i,k)
of A is lane k of row i as BF16 under RNE, as a saturated byte, or as a code of the converted block k. THE BEATS OF A PRODUCT
(R146, R147): it takes chunk 0 with the beat of its own strand cycle at the column and one more with each beat; after the last
its 32 rows and its flags wait to land at their due time. MZERO AND MTRN (R152, R153): 32 zero rows land clean with L = 2; the
transpose lands with L = 8, every row poisoned if any row of the source is; both end a chain. -/
def Obligations.MatrixWordsTakeTheirEffect : Prop :=
  (∀ (s : State) (g : Guard) (fmt : MFmt) (mode : MMode) (tb : Bool) (ovr : MOvr) (md : BitVec 5) (a : MmaA) (sb : BitVec 4)
     (bd : BitVec 10),
     let units := match fmt with | .m8 => 33 | .i8 => 32 | .bf16 => 64
     let beats := match fmt with | .m8 | .i8 => 4 | .bf16 => 16
     tilesIn s [md] → (match a with | .tile m => tilesIn s [m] | .folio _ => units ≤ s.myStrand.l.nunits | .lane => True) →
     bd.toNat + units ≤ s.myStrand.l.nunits → s.myStrand.mat = true → s.sqr.mmaFree ≤ s.t →
     ∃ t w, exec (.mma g fmt mode tb ovr md a sb bd) s = .next t ∧ onlyMe s t ∧
       t.me = { s.me with pipe := KV.put s.me.pipe s.t w, sqr := { s.sqr with mmaFree := s.t + beats } } ∧
       w.stage = s.sqr.stageGuard g ∧ w.ovf = s.sqr.ovf ∧ w.held = false ∧
       ∀ x : Ctx, x.w = w → (¬ enabled x g → columnWord w.ins x = Eff.none) ∧ (enabled x g → ∃ r rd,
         columnWord w.ins x = { Eff.none with run := some r, breaks := true, read := rd } ∧
         r.t = x.t ∧ r.md = (s.tile5 md).toNat ∧ r.ovf = s.sqr.ovf ∧ r.n = 0 ∧ r.latest = true ∧ r.shape.1 = beats ∧
         r.shape.2 = beats + (match a with | .tile _ => 8 | _ => 6) ∧
         r.b = (List.range units).map (fun i => (x.unit ((x.s sb).toNat + bd.toNat + i)).data.setWidth 256) ∧
         (a = .lane → r.a = none) ∧
         (∀ sa, a = .folio sa → ∃ sc, r.a = some ((List.range units).map (fun i => (x.unit ((x.s sa).toNat + i)).data.setWidth 256), sc)) ∧
         (∀ ma, a = .tile ma → ∃ us sc, r.a = some (us, sc) ∧ ∀ i k, i < 32 → k < 32 →
           let L := fun i => lane 32 ((x.tile (s.tile5 ma)).getD i ⟨0, false⟩).data k
           let el := elemAt fmt (fun u => us.getD u 0) k i
           let blk := convertBlock (ovrEntry ovr (ovM8 s.sqr.ovf)) ((List.range 32).map (fun i => fpUnpack 23 (L i)))
           (fmt = .bf16 → el = (fpOut 7 ⟨.rne, false, ovrEntry ovr (ovBf16 s.sqr.ovf)⟩ (fpUnpack 23 (L i))).bits % 2 ^ 16) ∧
           (fmt = .i8 → (el : Int) = clampI 8 (slane 32 (L i)) % 256) ∧
           (fmt = .m8 → el = blk.codes.getD i 0 % 256 ∧ sc.getD k 0 = bv 8 (wrapInt 8 blk.scale))) ∧
         (mode = .ovw → r.acc = List.replicate 32 0) ∧
         (mode ≠ .ovw → x.core.lastM = none → r.acc = (x.tile (s.tile5 md)).map (·.data)) ∧
         (∀ c, mode ≠ .ovw → x.core.lastM = some c → c.md = (s.tile5 md).toNat → x.u < c.due → r.acc = c.rows.map (·.data)) ∧
         (∀ c, mode ≠ .ovw → x.core.lastM = some c → c.md ≠ (s.tile5 md).toNat ∨ c.due ≤ x.u →
           r.acc = (x.tile (s.tile5 md)).map (·.data)))) ∧
  (∀ (o : ColOut) (key : AgentKey) (serial : Nat) (l : Launch) (u c : Nat),
     let k := o.a.core c
     let bt := KV.getD o.a.beats (u - c) Beat.empty
     let k' := (o.column key serial l [] u c).a.core c
     (∀ w r, c ≤ u → KV.get? o.a.pipe (u - c) = some w → k.runs = [] → r.n = 0 → 1 < r.shape.1 →
       (columnWord w.ins ⟨o.a.copyScalars u c, key, serial, l, u, c, w, bt⟩).run = some r → k'.runs = [(r.advance bt).1]) ∧
     (∀ r, (c ≤ u → KV.get? o.a.pipe (u - c) = none) → k.runs = [r] →
       (r.n + 1 < r.shape.1 → k'.runs = [(r.advance bt).1]) ∧
       (r.n + 1 = r.shape.1 → k.landing = [] → r.acc.length = 32 → u + 1 < r.t + c + r.shape.2 →
         let f := (r.advance bt).1
         let due := r.t + c + r.shape.2
         k'.runs = [] ∧ k'.rows = k.rows ∧ k'.landing =
           (List.range 32).map (fun i => ⟨due, r.t, .row (32 * r.md + i) ⟨f.acc.getD i 0, f.pois⟩⟩) ++
             (if f.fl = 0 then [] else [⟨due, r.t, .flags f.fl⟩])))) ∧
  (∀ (s : State) (g : Guard) (md ma : BitVec 5), tilesIn s [md, ma] → s.myStrand.mat = true →
     coreDoes (.mzero g md) s g (fun _ _ e => e = { Eff.none with
       lands := (List.range 32).map (fun r => (2, .row (32 * (s.tile5 md).toNat + r) ⟨0, false⟩)), breaks := true }) ∧
     coreDoes (.mtrn g md ma) s g (fun _ x e => let T := x.tile (s.tile5 ma)
       ∃ d : Nat → BitVec 1024, e = { Eff.none with
         lands := (List.range 32).map (fun r => (8, .row (32 * (s.tile5 md).toNat + r) ⟨d r, T.any (·.pois)⟩)), breaks := true
         read := T.any (·.pois) } ∧
       ∀ i j, i < 32 → j < 32 → lane 32 (d i) j = lane 32 (T.getD j ⟨0, false⟩).data i))

/-- AN I8 PRODUCT IS EXACT (R101, R105, R141, R142, R146): whatever the operand form, four beats leave in every accumulator its
start value plus or minus the sum of the 32 products of row i of A and column j of B, wrapped to 32 bits, whatever order they
are taken, and raise no flag; scales and the overflow table play no part. AN M8 OR BF16 PRODUCT ROUNDS ONCE PER BEAT (R96, R105,
R141, R142, R146): each beat forms, for every accumulator, the exact sum of its 8 or 2 products, each element under the scale of
its block, and adds it to the accumulator or subtracts it with one FP32 rounding to nearest, never flushed, under the overflow
entry of the word; a zero sum is −0 only where every product is. NaN AND INFINITE ELEMENTS (R91): a NaN element, 0 × ∞ or
infinities of both signs leave the canonical NaN, invalid if signalling, 0 × ∞ or of both signs; else infinities are added as such. -/
def Obligations.IntegerProductsAreExact : Prop :=
  (∀ (r : MmaRun) (g : Guard) (mode : MMode) (tb : Bool) (ovr : MOvr) (md : BitVec 5) (a : MmaA) (sb : BitVec 4) (bd : BitVec 10)
    (bt : Nat → Beat), r.ins = .mma g .i8 mode tb ovr md a sb bd → r.n = 0 → r.acc.length = 32 →
    let byte := fun (u : BitVec 256) (i : Nat) => slane 8 (u.toNat / 2 ^ (8 * i) % 256)
    let A := fun i k => match r.a with
      | some o => byte (o.1.getD k 0) i
      | none => byte ((bt (k / 8)).slot (k % 8)) i
    let B := fun k j => if tb then byte (r.b.getD j 0) k else byte (r.b.getD k 0) j
    let r4 := (List.range 4).foldl (fun (q : MmaRun) b => (q.advance (bt b)).1) r
    r4.n = 4 ∧ r4.fl = r.fl ∧ ∀ i j, i < 32 → j < 32 →
      let S := sumTo 32 (fun k => A i k * B k j)
      (lane 32 (r4.acc.getD i 0) j : Int) = (lane 32 (r.acc.getD i 0) j + (if mode = .sub then -S else S)) % 2 ^ 32) ∧
  (∀ (r : MmaRun) (g : Guard) (fmt : MFmt) (mode : MMode) (tb : Bool) (ovr : MOvr) (md : BitVec 5) (a : MmaA) (sb : BitVec 4)
     (bd : BitVec 10) (bt : Beat), r.ins = .mma g fmt mode tb ovr md a sb bd → fmt ≠ .i8 → r.acc.length = 32 →
    let C := match fmt with | .bf16 => 2 | _ => 8
    let scaleB := fun (k : Nat) => bv 8 ((r.b.getD 32 0).toNat / 2 ^ (8 * k) % 256)
    -- element (i, k) of A and (k, j) of B, k counted within the chunk
    let A := fun i k => match r.a with
      | some o => elemFp fmt (elemAt fmt (fun u => o.1.getD u 0) (C * r.n + k) i) (o.2.getD (C * r.n + k) 0)
      | none => elemFp fmt (elemAt fmt bt.slot k i) (bt.scaleOf k)
    let B := fun k j => let e := elemAt fmt (fun u => r.b.getD u 0)
      if tb then elemFp fmt (e j (C * r.n + k)) (scaleB j) else elemFp fmt (e (C * r.n + k) j) (scaleB (C * r.n + k))
    let r' := (r.advance bt).1
    r'.n = r.n + 1 ∧ r'.b = r.b ∧ r'.a = r.a ∧ r'.acc.length = 32 ∧
    (r.pois = true → r'.pois = true) ∧
    let env : FEnv := ⟨.rne, false, ovrEntry ovr (ovF32 r.ovf)⟩
    ∀ i j, i < 32 → j < 32 →
     let zero := fun (v : Fp) => v.isFin = true ∧ v.scaled v.low = 0
     let inf := fun (v : Fp) => ∃ n, v = .inf n
     let zInf := fun k => inf (A i k) ∧ zero (B k j) ∨ zero (A i k) ∧ inf (B k j)
     let nanP := fun k => (A i k).isNan = true ∨ (B k j).isNan = true ∨ zInf k
     let infP := fun (n : Bool) => ∃ k, k < C ∧ ¬ nanP k ∧ (inf (A i k) ∨ inf (B k j)) ∧ n = ((A i k).minus ^^ (B k j).minus)
     ((∃ k, k < C ∧ nanP k) ∨ (infP true ∧ infP false) → lane 32 (r'.acc.getD i 0) j = fpNan 23) ∧
     ((∃ k, k < C ∧ ((A i k).isSig = true ∨ (B k j).isSig = true ∨ zInf k)) ∨ (infP true ∧ infP false) → r'.fl &&& fNv ≠ 0) ∧
     (∀ n, (∀ k, k < C → ¬ nanP k) → infP n → ¬ infP (!n) → lane 32 (r'.acc.getD i 0) j =
       (fpAdd 23 env (fpUnpack 23 (lane 32 (r.acc.getD i 0) j)) (.inf (n ^^ decide (mode = .sub)))).bits % 2 ^ 32) ∧
     ((∀ k, k < C → (A i k).isFin = true ∧ (B k j).isFin = true) →
      ∃ (n : Bool) (m : Nat) (lo : Int),
        (∀ k, k < C → (A i k).scaled (A i k).low * (B k j).scaled (B k j).low ≠ 0 → lo ≤ (A i k).low + (B k j).low) ∧
        (Fp.fin n m lo).scaled lo = sumTo C (fun k => (A i k).times lo (B k j)) ∧
        (m = 0 → (n = true ↔ ∀ k, k < C → (A i k).minus ≠ (B k j).minus ∧
          (A i k).scaled (A i k).low * (B k j).scaled (B k j).low = 0)) ∧
        lane 32 (r'.acc.getD i 0) j =
          (fpAdd 23 env (fpUnpack 23 (lane 32 (r.acc.getD i 0) j)) (.fin (n ^^ decide (mode = .sub)) m lo)).bits % 2 ^ 32))

/-! ## Issue checks, rounding, landing -/

/-- COMMANDS THAT DO NOT ISSUE (R57, R78, R185, R220): inside a replayable phase SEND, XWR, XAT, RECV, RCANCEL and every atomic
are illegal words; LDS and an atomic without room in the result queue stall; KBLD beyond the bank and AROW of a row beyond the
window are window violations. ISSUE CHECKS OF CORE WORDS (R57, R145, R150, R285): of every word with rows, tiles, a bank word or folio runs the first
operand beyond its window is a window violation, whatever the guard (that it is the first in the order of the operands is a reading by
inference, log 45); each of MMA, MZERO and MTRN without the attribute is a matrix fault; an MMA while the array is occupied is an
illegal word. -/
def Obligations.ChecksBeforeIssueAreTaken : Prop :=
  (∀ s : State, s.sqr.bad = false → s.myStrand.st ≠ .frozen →
     (s.me.swap.isSome = true → (∀ (a : Atom) (m : Xmsg) (d : RDst) (tag : BitVec 4), ∀ i ∈ [Instr.send m, .xwr m, .xat m, .recv d tag,
         .rcancel d tag, .atadd a, .atcas a, .atxch a, .atmax a, .atmin a, .atand a, .ator a, .atfadd a],
       goes i s (fun t => faults s t s.idx 1 14))) ∧
     (∀ q7 xa imm, 16 ≤ (s.me.q.res (if q7 then 7 else 6)).items.length + (s.me.q.res (if q7 then 7 else 6)).resv +
         (s.me.q.res (if q7 then 7 else 6)).kept → goes (.lds q7 xa imm) s (fun t => stalls s t)) ∧
     (∀ (a : Atom) i, i ∈ [Instr.atadd a, .atcas a, .atxch a, .atmax a, .atmin a, .atand a, .ator a, .atfadd a] →
       s.me.swap = none →
       16 < (s.me.q.res (if a.rq then 7 else 6)).items.length + (s.me.q.res (if a.rq then 7 else 6)).resv +
         (s.me.q.res (if a.rq then 7 else 6)).kept + (if a.wid = .w128 then 2 else 1) → goes i s (fun t =>
         stalls s t)) ∧
     (∀ n set f, s.myStrand.l.nkb ≤ n.toNat + f.nm1.toNat → goes (.kbld n set f) s (fun t => faults s t s.idx 2 4)) ∧
     (∀ ad col v quad tok, s.myStrand.l.nrows ≤ s.sqr.rowIndex v.toNat →
       goes (.arow ad col v quad tok) s (fun t => faults s t s.idx 2 1))) ∧
  (∀ (s : State) (g : Guard), s.sqr.bad = false →
     -- the first operand of a word that lies beyond its window
     let busy := fun (i : Instr) => match i with | .mma .. => s.t < s.sqr.mmaFree | _ => False
     (∀ i b u l, usesOf i = b ++ u :: l → (∀ v ∈ b, v.inside s) → ¬ u.inside s → ¬ busy i →
       goes i s (fun t => faults s t s.idx 2 u.cause)) ∧
     (∀ i, isMatrix i = true → ¬ busy i → (∀ u ∈ usesOf i, u.inside s) → s.myStrand.mat = false →
       goes i s (fun t => faults s t s.idx 8 0)) ∧
     (∀ fmt mode tb ovr md a sb bd, s.t < s.sqr.mmaFree →
       goes (.mma g fmt mode tb ovr md a sb bd) s (fun t => faults s t s.idx 1 13)))

/-- ROUNDING (R92): m / 2^sh goes to a neighbouring integer: to nearest with ties to even, toward zero, down, up, or to nearest
with ties away from zero; it is inexact exactly if something is dropped. A number m · 2^e rounded to a multiple of 2^u is exact
where it is one, else it rounds so. -/
def Obligations.RoundingGoesToTheRightNeighbour : Prop :=
  ∀ (neg : Bool) (m sh : Nat),
    let d := 2 ^ sh
    let q := fun (rm : RMode) => (roundShift rm neg m sh).1
    (∀ rm, ((roundShift rm neg m sh).2 = true ↔ m % d ≠ 0) ∧ (q rm = m / d ∨ (q rm = m / d + 1 ∧ m % d ≠ 0))) ∧
    q .rtz = m / d ∧ (m % d ≠ 0 → (q .rdn = m / d ↔ neg = false) ∧ (q .rup = m / d ↔ neg = true)) ∧
    (2 * (m % d) < d → q .rne = m / d ∧ q .rna = m / d) ∧ (d < 2 * (m % d) → q .rne = m / d + 1 ∧ q .rna = m / d + 1) ∧
    (2 * (m % d) = d → q .rne % 2 = 0 ∧ q .rna = m / d + 1) ∧
    ∀ (rm : RMode) (e u : Int), (u ≤ e → roundTo rm neg m e u = (m * 2 ^ (e - u).toNat, false)) ∧
      (e < u → (u - e).toNat = sh → roundTo rm neg m e u = roundShift rm neg m sh)

/-- A VALUE OF A FORMAT ROUNDS TO ITSELF (R90, R92, R93): delivering the value of FP32 or BF16 bits that are no NaN gives those
bits and no flag in every mode, save that fz replaces a subnormal by a zero of its sign with uf and ix. ARITHMETIC IS THE EXACT
RESULT ROUNDED ONCE (R91, R92, R121): the sum, the product and the fused multiply-add of numbers deliver the one number that is
their exact sum, product, or product plus addend, a zero sum with the sign IEEE 754 prescribes; NaNs, 0 × ∞ and ∞ − ∞ give the
canonical NaN. ONE ROUNDING (R92, R93, R95): the bits delivered for a nonzero number are the multiple of the unit of its last
place, or of the smallest subnormal, that it rounds to, with ix where inexact and uf where also tiny; beyond the largest number the
overflow entry decides, with of and ix; a tiny result is a zero of its sign under fz, with uf and ix. -/
def Obligations.FormatValuesRoundToThemselves : Prop :=
  (∀ (f x : Nat) (env : FEnv), f = 23 ∨ f = 7 → x < 2 ^ (f + 9) → (fpUnpack f x).isNan = false →
    let tiny := x / 2 ^ f % 256 = 0 ∧ x % 2 ^ f ≠ 0
    (¬ (env.fz = true ∧ tiny) → fpOut f env (fpUnpack f x) = .exact x) ∧
    (env.fz = true → tiny → fpOut f env (fpUnpack f x) = ⟨fpSign f (x.testBit (f + 8)), fUf ||| fIx, false⟩)) ∧
  (∀ (f : Nat) (env : FEnv) (a b c : Fp),
    let nan := fun (sig : Bool) => (⟨fpNan f, if sig then fNv else 0, false⟩ : Res)
    (a.isFin = true → b.isFin = true →
      (∃ v, v.isFin = true ∧ fpAdd f env a b = fpOut f env v ∧
        (∀ lo, lo ≤ a.low → lo ≤ b.low → lo ≤ v.low ∧ v.scaled lo = a.scaled lo + b.scaled lo) ∧
        (v.scaled v.low = 0 → v.minus = if a.scaled a.low = 0 ∧ a.minus = b.minus then a.minus else decide (env.rm = .rdn))) ∧
      (∃ v, v.isFin = true ∧ fpMul f env a b = fpOut f env v ∧ v.low = a.low + b.low ∧ v.minus = (a.minus ^^ b.minus) ∧
        v.scaled v.low = a.scaled a.low * b.scaled b.low) ∧
      ∀ neg, c.isFin = true → ∃ v, v.isFin = true ∧ fpFused f env neg a b c = fpOut f env v ∧
        (∀ lo, lo ≤ a.low + b.low → lo ≤ c.low →
          lo ≤ v.low ∧ v.scaled lo = (if neg then -1 else 1) * a.times lo b + c.scaled lo) ∧
        (v.scaled v.low = 0 → v.minus = if a.scaled a.low * b.scaled b.low = 0 ∧ (a.minus ^^ b.minus ^^ neg) = c.minus
          then c.minus else decide (env.rm = .rdn))) ∧
    (a.isNan = true ∨ b.isNan = true → fpAdd f env a b = nan (a.isSig || b.isSig) ∧ fpMul f env a b = nan (a.isSig || b.isSig)) ∧
    (∀ n, a = .inf n → (fpAdd f env a (.inf n) = .exact (fpInf f n) ∧ fpAdd f env a (.inf (!n)) = nan true) ∧
      (b.isFin = true → fpAdd f env a b = .exact (fpInf f n) ∧ fpAdd f env b a = .exact (fpInf f n) ∧
        (b.scaled b.low = 0 → fpMul f env a b = nan true ∧ fpMul f env b a = nan true) ∧
        (b.scaled b.low ≠ 0 → fpMul f env a b = .exact (fpInf f (n ^^ b.minus)))) ∧
      ∀ k, fpMul f env a (.inf k) = .exact (fpInf f (n ^^ k))) ∧
    ∀ neg,
      (a.isNan = true ∨ b.isNan = true → fpFused f env neg a b c = nan (a.isSig || b.isSig || c.isSig)) ∧
      (a.isFin = true → b.isFin = true → (c.isNan = true → fpFused f env neg a b c = nan c.isSig) ∧
        ∀ k, c = .inf k → fpFused f env neg a b c = .exact (fpInf f k)) ∧
      (∀ n r, r = fpFused f env neg (.inf n) b c ∨ r = fpFused f env neg b (.inf n) c →
        (b.isFin = true → b.scaled b.low = 0 → r = nan true) ∧
        (b.isNan = false → ¬ (b.isFin = true ∧ b.scaled b.low = 0) →
          let p := n ^^ b.minus ^^ neg
          (c.isNan = true → r = nan c.isSig) ∧ (c.isFin = true ∨ c = .inf p → r = .exact (fpInf f p)) ∧
          (c = .inf (!p) → r = nan true)))) ∧
  (∀ (f : Nat) (env : FEnv) (neg : Bool) (m : Nat) (e : Int), f = 23 ∨ f = 7 → 0 < m →
    let r := fpOut f env (.fin neg m e)
    let top : Int := (Nat.log2 m : Int) + e
    -- the exponent after rounding to f fraction bits with no lower bound
    let top' : Int := if 2 ^ (f + 1) ≤ (roundTo env.rm neg m e (top - f)).1 then top + 1 else top
    let u : Int := max (top - f) (-126 - (f : Int))
    let q := roundTo env.rm neg m e u
    let isFlag := fun (b : BitVec 5) (c : Prop) => (r.fl &&& b ≠ 0 ↔ c)
    (top' ≤ 127 → ¬ (env.fz = true ∧ top' < -126) → r.pois = false ∧ r.bits < 2 ^ (f + 9) ∧
      (fpUnpack f r.bits).isFin = true ∧ u ≤ (fpUnpack f r.bits).low ∧ (fpUnpack f r.bits).minus = neg ∧
      (fpUnpack f r.bits).scaled u = (if neg then -1 else 1) * (q.1 : Int) ∧
      isFlag fIx (q.2 = true) ∧ isFlag fUf (q.2 = true ∧ top' < -126) ∧ isFlag fOf False ∧ isFlag fNv False ∧ isFlag fDz False) ∧
    (top' < -126 → env.fz = true → r = ⟨fpSign f neg, fUf ||| fIx, false⟩) ∧
    (127 < top' → r.fl = fOf ||| fIx ∧ (r.pois = true ↔ env.ent = .poison) ∧
      (env.ent = .largest ∨ env.ent = .poison → r.bits = fpMax f neg) ∧ (env.ent = .nan → r.bits = fpNan f) ∧
      (env.ent = .infinity → r.bits = if env.rm = .rtz ∨ (env.rm = .rdn ∧ neg = false) ∨ (env.rm = .rup ∧ neg = true) then fpMax f neg
        else fpInf f neg)))

/-- SEQUENCER RESULTS LAND (R12, R13, R14, R23, R68): when the strand cycle closes, a pending x result is what xd reads unless
xd is x0, which reads zero; every other register reads as before; pending fpc, overflow table, rotation, column set, code rate
and agent register results are in force. A COLUMN EXECUTES (R19–R21): in strand cycle u column c executes the pipe word issued at u − c;
its results wait to land at u + L, and what it sends east replaces beat u − c, which column c+1 finds at u+1. THE ORDER OF LANDING
(R22, R116): results wait in issue order, a later word's after an earlier one's, so that of two results due together at one
place the later-issued is what stays and what every CORE word then reads (R29); the clearing of fst comes before the flags; a
result that waits leaves the rest of the buffer as it was. -/
def Obligations.ResultsLandInOrder : Prop :=
  (∀ (a : Agent) (t key : Nat),
     (∀ d v r, a.sqr.pend = [.x d v] → (a.landAll t key).sqr.xr r = if r = 0 then 0 else if r = d then v else a.sqr.xr r) ∧
     (∀ d v, a.sqr.pend = [.x d v] → (a.landAll t key).cores = a.cores ∧ (a.landAll t key).q = a.q ∧ (a.landAll t key).a = a.a ∧
       (a.landAll t key).sqr.pend = []) ∧
     (∀ v, a.sqr.pend = [.fpc v] → (a.landAll t key).sqr.fpc = v ∧ (a.landAll t key).sqr.x = a.sqr.x) ∧
     (∀ v, a.sqr.pend = [.ovf v] → (a.landAll t key).sqr.ovf = v ∧ (a.landAll t key).sqr.x = a.sqr.x) ∧
     (∀ rs ts, a.sqr.pend = [.rot rs ts] →
       (a.landAll t key).sqr.rowsz = rs ∧ (a.landAll t key).sqr.tilesz = ts ∧ (a.landAll t key).sqr.vrot = 0 ∧
       (a.landAll t key).sqr.mrot = 0) ∧
     (∀ r c j, a.sqr.pend = [.colset r c] →
       (a.landAll t key).colset[BitVec.toFin j] = if j = r then c else a.colset[BitVec.toFin j]) ∧
     (∀ r c j, a.sqr.pend = [.crt r c] → (a.landAll t key).crt[BitVec.toFin j] = if j = r then c else a.crt[BitVec.toFin j]) ∧
     (∀ r v j, a.sqr.pend = [.a r v] → (a.landAll t key).ar j = if j = r then v else a.ar j)) ∧
  (∀ (l : List Landing) (n : Landing), l.Pairwise (fun a b => a.issued ≤ b.issued) →
     (insertLanding n l).Pairwise (fun a b => a.issued ≤ b.issued) ∧ (insertLanding n l).Perm (n :: l) ∧
     (∀ a ∈ l, a.issued ≤ n.issued → ∃ p q, insertLanding n l = p ++ n :: q ∧ a ∈ p) ∧
     (∀ a ∈ l, n.issued < a.issued → ∃ p q, insertLanding n l = p ++ n :: q ∧ a ∈ q)) ∧
  (∀ (a : Agent) (serial row c d : Nat),
     let k := a.core c
     let due := k.landing.filter (fun n => decide (n.due ≤ d))
     let b := a.landDue serial row c d
     let k' := b.core c
     (∀ j, j ≠ c → b.core j = a.core j) ∧ k'.landing = k.landing.filter (fun n => decide (d < n.due)) ∧ k'.runs = k.runs ∧
     b.pipe = a.pipe ∧ b.beats = a.beats ∧ b.q = a.q ∧ b.a = a.a ∧ b.sqr = a.sqr ∧ b.b = a.b ∧
     -- the last result due at a place stays
     (∀ p n l, due = p ++ n :: l →
       (∀ i v, n.what = .row i v → (∀ m ∈ l, ∀ w, m.what ≠ .row i w) → KV.get? k'.rows i = some v ∧
         ∀ t, b.coreRead serial row c t (.row i) = ⟨v.data, v.pois⟩) ∧
       (∀ i v, n.what = .unit i v → (∀ m ∈ l, ∀ w, m.what ≠ .unit i w) → KV.get? k'.units i = some v ∧
         ∀ t, b.coreRead serial row c t (.unit i) = ⟨v.data.setWidth 1024, v.pois⟩) ∧
       (∀ i v, n.what = .sreg i v → (∀ m ∈ l, ∀ w, m.what ≠ .sreg i w) → k'.s[BitVec.toFin i] = v) ∧
       (∀ i v, n.what = .pred i v → 8 ≤ i.toNat → (∀ m ∈ l, ∀ j w, m.what = .pred j w → 8 ≤ j.toNat ∧ j ≠ i) →
         k'.p.getLsbD (i.toNat - 8) = v)) ∧
     -- and nothing else of the core changes
     (∀ i, (∀ n ∈ due, ∀ v, n.what ≠ .row i v) → KV.get? k'.rows i = KV.get? k.rows i) ∧
     (∀ i, (∀ n ∈ due, ∀ v, n.what ≠ .unit i v) → KV.get? k'.units i = KV.get? k.units i) ∧
     (∀ i, (∀ n ∈ due, ∀ v, n.what ≠ .sreg i v) → k'.s[BitVec.toFin i] = k.s[BitVec.toFin i]) ∧
     ((∀ n ∈ due, ∀ i v, n.what ≠ .pred i v) → k'.p = k.p) ∧ k'.kb = k.kb ∧
     k'.fst = due.foldl (fun f n => match n.what with | .flags g => f ||| g | _ => f)
       (if due.any (fun n => n.what == .clearFst) then 0 else k.fst)) ∧
  (∀ (o : ColOut) (key : AgentKey) (serial : Nat) (l : Launch) (phys : List Phys) (u c : Nat) (w : PipeWord),
     c ≤ u → KV.get? o.a.pipe (u - c) = some w →
     let a := o.a.copyScalars u c
     let k := a.core c
     let e := columnWord w.ins ⟨a, key, serial, l, u, c, w, KV.getD a.beats (u - c) Beat.empty⟩
     k.runs = [] → e.run = none →
     let a1 := a.setCore c { k with
       lastM := if e.breaks then none else k.lastM
       landing := (e.lands.map (fun n => (⟨u + n.1, u - c, n.2⟩ : Landing))).foldl (fun l n => insertLanding n l) k.landing }
     (o.column key serial l phys u c).a = ({ a1 with
       beats := match e.beat with | some v => KV.put a1.beats (u - c) v | none => a1.beats } : Agent).landDue serial key.row c (u + 1))

/-! ## Memory, tensors, the weave -/

/-- A WRITE STEP (R200): a write step by agent X of word a with value v sets B_X(a) ← v and changes neither G nor any view; a
later write of the same word by the same agent replaces the value in B_X. -/
def Obligations.WriteStepsGoToTheBuffer : Prop :=
  ∀ (s : State) (k : AgentKey) (a : Nat) (w w' : Word) (p p' : Bool) (n n' : Nat),
    let t := s.memWrite k a w p n
    KV.get? (t.agent k).b a = some (w, p) ∧ (∀ x, x ≠ a → KV.get? (t.agent k).b x = KV.get? (s.agent k).b x) ∧ t.mem = s.mem ∧
    (∀ j, (t.agent j).v = (s.agent j).v) ∧ (∀ j, j ≠ k → t.agent j = s.agent j) ∧
    KV.get? ((t.memWrite k a w' p' n').agent k).b a = some (w', p')

/-- READ STEPS (R199): a word of the agent's own buffer reads as the buffer holds it; any other reads as the view has it or as
another agent's or a committed write since the view, with the poison that its line took since (R197); reading changes no memory where
no line has an error. A read that finds the line of the word uncorrectable delivers the bits stored there, with poison (R224). -/
def Obligations.ReadStepsReadBufferOrRaceSet : Prop :=
  ∀ (s : State) (k : AgentKey) (a : Nat),
    (∀ v, KV.get? (s.agent k).b a = some v → s.memRead k a = (v, s)) ∧
    (KV.get? (s.agent k).b a = none → s.lineLost a = true →
      (s.memRead k a).1 = ((s.memRead k a).2.mem.word a, true) ∧ (s.memRead k a).2.mem.poisAt a = true) ∧
    (KV.get? (s.agent k).b a = none → s.phys = [] →
      ((s.memRead k a).1 = ((s.agent k).v.mem.word a, (s.agent k).v.mem.poisAt a) ∨
        ∃ e ∈ s.wlog.take (s.wlog.length - (s.agent k).v.at_), e.wa = a ∧ e.by_ ≠ some k ∧ (s.memRead k a).1 = (e.val, e.pois) ∧
          -- a line that only changed its poison gives no value that nobody wrote
          ∃ f ∈ s.wlog.take (s.wlog.length - (s.agent k).v.at_), f.wa = a ∧ f.by_ ≠ some k ∧ f.echo = false ∧ f.val = e.val) ∧
      (s.memRead k a).2 = { s with fresh := s.fresh + 1 })

/-- A DEVICE-SCOPE PHASE STEP (R197, R202): every word of the buffer enters memory, every other byte stays; a line with a
poisoned word is poisoned, a line written whole and clean is clean, any other keeps its bit; the buffer is empty and the view is
memory just after. -/
def Obligations.PhaseStepsCommitTheBuffer : Prop :=
  ∀ (s : State) (k : AgentKey), s.phys = [] → s.memOk → ((s.agent k).b.map (·.1)).Nodup → (∀ e ∈ (s.agent k).b, e.1 % 8 = 0) →
    let B := (s.agent k).b
    let t := s.phaseStep k
    (∀ a w p, KV.get? B a = some (w, p) → t.mem.word a = w) ∧
    (∀ x, (∀ e ∈ B, x < e.1 ∨ e.1 + 8 ≤ x) → t.mem.byte x = s.mem.byte x) ∧
    (∀ n, t.mem.poisAt (64 * n) = true ↔ (∃ e ∈ B, e.1 / 64 = n ∧ e.2.2 = true) ∨
      (s.mem.poisAt (64 * n) = true ∧ ¬ ∀ i, i < 8 → ∃ e ∈ B, e.1 = 64 * n + 8 * i)) ∧
    (t.agent k).b = [] ∧ (t.agent k).v.mem = t.mem ∧ (t.agent k).v.at_ = t.wlog.length ∧ (∀ j, j ≠ k → t.agent j = s.agent j) ∧
    t.strands = s.strands ∧ t.fab = s.fab ∧ t.memOk

/-- TILE NUMBERS (R226): in each of the four layouts two places of one tensor never share a tile number. STAGE 2 (R230): a valid entry
whose frame lies in the partition's channel groups names it (the group of a frame is the model's choice, log 20; an entry with a bit that
must be 0 set is none, log 89). A WALK (R229,
R231) asks for the table's frame, checks the entry in the order of R229, then is remote, asks for the data frame, or ends in a
machine frame. TRANSLATION (R231, R232): a tensor homed elsewhere is remote; one command, or load, keeps to what it used for a frame; else a
cached answer or a walk. WHERE A PLACE LIES (R226, R227): a flat range in the frames it meets, a tile at its place in its frame with
the M8 scale plane; what lies beyond the tensor is fault 0x06. HOST STEPS find a td0 offset so (R209). -/
def Obligations.TileNumbersAreDistinct : Prop :=
  (∀ (d : Desc) (c c' : Word), dOk d = true → dFlat d = false → inTensor d c = true → inTensor d c' = true →
     tileNumber d c = tileNumber d c' → c = c') ∧
  (∀ (s : State) (p gfn : Nat),
     let e := (KV.getD s.fmaps (p, gfn) 0).toNat
     let m := e % 2 ^ 23
     let valid := e / 2 ^ 31 = 1 ∧ e / 2 ^ 23 % 2 ^ 7 = 0 ∧ m < 8 * 761856 ∧ (s.part p).lay.cgmask.getLsbD (m / 761856) = true
     (valid → s.stage2 p gfn = some (m, decide (e / 2 ^ 30 % 2 = 1))) ∧ (¬ valid → s.stage2 p gfn = none)) ∧
  (∀ (s : State) (p : Nat) (d : Desc) (entry : Nat) (wr : Bool), s.phys = [] →
     let g := dTtb d * 65536 + 16 * entry
     let r := s.walk p d entry wr
     r.2 = s ∧ (s.stage2 p (g / 65536) = none → r.1.1 = .page 1 (g / 65536)) ∧
     ∀ mf w, s.stage2 p (g / 65536) = some (mf, w) →
       let f := fun (hi lo : Nat) => s.mem.num (mf * 65536 + g % 65536) 16 / 2 ^ lo % 2 ^ (hi + 1 - lo)
       let present := f 0 0 = 1 ∧ f 127 96 = 0 ∧ f 40 9 = 0
       let right := f 8 5 = dFmt d ∧ f 4 4 = dGeo d
       (¬ present → r.1.1 = .fault 8) ∧ (present → ¬ right → r.1.1 = .fault 4) ∧
       (present → right → wr = true → f 1 1 = 0 → r.1.1 = .fault 8) ∧
       (present → right → (wr = true → f 1 1 = 1) →
         (f 2 2 = 1 → r.1.1 = .remote (f 63 44) (f 43 41) (decide (f 3 3 = 1))) ∧
         (f 2 2 = 0 → (s.stage2 p (f 95 64) = none → r.1.1 = .page 0 (f 95 64)) ∧
           ∀ m w, s.stage2 p (f 95 64) = some (m, w) →
             r.1.1 = if wr = true ∧ w = false then .page 2 (f 95 64) else .ok m))) ∧
  (∀ (s : State) (k : AgentKey) (u : By) (slot : Nat) (d : Desc) (entry : Nat) (wr : Bool), s.phys = [] →
     let r := s.translate k u slot d entry wr
     let walk := (s.walk k.part d entry wr).1.1
     let cached := (KV.get? (s.agent k).tcache (slot, entry)).bind (fun t => t.use d wr)
     (dHrem d = true → r = (.remote (dHep d) (dHpart d) false, s)) ∧
     (dHrem d = false → (u = .unit → r = (walk, s)) ∧
       (u ≠ .unit → ∀ w, (s.agent k).frameUsed u entry = some w → r = (w, s)) ∧
       (u ≠ .unit → (s.agent k).frameUsed u entry = none → r.2.mem = s.mem ∧ (r.1 = walk ∨ cached = some r.1) ∧
         (∀ m, r.1 = .ok m → u = .agen → (s.agent k).acmds ≠ [] → (r.2.agent k).frameUsed u entry = some (.ok m))))) ∧
  (∀ (s : State) (k : AgentKey) (u : By) (slot : Nat) (d : Desc) (wr : Bool) (x n : Nat),
     let r := s.flatLoc k u slot d x n wr
     let t := s.translate k u slot d (x / 65536) wr
     (dSize d < x + n → r = (.fault 6, s)) ∧
     (x + n ≤ dSize d → 0 < n →
       (∀ e, t.1 = .fault e → r = (.fault e, t.2)) ∧ (∀ q g, t.1 = .page q g → r = (.page q g, t.2)) ∧
       (∀ e p m, t.1 = .remote e p m → r = (.remote e p m, t.2)) ∧
       ∀ m, t.1 = .ok m →
         let o := x % 65536
         (o + n ≤ 65536 → r = (.runs [(m * 65536 + o, n)], t.2)) ∧
         (65536 < o + n → o + n ≤ 131072 →
           let v := t.2.translate k u slot d (x / 65536 + 1) wr
           (∀ m', v.1 = .ok m' → r = (.runs [(m * 65536 + o, 65536 - o), (m' * 65536, o + n - 65536)], v.2)) ∧
           (∀ e, v.1 = .fault e → r = (.fault e, v.2)) ∧ (∀ q g, v.1 = .page q g → r = (.page q g, v.2)) ∧
           ∀ e p m', v.1 = .remote e p m' → r = (.remote e p m', v.2)))) ∧
  (∀ (s : State) (k : AgentKey) (u : By) (slot : Nat) (d : Desc) (c : Word) (wr : Bool), dFmt d < 6 →
     let r := s.tileLoc k u slot d c wr
     let n := [16, 16, 32, 32, 62, 64].getD (dFmt d) 0
     let b := [4096, 4096, 2048, 2048, 1024, 1024].getD (dFmt d) 0
     let T := tileNumber d c
     let t := s.translate k u slot d (T / n) wr
     ((∃ j : BitVec 2, dDim d j.toNat ≤ (fieldOf c j).toNat) → r = (.fault 6, s)) ∧
     ((∀ j : BitVec 2, (fieldOf c j).toNat < dDim d j.toNat) →
       (∀ e, t.1 = .fault e → r = (.fault e, t.2)) ∧ (∀ q g, t.1 = .page q g → r = (.page q g, t.2)) ∧
       (∀ e p m, t.1 = .remote e p m → r = (.remote e p m, t.2)) ∧
       ∀ m, t.1 = .ok m → r = (.runs ((m * 65536 + b * (T % n), b) ::
         if dFmt d = 4 then [(m * 65536 + 63488 + 32 * (T % n), 32)] else []), t.2))) ∧
  (∀ (s : State) (p : Nat) (d : Desc) (x : Nat), s.phys = [] →
     (dSize d ≤ x → (s.td0Addr p d x).1 = none) ∧
     (x < dSize d → (∀ m, (s.walk p d (x / 65536) false).1.1 = .ok m → (s.td0Addr p d x).1 = some (m * 65536 + x % 65536)) ∧
       ((∀ m, (s.walk p d (x / 65536) false).1.1 ≠ .ok m) → (s.td0Addr p d x).1 = none)))

/-- COLLISION (R246): two strands collide exactly when their entry sets meet. -/
def Obligations.StrandsCollideExactlyWhenEntriesMeet : Prop :=
  ∀ (i j p q : Nat), p < 2 ^ i → q < 2 ^ j →
    (collide (2 ^ i, p) (2 ^ j, q) = true ↔ ∃ e, e % 2 ^ i = p ∧ e % 2 ^ j = q)

/-! ## Strand cycles and the weaver -/

/-- STRAND CYCLES (R8, R10, R11, R19–R23, R30–R32): a running strand's cycle opens with its agents kept as they stand; when its
words have issued, with no fault, stall, YIELD, PHASE or replayable phase, every column of every row executes, the pending
results land, what has left the pipe and the row is dropped, and the clock advances by one; after a fault or a stall every agent
is as it was kept and the clock stands, and a re-phase that is pending makes its cut there, as it does where every row has halted (R250). -/
def Obligations.StrandCyclesAdvanceOrAreUndone : Prop :=
  ∀ (s : State) (k : StrandKey), s.phys = [] →
    (s.cyc = none → (s.strand k).st = .running → (s.strand k).replay = none → (∀ a ∈ s.agentsOf k, (s.agent a).sqr.phase = none) →
      (s.strand k).rpp = false ∨ (s.strand k).cutDone = true ∨ s.rowsHalted k = false → goes (.strandCycle k) s (fun t =>
      t.cyc = some ⟨k, s.rows k.part, false⟩ ∧ (t.strand k).base = (s.agentsOf k).map (fun a => (a, s.agent a)) ∧
      (t.strand k).st = .running ∧ (t.strand k).stime = (s.strand k).stime ∧
      (∀ a ∈ s.agentsOf k, t.agent a = { s.agent a with sqr := { (s.agent a).sqr with bad := false } }) ∧
      (∀ a, a ∉ s.agentsOf k → t.agent a = s.agent a) ∧ t.mem = s.mem ∧ t.fab = s.fab ∧ t.now = s.now)) ∧
    (∀ c, s.cyc = some c → c.key = k → (s.strand k).st = .running →
      (∀ a ∈ s.agentsOf k, (s.agent a).swap = none ∧ (s.agent a).sqr.yield = none ∧ (s.agent a).sqr.phase = none) →
      goes (.strandCycle k) s (fun t =>
        let x := s.strand k
        let u := x.stime
        t.cyc = none ∧ (t.strand k).stime = u + 1 ∧ (t.strand k).base = [] ∧
        -- rows that have all halted now are the point of a re-phase that is pending
        (t.strand k).st = (if x.rpp = true ∧ x.cutDone = false ∧ t.rowsHalted k = true then .rephasing else .running) ∧
        (∀ a ∈ s.agentsOf k, (t.agent a).sqr.pend = [] ∧
          ∃ key, t.agent a = ((((s.agent a).columns a x.serial x.l [] u).a.landAll u key).age u).pruneRecent u) ∧
        (∀ a, a ∉ s.agentsOf k → t.agent a = s.agent a) ∧ (∀ j, j ≠ k → t.strand j = s.strand j) ∧
        t.mem = s.mem ∧ t.fab = s.fab ∧ t.now = s.now)) ∧
    (∀ c, s.cyc = some c → c.key = k → (s.strand k).st = .frozen ∨ ((s.strand k).st = .stalled ∧ (s.strand k).atEntry = 0) →
      ((s.strand k).base.map (·.1)).Nodup →
      goes (.strandCycle k) s (fun t => t.cyc = none ∧ (t.strand k).stime = (s.strand k).stime ∧
        ((s.strand k).rpp = false ∨ (s.strand k).cutDone = true → (t.strand k).st = (s.strand k).st) ∧
        ((s.strand k).rpp = true → (s.strand k).cutDone = false → (t.strand k).st = .rephasing ∧ (t.strand k).left = (s.strand k).st ∧
          (t.strand k).cutDone = true) ∧
        (∀ e ∈ (s.strand k).base, t.agent e.1 = e.2) ∧ (∀ a, a ∉ (s.strand k).base.map (·.1) → t.agent a = s.agent a) ∧
        (∀ j, j ≠ k → t.strand j = s.strand j) ∧ t.mem = s.mem ∧ t.fab = s.fab))

/-- STALL RELEASE AND REPLAY RESTART (R79, R203, R221, R222, R245, R248): at an owned entry a stalled strand whose phases need not
wait takes them and tries its strand cycle in full, and one with a phase that must wait stays stalled; a strand that waits to
replay restores its agents from their copies once its engines are idle, and runs, or is cancelled with the third retry. What a
stall undoes and what a copy holds is read by inference (log 40, log 46); that the cancel is recorded with cause 8 and level 3 is the model's
choice (log 88). -/
def Obligations.StalledStrandsTryAgain : Prop :=
  ∀ (s : State) (k : StrandKey), s.phys = [] → (s.strand k).st = .stalled → s.cyc = none →
    ((s.strand k).replay = none → (∀ a ∈ s.agentsOf k, (s.agent a).sqr.phase = none) → goes (.stallRelease k) s (fun t =>
      t.cyc = some ⟨k, s.rows k.part, false⟩ ∧ (t.strand k).st = .running ∧ (t.strand k).stime = (s.strand k).stime ∧
      (t.strand k).base = (s.agentsOf k).map (fun a => (a, s.agent a)) ∧ t.mem = s.mem ∧ t.fab = s.fab)) ∧
    ((s.strand k).replay = none → (∀ a ∈ s.agentsOf k, ∀ p, (s.agent a).sqr.phase = some p → p.fabric = false ∧
        (p.wait = false ∨ (p.aSeq ≤ (s.agent a).tca ∧ p.xSeq ≤ (s.agent a).tcx))) → goes (.stallRelease k) s (fun t =>
      t.cyc = some ⟨k, s.rows k.part, false⟩ ∧ (t.strand k).st = .running ∧ (t.strand k).stime = (s.strand k).stime ∧
      (∀ a ∈ s.agentsOf k, (t.agent a).sqr.phase = none ∧
        (t.agent a).b = if (s.agent a).sqr.phase.isSome then [] else (s.agent a).b) ∧
      t.mem = ((s.agentsOf k).foldl (fun u a => if (s.agent a).sqr.phase.isSome then u.phaseStep a else u) s).mem)) ∧
    ((s.strand k).replay = none → (s.strand k).atEntry = 0 → (s.strand k).rpp = false ∨ (s.strand k).cutDone = true →
      (∃ a ∈ s.agentsOf k, ∃ p, (s.agent a).sqr.phase = some p ∧ p.wait = true ∧ (s.agent a).tca < p.aSeq) →
      goes (.stallRelease k) s (fun t => (t.strand k).st = .stalled ∧ (t.strand k).stime = (s.strand k).stime ∧ t.cyc = none ∧
        ∀ a ∈ s.agentsOf k, ∀ p, (s.agent a).sqr.phase = some p → p.wait = true → (s.agent a).tca < p.aSeq → t.agent a = s.agent a)) ∧
    (∀ T, (s.strand k).replay = some T → (∀ a ∈ s.agentsOf k, (s.agent a).idleEngines = true) →
      ((∀ a ∈ s.agentsOf k, ∀ w, (s.agent a).swap = some w → w.retry < 2) →
        goes (.replayRestart k) s (fun t => (t.strand k).st = .running ∧ (t.strand k).replay = none ∧
          (t.strand k).stime = (s.strand k).stime ∧ t.mem = s.mem ∧ t.fab = s.fab ∧
          (∀ a ∈ s.agentsOf k, ∀ w, (s.agent a).swap = some w → t.agent a = (s.agent a).rewind { w with retry := w.retry + 1 } T) ∧
          (∀ a ∈ s.agentsOf k, (s.agent a).swap = none → t.agent a = s.agent a))) ∧
      ((∃ a ∈ s.agentsOf k, ∃ w, (s.agent a).swap = some w ∧ 2 ≤ w.retry) → (s.part k.part).move = none →
        goes (.replayRestart k) s (fun t => (t.strand k).st = .halted ∧ (t.strand k).cancelled = some 3 ∧
          (∃ r ∈ (t.strand k).recs, r.kind = 13 ∧ r.cause = 3 ∧ r.stc = bv 64 T) ∧
          (∃ r ∈ (t.strand k).recs, r.kind = 13 ∧ r.cause = 8 ∧ r.aux = 3) ∧ t.mem = s.mem))) ∧
    (∀ T, (s.strand k).replay = some T → (∃ a ∈ s.agentsOf k, (s.agent a).idleEngines = false) →
      ((s.strand k).atEntry ≠ 2 ∨ (s.strand k).wstall < s.limit k →
        goes (.replayRestart k) s (fun t => (t.strand k).st = .stalled ∧ (t.strand k).replay = some T ∧ onlyStrand k s t)) ∧
      -- a wait that has timed out before freezes again at the next owned entry (R249)
      ((s.strand k).atEntry = 2 → s.limit k ≤ (s.strand k).wstall → (s.vcp (s.strand k).vcp).hold = true →
        goes (.replayRestart k) s (fun t => (t.strand k).st = .frozen ∧ (t.strand k).freeze = some (11, 0) ∧
          (t.strand k).replay = some T ∧ (t.strand k).wstall = (s.strand k).wstall ∧ t.agents = s.agents ∧ t.mem = s.mem)))

/-- THE WEAVER'S STEPS (R245, R249–R254, R299, R307, R308): a stall that has reached its limit freezes the strand with a record, and
cancels it unless its VCP holds; a grace that has expired cuts for eviction, but not a freeze of the shadow sequencer, which only a CANCEL ends
(log 92); a re-phase point makes the cut; a new energy period clears
every meter. -/
def Obligations.WeaverStepsActOnTheirStrand : Prop :=
  ∀ (s : State) (k : StrandKey),
    ((s.strand k).st = .stalled → s.limit k ≤ (s.strand k).wstall →
      ((s.vcp (s.strand k).vcp).hold = true → goes (.stallTimeout k) s (fun t => (t.strand k).st = .frozen ∧
        (t.strand k).freeze = some (11, 0) ∧ (t.strand k).timer = false ∧ (t.strand k).stime = (s.strand k).stime ∧
        (∃ r, (t.strand k).recs = (s.strand k).recs ++ [r] ∧ r.kind = 11 ∧ r.op0 = bv 64 (s.strand k).wstall) ∧
        t.agents = s.agents ∧ t.mem = s.mem ∧ ∀ j, j ≠ k → t.strand j = s.strand j)) ∧
      ((s.vcp (s.strand k).vcp).hold = false → (s.part k.part).move = none → goes (.stallTimeout k) s (fun t =>
        (t.strand k).st = .halted ∧ (t.strand k).cancelled = some 3 ∧ (t.strand k).finalDone = false ∧
        -- the freeze's record is pending no more; the cancel's is
        (∃ q, (t.strand k).recs = (s.strand k).recs.filter (fun r => !r.freezes) ++ [q] ∧ q.kind = 13 ∧ q.cause = 8 ∧ q.aux = 3) ∧
        (∀ a, a ∉ s.agentsOf k → t.agent a = s.agent a) ∧ (∀ j, j ≠ k → t.strand j = s.strand j) ∧ t.mem = s.mem ∧ t.fab = s.fab))) ∧
    (∀ g, (s.strand k).st = .running ∨ (s.strand k).st = .stalled ∨ (s.strand k).st = .frozen → (s.strand k).evp = true →
      (s.strand k).grace = some g → g ≤ s.fab.ftime →
      ((s.strand k).st = .frozen → (s.strand k).freeze = some (13, 1) → goes (.evictGraceExpiry k) s (fun t => t = s)) ∧
      ((s.strand k).st ≠ .frozen ∨ (s.strand k).freeze ≠ some (13, 1) → goes (.evictGraceExpiry k) s (fun t =>
        t = { s with strands := t.strands, parts := t.parts } ∧ (∀ j, j ≠ k → t.strand j = s.strand j) ∧
        (∀ p, t.part p = { s.part p with slots := (t.part p).slots }) ∧ (t.strand k).st = .evicting ∧ (t.strand k).left = (s.strand k).st ∧ (t.strand k).yieldMask = none ∧
        (t.strand k).recs = (s.strand k).recs.filter (fun r => !r.freezes) ∧
        (t.strand k).evp = false ∧ (t.strand k).stime = (s.strand k).stime))) ∧
    ((s.strand k).st = .running ∨ (s.strand k).st = .stalled ∨ (s.strand k).st = .frozen → (s.strand k).rpp = true →
      (s.strand k).cutDone = false → goes (.rephasePoint k) s (fun t => (t.strand k).st = .rephasing ∧
        (t.strand k).left = (s.strand k).st ∧ (t.strand k).cutDone = true ∧ (t.strand k).nscode = (s.strand k).nscode ∧
        (t.strand k).nphase = (s.strand k).nphase ∧ (t.strand k).stime = (s.strand k).stime ∧ t.agents = s.agents ∧ t.mem = s.mem ∧
        (∀ j, j ≠ k → t.strand j = s.strand j) ∧ t = { s with strands := t.strands, parts := t.parts } ∧
        ∀ p, t.part p = { s.part p with slots := (t.part p).slots })) ∧
    goes .energyPeriodStart s (fun t => t = { s with parts := t.parts } ∧ t.parts.map (·.1) = s.parts.map (·.1) ∧
      ∀ p, (t.part p).energy = 0 ∧ (t.part p).nstretched = 0 ∧ (t.part p).lay = (s.part p).lay ∧ (t.part p).mc = (s.part p).mc)

/-- FRAME BOUNDARIES (R245, R251, R252, R254): with the period's energy at the budget the whole frame passes empty and no strand
changes; below it, an admitted strand whose primers are complete and whose start time has come runs, or stands frozen if the shadow sequencer
disputes a word of it (R289, log 92), and the re-phases whose
cuts are all made commit; an agent of a strand that starts takes its view with its first step (R196), one of a newcomer at the commit frame (R208). What energy a frame takes
is free (log 25). -/
def Obligations.FrameBoundariesStretchStartAndCommit : Prop :=
  ∀ (s : State) (p : Nat), goes (.weaveFrameBoundary p) s (fun t =>
    ∃ u, (t.part p).energy = (s.part p).energy + u ∧ (t.part p).mc = (s.part p).mc ∧
      ((s.part p).ebud ≤ (s.part p).energy + u → (t.part p).stretched = true ∧ (t.part p).nstretched = (s.part p).nstretched + 1 ∧
        t.strands = s.strands ∧ t.agents = s.agents ∧ t.mem = s.mem ∧ t.fab = s.fab) ∧
      ((s.part p).energy + u < (s.part p).ebud → (t.part p).stretched = false ∧
        ((s.part p).move = none → t.mem = s.mem ∧ t.fab = s.fab ∧
          (∀ a, s.mayStart a.sk = false ∨ a.part ≠ p → (s.strand a.sk).rpp = false → t.agent a = s.agent a) ∧
          (∀ n, n < 16 → s.mayStart ⟨p, n⟩ = true → (s.strand ⟨p, n⟩).rpp = false → ∀ a ∈ s.agentsOf ⟨p, n⟩,
            t.agent a = if (s.agent a).begun then s.agent a
              else { s.agent a with begun := true, v := ⟨s.mem, s.wlog.length⟩ }) ∧
          (∀ n, n < 16 → (s.strand ⟨p, n⟩).rpp = false →
            (s.mayStart ⟨p, n⟩ = true → (t.strand ⟨p, n⟩).st =
              if (s.strand ⟨p, n⟩).freeze = some (13, 1) then .frozen else .running) ∧
            (s.mayStart ⟨p, n⟩ = false → t.strand ⟨p, n⟩ = s.strand ⟨p, n⟩)) ∧
          (s.moveReady p = true → ∀ n, n < 16 → (s.strand ⟨p, n⟩).rpp = true → (s.strand ⟨p, n⟩).st = .rephasing →
            (s.strand ⟨p, n⟩).left ≠ .admitted →
            (t.strand ⟨p, n⟩).st = (s.strand ⟨p, n⟩).left ∧ (t.strand ⟨p, n⟩).scode = (s.strand ⟨p, n⟩).nscode ∧
            (t.strand ⟨p, n⟩).phase = (s.strand ⟨p, n⟩).nphase ∧ (t.strand ⟨p, n⟩).rpp = false)) ∧
        (∀ m n, (s.part p).move = some m → m.newcomer = some n → m.cancelNew = none → n < 16 → s.moveReady p = true →
          (t.part p).move = none ∧ ((t.strand ⟨p, n⟩).st = .admitted ∨ (t.strand ⟨p, n⟩).st = .running) ∧
            ∀ a ∈ s.agentsOf ⟨p, n⟩, (t.agent a).v = ⟨s.mem, s.wlog.length⟩)))

/-! ## Engines -/

/-- AGEN PERFORMS (R78, R108, R171, R172, R176–R186, R193, R194, R204, R232): nothing happens with no command, a halted engine, or a
token that is not there, and taking the token goes with the step. STS puts its word in the phase buffer; LDS pushes the word it
read; each of the eight atomics reads and writes memory in one step under its width, with its release and acquire, and pushes the
old value; AROW writes its register pair, low half first, or halts on a poisoned row; TDESC puts an accepted catalogue entry in
its slot and drops the slot's translations, or halts; PREF completes. A slot not loaded, a tensor of the wrong kind, a misaligned or
absent place and a remote one halt the engine in the order of R194, and a page that is not here is asked for. Each item of FEED goes to the queue as far as there is room,
of DRAIN comes from it and is stored; FILLF, TLD and KBLD write units, rows and bank words, SPILLF and TST store them. An item
that performed makes way for the next, the next column, or the end of the command. The bytes move word by word (R197, log 37). The shape of I16
items is the model's choice (log 21), and so are that PREF completes also beyond the tensor (log 77) and that an empty column set completes
though the slot is not loaded (log 81). -/
def Obligations.AgenPerformsItsHeadCommand : Prop :=
  (∀ (s : State) (k : AgentKey),
    let P := goes (.agenCommandPerform k) s
    ((s.agent k).acmds = [] ∨ (s.agent k).haltA = true ∨ (s.strand k.sk).enginesRun = false → P (fun t => t = s)) ∧
    ∀ c l, (s.agent k).acmds = c :: l → (s.agent k).haltA = false → c.held = false → (s.strand k.sk).enginesRun = true →
      c.page = .none → c.fin = false → (s.agent k).q.q8.length < 255 →
      let u := s.begin_ k
      (c.wtk = true → c.took = false → (s.agent k).q.q9 = 0 → P (fun t => t = s)) ∧
      (c.wtk = true → c.took = false → 0 < (s.agent k).q.q9 → exec (.agenCommandPerform k) s = exec (.agenCommandPerform k)
        (u.setAgent k { u.agent k with
          q := { (u.agent k).q with q9 := (u.agent k).q.q9 - 1 }, acmds := { c with took := true } :: l })) ∧
      ((c.wtk = true → c.took = true) →
      -- the place of a scalar or an atomic: its slot, offset, width, and whether it writes and is an atomic
      (∀ (T : BitVec 4) (y n : Nat) (wr at_ : Bool),
        (∃ xd xa imm, c.ins = .sts xd xa imm ∧ (T, y, n, wr, at_) = (0, c.addr.toNat, 8, true, false)) ∨
        (∃ q7 xa imm, c.ins = .lds q7 xa imm ∧ (T, y, n, wr, at_) = (0, c.addr.toNat, 8, false, false)) ∨
        (∃ x : Atom, atomOf c.ins = some x ∧ (T, y, n, wr, at_) = (x.td, bits c.a[x.ac.toFin] 47 0, AWid.bytes x.wid, true, true)) →
        ((u.agent k).td[T.toFin] = none → P (fun t => haltsA k u t c 1)) ∧
        ∀ d, (u.agent k).td[T.toFin] = some d →
          (dFlat d = false → P (fun t => haltsA k u t c 4)) ∧
          (dFlat d = true → y % n ≠ 0 → dSize d < y + n → P (fun t => haltsA k u t c 5)) ∧
          (dFlat d = true → y % n = 0 ∨ y + n ≤ dSize d → ∀ l s1, u.flatLoc k .agen T.toNat d y n wr = (l, s1) →
            (∀ e, l = .fault e → y % n = 0 ∨ e = 4 → P (fun t => haltsA k s1 t c e)) ∧
            (∀ q g, l = .page q g → y % n = 0 ∨ q = 1 → P (fun t => asksA k s1 t c)) ∧
            (∀ e p m, l = .remote e p m → y % n = 0 → (at_ = true ∨ m = false → P (fun t => haltsA k s1 t c 9)) ∧
              (at_ = false → m = true → P (fun t => ∃ h, (t.agent k).acmds.head? = some h ∧ h.seq = c.seq ∧ h.page = .moving ∧
                (t.agent k).haltA = (s1.agent k).haltA ∧ t.mem = s1.mem ∧ t.strands = s1.strands))) ∧
            (y % n ≠ 0 → l ≠ .fault 4 → (∀ g, l ≠ .page 1 g) → P (fun t => haltsA k s1 t c 5)))) ∧
      (∀ d xd xa imm a n rs s1, c.ins = .sts xd xa imm → (u.agent k).td[(0 : Fin 16)] = some d → dFlat d = true → c.addr.toNat % 8 = 0 →
        u.flatLoc k .agen 0 d c.addr.toNat 8 true = (.runs ((a, n) :: rs), s1) → P (fun t =>
          KV.get? (t.agent k).b a = some (c.val, false) ∧ (∀ x, x ≠ a → KV.get? (t.agent k).b x = KV.get? (s1.agent k).b x) ∧
          t.mem = s1.mem ∧ doneA c (s1.agent k) (t.agent k) ∧ t.strands = s1.strands)) ∧
      (∀ d q7 xa imm a n rs s1, c.ins = .lds q7 xa imm → (u.agent k).td[(0 : Fin 16)] = some d → dFlat d = true →
        c.addr.toNat % 8 = 0 → u.flatLoc k .agen 0 d c.addr.toNat 8 false = (.runs ((a, n) :: rs), s1) → P (fun t =>
          let q := if q7 then 7 else 6; let v := (s1.memRead k a).1
          ((t.agent k).q.res q).items = ((s1.agent k).q.res q).items ++ [⟨v.1, c.seq, true⟩] ∧
          ((t.agent k).q.res q).resv = ((s1.agent k).q.res q).resv - 1 ∧ doneA c (s1.agent k) (t.agent k) ∧
          (v.2 = false → t.strands = s1.strands) ∧ (v.2 = true → noted k.sk s1 t 10 0x21 2 c.seq))) ∧
      (∀ d (x : Atom) a n rs s1, atomOf c.ins = some x → (u.agent k).td[x.td.toFin] = some d → dFlat d = true →
        let w := AWid.bytes x.wid; let y := bits c.a[x.ac.toFin] 47 0
        (c.ins = .atfadd x → w = 4) → y % w = 0 → u.flatLoc k .agen x.td.toNat d y w true = (.runs ((a, n) :: rs), s1) → s1.phys = [] → s1.memOk → a % w = 0 →
        P (fun t =>
          let s2 := if x.rel then s1.phaseStep k else s1
          let old := s2.mem.num a w
          let q := if x.rq then 7 else 6
          t.mem.num a w = atomValue c.ins w c.ovf old (c.opOf x.aop w) (c.opOf x.ad w) ∧
          (∀ y, y < a ∨ a + w ≤ y → t.mem.byte y = s2.mem.byte y) ∧
          ((t.agent k).q.res q).items = ((s2.agent k).q.res q).items ++
            (if w = 16 then [⟨bv 64 old, c.seq, false⟩, ⟨bv 64 (old / 2 ^ 64), c.seq, true⟩] else [⟨bv 64 old, c.seq, true⟩]) ∧
          ((t.agent k).q.res q).resv = ((s2.agent k).q.res q).resv - (if w = 16 then 2 else 1) ∧
          (t.agent k).a = (s2.agent k).a ∧ (x.ret = false → (t.agent k).aAlt = (s2.agent k).aAlt) ∧
          (x.ret = true → wroteA c.seq x.ad (bv 64 old) (s2.agent k) (t.agent k)) ∧
          (x.ret = true → w = 16 → wroteA c.seq (x.ad + 1) (bv 64 (old / 2 ^ 64)) (s2.agent k) (t.agent k)) ∧
          (x.acq = true → (t.agent k).v = ⟨t.mem, t.wlog.length⟩) ∧ (x.acq = false → (t.agent k).v = (s2.agent k).v) ∧
          (x.rel = true → (t.agent k).b = []) ∧ (x.rel = false → (t.agent k).b = (s1.agent k).b) ∧
          doneA c (s2.agent k) (t.agent k) ∧
          (s2.mem.poisAt a = true → noted k.sk s1 t 10 0x21 2 c.seq) ∧ (s2.mem.poisAt a = false → t.strands = s1.strands))) ∧
      (∀ ad col v quad tok, c.ins = .arow ad col v quad tok → s.phys = [] →
        let r := (s.agent k).engineRead (s.strand k.sk).serial k.row col.toNat false c.seq s.fresh (.row v.toNat)
        (r.pois = false → P (fun t => wroteA c.seq ad (r.data.extractLsb' (128 * quad.toNat) 64) (s.agent k) (t.agent k) ∧
          wroteA c.seq (ad + 1) (r.data.extractLsb' (128 * quad.toNat + 64) 64) (s.agent k) (t.agent k) ∧ doneA c (s.agent k) (t.agent k) ∧
          t.mem = s.mem ∧ (t.agent k).cores = (s.agent k).cores)) ∧
        (r.pois = true → P (fun t => haltsA k s t c 0x0A))) ∧
      (∀ d slot f, c.ins = .tdesc slot f → (u.agent k).td[(0 : Fin 16)] = some d →
        let i := bits (c.acVal f) 15 0
        ((s.strand k.sk).l.catn ≤ i → P (fun t => haltsA k s t c 2)) ∧
        (∀ b s1, i < (s.strand k.sk).l.catn →
          u.agenLoad k c { f with td := 0 } d 0 ((s.strand k.sk).l.catb + 64 * i) 64 0 = (some b, s1) →
          let e : Desc := bv 512 (natOfBytes (b.map (·.1)))
          (dOk e = true → P (fun t => (t.agent k).td[slot.toFin] = some e ∧
            (∀ j : BitVec 4, j ≠ slot → (t.agent k).td[j.toFin] = (s1.agent k).td[j.toFin]) ∧
            (t.agent k).tcache = (s1.agent k).tcache.filter (fun x => x.1.1 ≠ slot.toNat) ∧ doneA c (s1.agent k) (t.agent k) ∧
            t.mem = s1.mem ∧ (t.agent k).cores = (s1.agent k).cores)) ∧
          (dOk e = false → P (fun t => haltsA k s1 t c 2)))) ∧
      (∀ d f, c.ins = .pref f → s.phys = [] → (u.agent k).td[f.td.toFin] = some d → P (fun t => doneA c (s.agent k) (t.agent k) ∧
        t.mem = s.mem ∧ t.strands = s.strands ∧ t.fab = s.fab ∧ (t.agent k).cores = (s.agent k).cores ∧ (t.agent k).b = (s.agent k).b)) ∧
      -- transfers
      ∀ f, xferOf c.ins = some f → (∀ i, c.ins ≠ .pref i) → (∀ i j, c.ins ≠ .tdesc i j) →
      ((xferCols c)[c.rank]? = none → P (fun t => doneA c (s.agent k) (t.agent k) ∧ t.mem = s.mem)) ∧
      (∀ col, (xferCols c)[c.rank]? = some col →
        (∀ e, c.acc = none → c.rem = none → (u.agent k).itemCheck (s.strand k.sk).l c f c.rank = some e → e ≠ 5 → e ≠ 7 →
          P (fun t => haltsA k s t c e)) ∧
        (∀ e d, c.acc = none → c.rem = none → (u.agent k).itemCheck (s.strand k.sk).l c f c.rank = some e → e = 5 ∨ e = 7 →
          (u.agent k).td[f.td.toFin] = some d →
          let at_ := itemCoord c f c.rank c.item; let off := xferOff c f d; let size := xferSize c f d
          let inside := if dFlat d then off + size ≤ dSize d else inTensor d at_ = true
          (¬ inside → P (fun t => haltsA k u t c e)) ∧
          (inside → ∀ l s1, u.agenLoc k f d at_ off size (isStore c.ins) = (l, s1) →
            (l = .fault 4 → P (fun t => haltsA k s1 t c 4)) ∧ (∀ g, l = .page 1 g → P (fun t => asksA k s1 t c)) ∧
            (l ≠ .fault 4 → (∀ g, l ≠ .page 1 g) → P (fun t => haltsA k s1 t c e)))) ∧
        (∀ d, (u.agent k).td[f.td.toFin] = some d →
          (c.acc = none → c.rem = none → (u.agent k).itemCheck (s.strand k.sk).l c f c.rank = none) →
          let fmt := dFmt d; let beats := (shapeOf fmt).beats; let at_ := itemCoord c f c.rank c.item; let off := xferOff c f d
          let base := xferBase c d; let size := xferSize c f d; let ser := (s.strand k.sk).serial; let n := f.nm1.toNat + 1
          (∀ q, c.ins = .feed q f →
            let pushes := fun (s1 : State) (bs : List Beat) => P (fun t =>
              let Q := (s1.agent k).q.beat q.toNat; let r := Q.depth - (Q.items.length + Q.kept)
              ((t.agent k).q.beat q.toNat).items = Q.items ++ bs.take r ∧ t.mem = s1.mem ∧ (t.agent k).cores = (s1.agent k).cores ∧
              (bs.length ≤ r → itemDone c n 1 (s1.agent k) (t.agent k)) ∧
              (r < bs.length → standsA c (s1.agent k) (t.agent k) c.item c.rank (bs.drop r)))
            (c.buf ≠ [] → pushes u c.buf) ∧
            ∀ b s1, c.buf = [] → u.agenLoad k c f d at_ off size 0 = (some b, s1) → pushes s1 (toBeats fmt b)) ∧
          (∀ q5, c.ins = .drain q5 f →
            (∀ l s1, c.buf.length < beats → u.agenLoc k f d at_ off size true = (.runs l, s1) → s1.phys = [] → P (fun t =>
              let Q := (s1.agent k).q.beat (if q5 then 5 else 4)
              ((t.agent k).q.beat (if q5 then 5 else 4)).items = Q.items.drop (beats - c.buf.length) ∧ t.mem = s1.mem ∧
              (t.agent k).b = (s1.agent k).b ∧
              standsA c (s1.agent k) (t.agent k) c.item c.rank (c.buf ++ Q.items.take (beats - c.buf.length)))) ∧
            ∀ s1, beats ≤ c.buf.length → u.agenStore k c f d at_ off 0 (ofBeats fmt c.buf) = (true, s1) → P (fun t =>
              itemDone c n 1 (s1.agent k) (t.agent k) ∧ (t.agent k).b = (s1.agent k).b ∧ t.mem = s1.mem)) ∧
          (∀ b s1, (∃ r set, c.ins = .fillf r set f ∨ c.ins = .tld r set f) → u.agenLoad k c f d at_ off size col = (some b, s1) →
            P (fun t => let core := (t.agent k).core col; let old := (s1.agent k).core col
              (∀ p ∈ toPlaces (isRows c.ins) fmt base b, core.place ser k.row col p.1 = p.2) ∧
              (∀ p, p ∉ (toPlaces (isRows c.ins) fmt base b).map (·.1) → core.place ser k.row col p = old.place ser k.row col p) ∧
              (∀ j, j ≠ col → (t.agent k).core j = (s1.agent k).core j) ∧ core.s = old.s ∧ core.p = old.p ∧ t.mem = s1.mem ∧
              itemDone c n (xferCols c).length (s1.agent k) (t.agent k))) ∧
          (∀ s1, (∃ r set, c.ins = .spillf r set f ∨ c.ins = .tst r set f) → s.phys = [] →
            u.draw.2.agenStore k c f d at_ off col
              ((u.agent k).fromPlaces ser k.row col c.seq u.fresh (isRows c.ins) fmt base) = (true, s1) →
            P (fun t => (t.agent k).cores = (s1.agent k).cores ∧ (t.agent k).b = (s1.agent k).b ∧ t.mem = s1.mem ∧
              itemDone c n (xferCols c).length (s1.agent k) (t.agent k))) ∧
          (∀ w set b s1, c.ins = .kbld w set f → u.agenLoad k c f d at_ off size col = (some b, s1) →
            P (fun t => let core := (t.agent k).core col; let old := (s1.agent k).core col
              (∀ i, i < n → let g := (b.drop (4 * i)).take 4
                core.place ser k.row col (.kb (w.toNat + i)) = ⟨bv 1024 (natOfBytes (g.map (·.1)) % 2 ^ 32), g.any (·.2)⟩) ∧
              (∀ p, (∀ i, i < n → p ≠ .kb (w.toNat + i)) → core.place ser k.row col p = old.place ser k.row col p) ∧
              (∀ j, j ≠ col → (t.agent k).core j = (s1.agent k).core j) ∧ t.mem = s1.mem ∧
              itemDone c 1 (xferCols c).length (s1.agent k) (t.agent k))))))) ∧
  -- the coordinates of an item
  (∀ (c : ACmd) (f : Xfer) (r i : Nat) (j : BitVec 2), (fieldOf (itemCoord c f r i) j).toNat =
    ((fieldOf (c.acVal f) j).toNat + (if j = f.sdim then (fieldOf c.a[BitVec.toFin f.step] f.sdim).toNat * i else 0) +
      (if j = c.set.sdim ∧ c.set.scatter = true then r else 0)) % 65536) ∧
  -- bytes of an item, its beats and its places
  (∀ (fmt : Nat) (l : List PByte) (bs : List Beat),
    let n := if fmt = 2 ∨ fmt = 3 then 128 else 256
    let B := toBeats fmt l
    B.length = (if fmt < 4 then 16 else if fmt = 4 ∨ fmt = 5 then 4 else 1) ∧
    (∀ b, b < B.length → let x := B.getD b Beat.empty
      (∀ j, j < 256 → x.data.toNat / 2 ^ (8 * j) % 256 = if j < n then (l.getD (n * b + j) (0, false)).1.toNat else 0) ∧
      (∀ i, i < 8 → x.scale.toNat / 2 ^ (8 * i) % 256 = if fmt = 4 then (l.getD (1024 + 8 * b + i) (0, false)).1.toNat else 0) ∧
      (∀ i, i < 8 → (x.pois.getLsbD i = true ↔ (∃ j, j < n ∧ j / 32 = i ∧ (l.getD (n * b + j) (0, false)).2 = true) ∨
        (fmt = 4 ∧ (l.getD (1024 + 8 * b + i) (0, false)).2 = true))) ∧ x.valid = true) ∧
    (∀ b j, b < bs.length → j < n → (ofBeats fmt bs).getD (n * b + j) (0, false) =
      (bv 8 ((bs.getD b Beat.empty).data.toNat / 2 ^ (8 * j)), (bs.getD b Beat.empty).pois.getLsbD (j / 32))) ∧
    (∀ b i, fmt = 4 → b < bs.length → i < 8 → (ofBeats fmt bs).getD (256 * bs.length + 8 * b + i) (0, false) =
      (bv 8 ((bs.getD b Beat.empty).scale.toNat / 2 ^ (8 * i)), (bs.getD b Beat.empty).pois.getLsbD i)) ∧
    (∀ rows base i, let P := toPlaces rows fmt base l; let w := if rows then 128 else 32
      i < P.length → ∃ v, P[i]? = some (if rows then .row (base + i) else .unit (base + i), v) ∧
        v.data.toNat = natOfBytes (((l.drop (w * i)).take w).map (·.1)) ∧ v.pois = ((l.drop (w * i)).take w).any (·.2)) ∧
    (∀ base, (toPlaces true fmt base l).length = (shapeOf fmt).rows ∧ (toPlaces false fmt base l).length = (shapeOf fmt).units)) ∧
  -- an item's bytes are read and written word by word, as many words as the engine does in the step
  (∀ (s : State) (k : AgentKey) (c : ACmd) (l : List ACmd) (f : Xfer) (d : Desc) (x : Word) (off size col : Nat) (b : List PByte),
    (s.agent k).acmds = c :: l → c.rem = none →
    (∀ rs s1, (c.acc = none ∧ s.agenLoc k f d x off size false = (.runs rs.at_, s1) ∧ rs.got = [] ∧ rs.put = 0) ∨ (c.acc = some rs ∧ s1 = s) →
      ∃ m, 1 ≤ m ∧
        let r := s1.draw.2.readPieces (some k) (rs.todo.take m)
        let h := (r.2.agent k).acmds.headD c
        s.agenLoad k c f d x off size col = if (rs.todo.drop m).isEmpty then (some (rs.got ++ r.1), r.2.setHead k { h with acc := none })
          else (none, r.2.setHead k { h with acc := some ⟨rs.at_, rs.got ++ r.1, rs.put + m⟩ })) ∧
    (∀ rs s1, (c.acc = none ∧ s.agenLoc k f d x off b.length true = (.runs rs.at_, s1) ∧ rs.got = b ∧ rs.put = 0) ∨ (c.acc = some rs ∧ s1 = s) →
      ∃ m, 1 ≤ m ∧
        let r := s1.draw.2.writePieces k c.seen (rs.todo.take m) (rs.got.drop (8 * rs.put))
        let h := (r.agent k).acmds.headD c
        s.agenStore k c f d x off col b = if (rs.todo.drop m).isEmpty then (true, r.setHead k { h with acc := none })
          else (false, r.setHead k { h with acc := some ⟨rs.at_, rs.got, rs.put + m⟩ })))

/-- XCHG PERFORMS (R166, R171, R172, R187–R191, R194, R264, R277): nothing happens for a halted engine or a command behind one that
waits for its token, and taking the token goes with the step. A RECV is posted; an RCANCEL cancels the RECV of its tag and
completes; SEND and XWR send their source's bytes, core storage at once and device memory as it is read word by word (log 37);
XRD, once its own place is found, asks for its bytes, and XAT for its sum (the words of these requests are read by inference, log 30); each
starts its report deadline. A place or an
endpoint that fails its check, or a message too long for its code, halts the engine. A finished command at the head completes
when its token has room. -/
def Obligations.XchgPerformsTheCommand : Prop :=
  ∀ (s : State) (k : AgentKey) (n : Nat),
    let P := goes (.xchgCommandPerform k n) s
    let find := (s.agent k).xcmds.find? (fun c => c.seq = n)
    (find = none ∨ (s.agent k).haltX = true ∨ (s.agent k).heldBack n = true → P (fun t => t = s)) ∧
    (∀ c l, (s.agent k).xcmds = c :: l → c.seq = n → c.fin = true → (s.agent k).haltX = false → c.held = false → c.page = .none →
      (s.agent k).heldBack n = false → (s.strand k.sk).enginesRun = true → (∀ x ∈ l, x.fin = false) → P (fun t =>
        if c.tok = true ∧ 255 ≤ (s.agent k).q.q10.length then t.agent k = s.agent k
        else (t.agent k).xcmds = l ∧ (t.agent k).tcx = n ∧
          (t.agent k).q.q10 = (s.agent k).q.q10 ++ (if c.tok then [n] else []) ∧ t.mem = s.mem ∧ t.fab = s.fab)) ∧
    ∀ c, find = some c → (s.agent k).haltX = false → (s.agent k).heldBack n = false → c.held = false → c.page = .none → c.fin = false →
      (s.strand k.sk).enginesRun = true →
      (c.wtk = true → c.took = false → (s.agent k).q.q11 = 0 → P (fun t => t = s)) ∧
      (c.wtk = true → c.took = false → 0 < (s.agent k).q.q11 → exec (.xchgCommandPerform k n) s = exec (.xchgCommandPerform k n)
        (s.setAgent k { s.agent k with
          q := { (s.agent k).q with q11 := (s.agent k).q.q11 - 1 }
          xcmds := (s.agent k).xcmds.map (fun x => if x.seq = n then { c with took := true, frames := x.frames } else x) })) ∧
      ((c.wtk = true → c.took = true) →
      (∀ d tag, c.ins = .recv d tag → P (fun t => t = s.setAgent k { s.agent k with
        xcmds := (s.agent k).xcmds.map (fun x => if x.seq = n then { c with started := true, frames := x.frames } else x) })) ∧
      (∀ d tag, c.ins = .rcancel d tag → P (fun t =>
        t.mem = s.mem ∧ (t.agent k).q.q8 = (s.agent k).q.q8 ∧ (t.agent k).cores = (s.agent k).cores ∧
        (∀ x ∈ (t.agent k).xcmds, x.seq = n → x.fin = true) ∧
        ((s.agent k).xcmds = [c] → (t.agent k).xcmds = [] ∧ (t.agent k).tcx = n) ∧
        ∀ o, ((s.agent k).xcmds.find? (fun x => decide (x.seq < n) && !x.fin && x.atag.setWidth 32 == c.atag.setWidth 32 &&
            (match x.ins, d with
              | .recv .q12 _, .q12 => true
              | .recv .q13 _, .q13 => true
              | .recv (.loc _) _, .loc _ => true
              | _, _ => false))) = some o → o.delivering = false → ∀ x ∈ (t.agent k).xcmds, x.seq = o.seq → x.cancelled = true ∧ x.fin = true)) ∧
      (∀ m, c.ins = .xat m → c.sent = false →
        (s.badEndpoint c.ae m.mc = true → P (fun t => haltsX k s t c 0x11)) ∧
        (s.badEndpoint c.ae m.mc = false → P (fun t =>
          sends k s t c 4 c.adst 1 1 1 ((bytesOf 8 c.asrc.toNat).map (fun b => (b, false)))))) ∧
      (∀ m, c.ins = .xrd m → c.sent = false → c.lostRep = false →
        let place := s.place k true c.seq c.adst (64 * m.len64.toNat) 32 [0, 1, 2, 3] true
        (∀ e s1, place = (.fault e, s1) → P (fun t => haltsX k s1 t c e)) ∧
        (∀ l s1, place = (.runs l, s1) →
          (512 * c.crt.k < 64 * m.len64.toNat → P (fun t => haltsX k s1 t c 0x10)) ∧
          (64 * m.len64.toNat ≤ 512 * c.crt.k → s1.badEndpoint c.ae m.mc = true → P (fun t => haltsX k s1 t c 0x11)) ∧
          (64 * m.len64.toNat ≤ 512 * c.crt.k → s1.badEndpoint c.ae m.mc = false → P (fun t =>
            sends k s1 t c 2 c.asrc 1 1 1 ((bytesOf 8 c.crt.k ++ bytesOf 8 c.crt.ddl).map (fun b => (b, false))))))) ∧
      -- SEND and XWR: operation, operand, and how many reports they wait for
      (∀ (m : Xmsg) (op : Nat) (opnd : Word) (need : Nat),
        (c.ins = .send m ∧ op = 0 ∧ opnd = (c.adst.setWidth 32).setWidth 64 ∧ need = (if c.crt.rty = true ∧ m.mc = false then 1 else 0)) ∨
        (c.ins = .xwr m ∧ op = 1 ∧ opnd = c.adst ∧
          need = if bits c.ae 20 20 = 1 then bits (KV.getD s.fab.groups (bits c.ae 19 0) 0) 51 32 else 1) →
        c.sent = false → c.acc = none → 0 < c.crt.k →
        let len := 64 * m.len64.toNat
        let place := s.place k true c.seq c.asrc len 32 [0, 1, 2, 3] false
        (∀ e s1, place = (.fault e, s1) → P (fun t => haltsX k s1 t c e)) ∧
        (∀ l s1, place = (.runs l, s1) →
          (512 * c.crt.k < len → P (fun t => haltsX k s1 t c 0x10)) ∧
          (len ≤ 512 * c.crt.k → s.badEndpoint c.ae m.mc = true → P (fun t => haltsX k s1 t c 0x11)) ∧
          (len ≤ 512 * c.crt.k → s.badEndpoint c.ae m.mc = false → lKind c.asrc < 2 → s.phys = [] → P (fun t =>
            sends k s1 t c op opnd c.crt.k need c.crt.k
              ((s.agent k).readCorePlace (s.strand k.sk).serial k.row c.seq s.fresh c.asrc len))) ∧
          (len ≤ 512 * c.crt.k → s.badEndpoint c.ae m.mc = false → 2 ≤ lKind c.asrc → ∃ w, 1 ≤ w ∧
            let r := s1.draw.2.readPieces (some k) ((pieces l).take w)
            ((pieces l).length ≤ w → P (fun t => sends k r.2 t c op opnd c.crt.k need c.crt.k (padTo len r.1))) ∧
            (w < (pieces l).length → P (fun t => t.fab = r.2.fab ∧ t.mem = r.2.mem ∧ ∀ x ∈ (t.agent k).xcmds, x.seq = n →
              x.sent = false ∧ x.started = true ∧ x.acc = some ⟨l, r.1, w⟩))))))

/-- OVERLAY LOAD (R85, R207, R286): the load reads its header, then the words of its image, by read steps of the agent, at least one at a
time, from td0. A misaligned address, a place that cannot be read, a length outside 1 to 16,384 and one beyond the window leave their
causes for OVLYS; else the words of the image stand in the other bank and the load is complete; the running bank, its fetch and the
registers are as before. A page that is not here is asked for and the load waits (R233; what the record says of it is the model's
choice, log 73); nothing waits any more for the pages of an earlier load of the row. Poison of what is read is dropped (log 93), and the words
of the image come all at once, when the last is read (log 80). -/
def Obligations.OverlayLoadsFillTheOtherBank : Prop :=
  ∀ (s : State) (a : AgentKey) (o : Overlay), (s.agent a).sqr.ovly = some o → o.done = false →
    let P := goes (.overlayLoadComplete a) s
    let u := (s.forget (fun w => match w with | .overlay b y => b == a && y != o.addr | _ => false)).begin_ a
    let x := o.addr.toNat
    let with_ := fun (s1 : State) (g : Overlay → Overlay) => s1.setAgent a { s1.agent a with
      sqr := { (s1.agent a).sqr with ovly := (s1.agent a).sqr.ovly.map g } }
    let fails := fun (s1 : State) (n : Nat) => P (fun t => t = with_ s1 (fun o => { o with done := true, err := some n, acc := none }))
    ((s.strand a.sk).enginesRun = false ∨ o.page ≠ .none → P (fun t => t = s)) ∧
    ((s.strand a.sk).enginesRun = true → o.page = .none →
      (x % 8 ≠ 0 → fails u 1) ∧
      (x % 8 = 0 → (u.agent a).td[(0 : Fin 16)] = none → fails u 2) ∧
      ∀ d, x % 8 = 0 → (u.agent a).td[(0 : Fin 16)] = some d →
        (o.words = 0 →
          (∀ s1, u.overlayItem a o d x 8 = (none, s1) → P (fun t => t = s1)) ∧
          (∀ s1, u.overlayItem a o d x 8 = (some (.error ()), s1) → fails s1 2) ∧
          ∀ b s1, u.overlayItem a o d x 8 = (some (.ok b), s1) →
            let h := natOfBytes (b.map (·.1))
            (h = 0 ∨ 16384 < h → fails s1 3) ∧
            (0 < h → h ≤ 16384 → (s.strand a.sk).l.tlen < h → fails s1 4) ∧
            (0 < h → h ≤ 16384 → h ≤ (s.strand a.sk).l.tlen → P (fun t => t = with_ s1 (fun o => { o with words := h, acc := none })))) ∧
        (o.words ≠ 0 →
          (∀ s1, u.overlayItem a o d (x + 8) (8 * o.words) = (none, s1) → P (fun t => t = s1)) ∧
          (∀ s1, u.overlayItem a o d (x + 8) (8 * o.words) = (some (.error ()), s1) → fails s1 2) ∧
          ∀ b s1, u.overlayItem a o d (x + 8) (8 * o.words) = (some (.ok b), s1) → P (fun t =>
            let q := (s1.agent a).sqr; let r := (t.agent a).sqr
            (∃ fr, r.ovly = some { o with done := true, err := none, acc := none, frames := fr }) ∧ r.pc = q.pc ∧ r.x = q.x ∧ r.bank = q.bank ∧
            r.refs = q.refs ∧ r.text q.bank = q.text q.bank ∧
            (∀ i, i < o.words → KV.get? (r.text (!q.bank)) i = some (bv 64 (natOfBytes (((b.drop (8 * i)).take 8).map (·.1))))) ∧
            (∀ i, o.words ≤ i → KV.get? (r.text (!q.bank)) i = KV.get? (q.text (!q.bank)) i) ∧
            (if q.bank then r.len0 = o.words ∧ r.len1 = q.len1 else r.len1 = o.words ∧ r.len0 = q.len0) ∧
            t.agent a = { s1.agent a with sqr := r } ∧ (∀ j, j ≠ a → t.agent j = s1.agent j) ∧ t.mem = s1.mem ∧
            t.strands = s1.strands))) ∧
    -- what reading an item of the image does
    ∀ (d : Desc) (y n : Nat),
      let reads := fun (s1 : State) (c : Access) => ∃ m, 1 ≤ m ∧
        let r := s1.draw.2.readPieces (some a) (c.todo.take m)
        s.overlayItem a o d y n = if c.todo.length ≤ m then (some (.ok (c.got ++ r.1)), with_ r.2 (fun o => { o with acc := none }))
          else (none, with_ r.2 (fun o => { o with acc := some { c with got := c.got ++ r.1, put := c.put + m } }))
      (∀ c, o.acc = some c → reads s c) ∧
      (o.acc = none →
        (∀ l s1, s.flatLoc a .overlay 0 d y n false = (.runs l, s1) → reads s1 ⟨l, [], 0⟩) ∧
        (∀ kd g s1, s.flatLoc a .overlay 0 d y n false = (.page kd g, s1) →
          let r := pageRecord d g (bv 64 y) 0 kd a false false 0
          ∃ t p, s.overlayItem a o d y n = (none, t) ∧ t.mem = s1.mem ∧ t.strands = s1.strands ∧
            (t.agent a).sqr = { (s1.agent a).sqr with ovly := (s1.agent a).sqr.ovly.map (fun o => { o with page := p }) } ∧
            ((p = .unposted ∧ (.overlay a o.addr, a.part, r) ∈ t.unposted) ∨
              ∃ i e, p = .posted i ∧ KV.get? t.pageq i = some e ∧ e.rec_ = r ∧ e.who = .overlay a o.addr ∧ e.part = a.part)) ∧
        (∀ e s1, s.flatLoc a .overlay 0 d y n false = (.fault e, s1) → s.overlayItem a o d y n = (some (.error ()), s1)) ∧
        ∀ e p mot s1, s.flatLoc a .overlay 0 d y n false = (.remote e p mot, s1) → s.overlayItem a o d y n = (some (.error ()), s1))

/-- ENGINE SERVICE (R193, R195, R230, R236, R257, R288, R289, R308): a resumed engine is no longer halted, its commands stand where they
stopped, its halting record is no longer pending, and after cause 0x08 the cached translations of its slot are dropped. For an AGEN
command that waits for a frame to be brought here, the frame stands in a local frame, its entry names it with rem = 0, the
partition's cached translations are dropped, and the command goes on (what the copied bytes are is free, log 22). A rewritten text
word is what is fetched. A ready engine that wedges resets its partition and no other; a shadow mismatch freezes the strand at the
first boundary after its detection, holds the disputed command or poisons the disputed results, and makes its quad suspect; where the strand is out on an
image, or on its way there or back, it starts frozen later, and where it has halted, all but the freeze follows (the model's choice, log 92; the
window in strand cycles, and that a command that its engine has begun is disputed no more, are its reading, log 31). -/
def Obligations.EngineServiceActsOnItsAgent : Prop :=
  ∀ (s : State) (a : AgentKey),
    (∀ x : Bool, (x = false → ∀ c ∈ (s.agent a).acmds, c.page ≠ .moving) → goes (.engineResume a x) s (fun t =>
      let cs := (s.agent a).haltedCmds x
      let eight := fun (c : Nat × Nat) => ∃ r l, ((s.strand a.sk).recs.filter (isHaltRec a x c.1)) = l ++ [r] ∧ r.cause = 8
      let hit := fun (n : Nat) => ∃ c ∈ cs, eight c ∧ c.2 = n
      (x = true → (t.agent a).haltX = false ∧ (t.agent a).haltA = (s.agent a).haltA) ∧
      (x = false → (t.agent a).haltA = false ∧ (t.agent a).haltX = (s.agent a).haltX) ∧
      (t.agent a).acmds.map (fun c => { c with frames := [] }) =
        (s.agent a).acmds.map (fun c => { c with halted := c.halted && x, frames := [] }) ∧
      (t.agent a).xcmds.map (fun c => { c with frames := [] }) =
        (s.agent a).xcmds.map (fun c => { c with halted := c.halted && !x, frames := [] }) ∧
      -- a command or a load keeps where its slot's translations led, unless they are dropped (R232)
      (∀ (i : Nat) c, (s.agent a).acmds[i]? = some c → ∃ d, (t.agent a).acmds[i]? = some d ∧
        (hit c.slot → d.frames = []) ∧ (¬ hit c.slot → d.frames = c.frames)) ∧
      (∀ (i : Nat) c, (s.agent a).xcmds[i]? = some c → ∃ d, (t.agent a).xcmds[i]? = some d ∧
        (hit c.slot → d.frames = []) ∧ (¬ hit c.slot → d.frames = c.frames)) ∧
      (hit 0 → (t.agent a).sqr.ovly = (s.agent a).sqr.ovly.map (fun o => { o with frames := [] })) ∧
      (¬ hit 0 → (t.agent a).sqr.ovly = (s.agent a).sqr.ovly) ∧
      t.agent a = { s.agent a with
        haltA := (t.agent a).haltA, haltX := (t.agent a).haltX, acmds := (t.agent a).acmds, xcmds := (t.agent a).xcmds
        tcache := (t.agent a).tcache, sqr := { (s.agent a).sqr with ovly := (t.agent a).sqr.ovly } } ∧
      ((∀ c ∈ cs, ¬ eight c) → (t.agent a).tcache = (s.agent a).tcache) ∧
      (∀ e, e ∈ (t.agent a).tcache ↔ e ∈ (s.agent a).tcache ∧ ∀ c ∈ cs, eight c → e.1.1 ≠ c.2) ∧
      (∀ j, j ≠ a → t.agent j = s.agent j) ∧ (∀ j, j ≠ a.sk → t.strand j = s.strand j) ∧
      t.strand a.sk = { s.strand a.sk with recs := (s.strand a.sk).recs.filter (fun r => !cs.any (fun c => isHaltRec a x c.1 r)) } ∧
      t.mem = s.mem)) ∧
    (∀ c l d mfn w, (s.agent a).acmds = c :: l → c.page = .moving → (s.agent a).td[(0 : Fin 16)] = some d → s.phys = [] → s.memOk →
      let g := dTtb d * 65536 + 16 * (c.addr.toNat / 65536)
      let e := mfn * 65536 + g % 65536
      s.stage2 a.part (g / 65536) = some (mfn, w) → (s.mem.word e).getLsbD 2 = true →
      (c.bring = none → s.localFrames a.part = [] → goes (.engineResume a false) s (fun t => t.agents = s.agents ∧ t.mem = s.mem)) ∧
      -- what has begun goes on with the words that are left (R209)
      (∀ w, c.bring = some w → w.ins = .engineResume a false → w.begun = true → goes (.engineResume a false) s (fun t =>
        t.mem = ((w.left.foldl (fun u z => u.gWrite [z]) s).gWrite [(e, s.mem.word e &&& ~~~(4 : Word), s.mem.poisAt e)]).mem ∧
        (∀ k : AgentKey, k.part = a.part → (t.agent k).tcache = []) ∧ t.strands = s.strands ∧
        ∀ h, (t.agent a).acmds.head? = some h → h.page = .none ∧ h.bring = none)) ∧
      (c.bring = none → s.localFrames a.part ≠ [] → goes (.engineResume a false) s (fun t => ∃ f m v, f ∈ s.localFrames a.part ∧
        s.stage2 a.part f = some (m, v) ∧ t.mem.word e = s.mem.word e &&& ~~~(4 : Word) ∧
        (t.mem.word (e + 8)).toNat = (s.mem.word (e + 8)).toNat / 2 ^ 32 * 2 ^ 32 + f % 2 ^ 32 ∧
        (∀ y, (y < m * 65536 ∨ m * 65536 + 65536 ≤ y) → (y < e ∨ e + 16 ≤ y) → t.mem.byte y = s.mem.byte y) ∧
        (∀ k : AgentKey, k.part = a.part → (t.agent k).tcache = []) ∧ (∀ k : AgentKey, k.part ≠ a.part → t.agent k = s.agent k) ∧
        t.agent a = { s.agent a with
          tcache := [], acmds := (t.agent a).acmds, xcmds := (s.agent a).xcmds.map (fun x => { x with frames := [] })
          sqr := { (s.agent a).sqr with ovly := (s.agent a).sqr.ovly.map (fun o => { o with frames := [] }) } } ∧
        (t.agent a).acmds.map (fun x => { x with frames := [] }) =
          (({ c with page := .none } : ACmd) :: l).map (fun x => { x with frames := [] }) ∧ t.strands = s.strands))) ∧
    (∀ bank (i : BitVec 14) w, goes (.textStoreRewrite a bank i w) s (fun t => (∀ j, j ≠ a → t.agent j = s.agent j) ∧
      t.textWord a bank i.toNat = w ∧ (∀ j, j ≠ i.toNat → t.textWord a bank j = s.textWord a bank j) ∧
      (∀ j, t.textWord a (!bank) j = s.textWord a (!bank) j) ∧ (t.agent a).sqr.pc = (s.agent a).sqr.pc ∧
      (t.agent a).cores = (s.agent a).cores ∧ t.strands = s.strands ∧ t.mem = s.mem ∧ t.fab = s.fab ∧ t.parts = s.parts)) ∧
    (∀ x : Bool,
      let ready := (s.strand a.sk).enginesRun && s.engineReady a x
      (ready = false → goes (.engineWedge a x) s (fun t => t = s)) ∧
      (ready = true → goes (.engineWedge a x) s (fun t =>
        (∀ k : StrandKey, k.part = a.part → (t.strand k).st = .absent) ∧ (∀ k : StrandKey, k.part ≠ a.part → t.strand k = s.strand k) ∧
        (∀ j : AgentKey, j.part = a.part → t.agent j = Agent.init) ∧ (∀ j : AgentKey, j.part ≠ a.part → t.agent j = s.agent j) ∧
        t.mem = s.mem ∧ (t.part a.part).ctr = Counters.zero ∧ (t.part a.part).move = none ∧
        (t.part a.part).lay = (s.part a.part).lay ∧ (∀ p, p ≠ a.part → t.part p = s.part p) ∧
        (∀ y ∈ t.fab.slots, y.part ≠ a.part) ∧ (∀ y ∈ t.fab.outq, y.part ≠ a.part) ∧
        (∀ y ∈ s.fab.slots, y.part ≠ a.part → y ∈ t.fab.slots) ∧ (∀ y ∈ s.fab.outq, y.part ≠ a.part → y ∈ t.fab.outq) ∧
        -- page requests that are posted stay held until their response (R234)
        t.pageq.map (fun e => (e.1, e.2.rec_, e.2.part, e.2.reserved)) = s.pageq.map (fun e => (e.1, e.2.rec_, e.2.part, e.2.reserved)) ∧
        (∃ l, t.history = s.history ++ l) ∧
        ((s.vcps.map (·.1)).Nodup → ∀ v c, (v, c) ∈ s.vcps →
          (c.part.toNat ≠ a.part ∨ c.created = false → t.vcp v = c) ∧
          (c.part.toNat = a.part → c.created = true → v ∈ t.events ∧
            let i := if c.fenceSet then s.fenceWord c else 0
            t.vcp v = { c with
              head := i, tailSeen := i, fetched := [], nested := [], rep := none, wait := none, sig := none, active := false
              ask := .none, skip := [], refetch := 0, work := none })) ∧
        ∀ v ∈ s.events, v ∈ t.events))) ∧
    (∀ e n w, (s.agent a).issuedWord e n = some w →
      let x := s.strand a.sk
      let S := 2 ^ x.scode.toNat
      let R := goes (.shadowMismatch a e n) s
      let cuts := x.st ∈ [SState.running, .stalled, .frozen]
      (x.stime ≤ n ∨ n + (4 + S) / S < x.stime ∨ s.cyc.isSome = true ∨ x.st = .absent ∨ (s.agent a).unsent e w = false → R (fun t => t = s)) ∧
      (n < x.stime → x.stime ≤ n + (4 + S) / S → s.cyc = none → x.st ≠ .absent → (s.agent a).unsent e w = true → R (fun t =>
        let y := t.strand a.sk
        (x.st = .rephasing ∨ (cuts ∧ x.rpp = true ∧ x.cutDone = false) → y.st = .rephasing ∧ y.left = .frozen) ∧
        (cuts → x.rpp = false ∨ x.cutDone = true → y.st = .frozen) ∧
        (cuts ∨ x.st = .rephasing → y.freeze = some (13, 1) ∧ y.timer = false) ∧
        (¬ cuts → x.st ≠ .rephasing → y.st = x.st ∧
          y.freeze = if x.st ∈ [SState.evicting, .evicted, .admitted] then some (13, 1) else x.freeze) ∧
        y.stime = x.stime ∧ t.mem = s.mem ∧ a.row / 4 ∈ t.mgmt.suspects ∧
        (∀ j, j ≠ a → t.agent j = s.agent j) ∧ (∀ j, j ≠ a.sk → (t.strand j).st = (s.strand j).st) ∧
        (∃ r l, y.recs = x.recs ++ r :: l ∧ r.kind = 13 ∧ r.cause = 1 ∧ r.rep = 1 ∧ r.tidx = bv 14 w.idx ∧ r.bank = w.bank ∧
          r.word = w.word ∧ r.stc = bv 64 n) ∧
        (e = .agen → (t.agent a).acmds = (s.agent a).acmds.map (fun c => { c with held := c.held || decide (c.sc = n ∧ c.raw = w.word) })) ∧
        (e = .xchg → (t.agent a).xcmds = (s.agent a).xcmds.map (fun c => { c with held := c.held || decide (c.sc = n) })) ∧
        (e = .seq → t.agent a = s.agent a) ∧
        (e = .core →
          (∀ p, KV.get? (s.agent a).pipe n = some p → KV.get? (t.agent a).pipe n = some { p with held := true } ∧
            ∀ c ∈ (t.agent a).cores, ∀ z ∈ c.2.landing, z.issued = n →
              (match z.what with
                | .row _ v => v.pois = true
                | .unit _ v => v.pois = true
                | _ => True)) ∧
          ∀ p col pl q, (s.agent a).landed = p ++ (n, col, pl) :: q → (∀ f ∈ q, f.2 ≠ (col, pl)) →
            (((t.agent a).core col).place x.serial a.row col pl).pois = true))))

/-- THE END OF A LAUNCH (R63, R173, R203, R210, R245, R250, R252, R307): once every row has halted and the engines are done, every agent
takes its phase step and the strand is halted; a re-phase that is pending cuts first; a halted strand whose re-phase is pending waits
for its commit frame. A cancelled launch takes its phase steps from halted. Then the completion counters take 1, or 2^32 for a
cancelled launch, each by one step, and the strand is absent with its agents gone; counters that a step of their own has added to are
not added to again (log 37: the model's choice). -/
def Obligations.LaunchesEndInTwoSteps : Prop :=
  ∀ (s : State) (k : StrandKey),
    let x := s.strand k
    let P := goes (.launchEnd k) s
    let final := fun (t : State) => (t.strand k).st = .halted ∧ (t.strand k).finalDone = true ∧ (t.strand k).stime = x.stime ∧
      (∀ a ∈ s.agentsOf k, (t.agent a).b = []) ∧ (∀ j, j ≠ k → t.strand j = s.strand j) ∧ t.fab = s.fab ∧ t.parts = s.parts
    let done := ∀ a ∈ s.agentsOf k, (s.agent a).acmds = [] ∧ (s.agent a).xcmds = []
    (x.st = .running → (∀ a ∈ s.agentsOf k, (s.agent a).rowHalted = true) →
      (x.rpp = true → x.cutDone = false → P (fun t => (t.strand k).st = .rephasing ∧ (t.strand k).left = .running ∧
        (t.strand k).cutDone = true ∧ t.agents = s.agents ∧ t.mem = s.mem ∧ ∀ j, j ≠ k → t.strand j = s.strand j)) ∧
      (x.rpp = false ∨ x.cutDone = true → done → P final) ∧
      -- what remains in the engines is waited for, except an open RECV and what can never go on
      (x.rpp = false ∨ x.cutDone = true → (∃ a ∈ s.agentsOf k, ∃ c ∈ (s.agent a).xcmds, c.fin = false ∧ ∀ d g, c.ins ≠ .recv d g) →
        P (fun t => (t.strand k).st = .running ∧ (t.strand k).finalDone = x.finalDone ∧ t.mem = s.mem))) ∧
    (x.st = .running → (∃ a ∈ s.agentsOf k, (s.agent a).rowHalted = false) → P (fun t => t = s)) ∧
    (x.st ∉ [SState.running, .halted] → P (fun t => t = s)) ∧
    (x.st = .halted → x.cutDone = true → P (fun t => t = s)) ∧
    (x.st = .halted → x.cutDone = false → x.finalDone = false → done → P final) ∧
    -- the counters that remain, where a step of its own has taken some
    (∀ w, x.st = .halted → x.cutDone = false → x.finalDone = true → x.work = some w → w.ins = .launchEnd k → w.begun = true →
      P (fun t => t.mem = (s.hostAdds k.part x.l.td0 w.left).mem ∧ t.strand k = Strand.absent ∧
        (∀ a : AgentKey, a.sk = k → KV.get? t.agents a = none) ∧ (∀ j, j ≠ k → t.strand j = s.strand j))) ∧
    ∀ a1, x.st = .halted → x.cutDone = false → x.finalDone = true → x.work = none → s.phys = [] → s.memOk → (s.td0Addr k.part x.l.td0 x.l.ccnt).1 = some a1 →
      let n : Word := if x.cancelled.isSome then 0x100000000 else 1
      let add := fun (u : State) (b : Nat) => u.gWrite [(b, u.mem.word b + n, u.mem.poisAt b)]
      let apart := fun (b c : Nat) => b + 8 ≤ c ∨ c + 8 ≤ b
      -- each counter takes n, no other byte changes, and the launch is gone
      let ends := fun (bs : List Nat) => P (fun t => (∀ b ∈ bs, t.mem.word b = s.mem.word b + n) ∧
        (∀ y, (∀ b ∈ bs, y < b ∨ b + 8 ≤ y) → t.mem.byte y = s.mem.byte y) ∧
        t.strand k = Strand.absent ∧ (∀ a : AgentKey, a.sk = k → KV.get? t.agents a = none) ∧
        (∀ a : AgentKey, a.sk ≠ k → t.agent a = s.agent a) ∧ (∀ j, j ≠ k → t.strand j = s.strand j))
      (x.l.gcnt = 0 → x.l.jcnt = 0 → ends [a1]) ∧
      (∀ a2, x.l.gcnt ≠ 0 → x.l.jcnt = 0 → ((add s a1).td0Addr k.part x.l.td0 x.l.gcnt).1 = some a2 → apart a1 a2 → ends [a1, a2]) ∧
      (∀ a3, x.l.gcnt = 0 → x.l.jcnt ≠ 0 → ((add s a1).td0Addr k.part x.l.td0 x.l.jcnt).1 = some a3 → apart a1 a3 → ends [a1, a3]) ∧
      (∀ a2 a3, x.l.gcnt ≠ 0 → x.l.jcnt ≠ 0 → ((add s a1).td0Addr k.part x.l.td0 x.l.gcnt).1 = some a2 →
        ((add (add s a1) a2).td0Addr k.part x.l.td0 x.l.jcnt).1 = some a3 → apart a1 a2 → apart a1 a3 → apart a2 a3 → ends [a1, a2, a3])

/-! ## The fabric -/

/-- FRAGMENTS OUT AND IN (R261, R263–R265, R268–R271, R280, R324): the oldest fragment that may leave does: within the device it comes
to the decode unit in this mesh cycle, on a plane that is down it is dropped, else it goes out and is charged; a forwarded fragment has one more hop, and a check
word that did not match still does not; a group's fragment is copied by the group's entry and arrives here where the entry has loc
set; a fragment is counted where it is not stored, and else stands in a slot, which decodes with its k-th fragment (which partition's counter
counts is read by inference, log 42). What tells an item of another device's AGEN, whose fragment needs no admitted agent, is the model's choice
(log 29), and so are that what waits within a class may pass what may not leave, and the number of what stays within the device (log 61); what
dtime an entry of the accession table takes is its reading (log 51). -/
def Obligations.FragmentsLeaveAndArrive : Prop :=
  ∀ (s : State) (n : Nat) (f : Frag),
    let p := f.dpart.toNat
    (∀ part cls,
      let P := goes (.fragmentSend part n cls) s
      (∀ o, s.mayLeave part n cls o = true ↔ o.part = part ∧ o.f.cls.toNat = cls ∧ (o.within = true ∨
        (o.f.plane.toNat = n ∧ (s.planeDown n = true ∨ o.charged = false ∨ s.underQuota part n cls = true)))) ∧
      (s.underQuota part n cls = true ↔ (KV.getD (s.part part).sentBytes (n, cls) 0 + 544) * 4096 ≤
        bits ((s.part part).fq[(bv 3 n).toFin]) (8 * cls + 7) (8 * cls) * (s.part part).lay.pshare.toNat *
          ((List.range 4).map (fun i => let g := s.fab.ports[(bv 5 (4 * n + i)).toFin]
            if g = 1 then 56000 else if g = 2 then 112000 else 0)).sum) ∧
      ((∀ o ∈ s.fab.outq, s.mayLeave part n cls o = false) → P (fun t => t = s)) ∧
      ∀ b o l, s.fab.outq = b ++ o :: l → (∀ e ∈ b, s.mayLeave part n cls e = false) → s.mayLeave part n cls o = true → o.owner = none →
        (o.within = true → P (fun t => t = ({ s with
          fab := { s.fab with outq := b ++ l, inside := s.fab.inside ++ [o] }
          pending := s.pending ++ [(s.now, .fragmentReceive 8 o.f)] } : State).count part (fun c => { c with ftx := c.ftx + 1 }))) ∧
        (o.within = false → s.planeDown n = true → P (fun t => t = ({ s with fab := { s.fab with outq := b ++ l } } : State).count part
          (fun c => { c with ftxDrop := c.ftxDrop + 1 }))) ∧
        (o.within = false → s.planeDown n = false → P (fun t =>
          t.fab = { s.fab with outq := b ++ l, wire := t.fab.wire } ∧
          (o.f.grp = false → t.fab.wire = s.fab.wire ++ [(o.f.plane.toNat, o.f)]) ∧
          (o.f.grp = true → ∃ w, t.fab.wire = s.fab.wire ++ w ∧ w.length = ((List.range 4).filter (fun i =>
            (KV.getD s.fab.groups o.f.dst.toNat 0).getLsbD (4 * o.f.plane.toNat + i))).length ∧ ∀ e ∈ w, e = (o.f.plane.toNat, o.f)) ∧
          (t.part part).ctr = { (s.part part).ctr with ftx := (s.part part).ctr.ftx + 1 } ∧
          KV.getD (t.part part).sentBytes (n, cls) 0 = KV.getD (s.part part).sentBytes (n, cls) 0 + (if o.charged then 544 else 0) ∧
          (∀ q, q ≠ part → t.part q = s.part q) ∧ t.agents = s.agents ∧ t.mem = s.mem))) ∧
    goes .fabricQuotaWindow s (fun t => t = { s with parts := t.parts } ∧ ∀ q, (t.part q).sentBytes = [] ∧ (t.part q).fq = (s.part q).fq) ∧
    -- a fragment on its way through
    (let hop := ({ f with hops := f.hops + 1, crc := (hopFrag f).crc } : Frag)
     hopFrag f = hop ∧ ((hopFrag f).crc = fragCrc (hopFrag f) ↔ f.crc = fragCrc f) ∧
     (∀ port, f.grp = false → 62 ≤ f.hops.toNat → goes (.fragmentForward port f) s (fun t => t = s.count p (fun c => { c with fhop := c.fhop + 1 }))) ∧
     (∀ port, f.grp = false → f.hops.toNat < 62 → goes (.fragmentForward port f) s (fun t => t = { s with fab := { s.fab with
       wire := s.fab.wire ++ [(port / 4, hop)] } })) ∧
     (f.grp = true → ∀ port, ∀ i ∈ [Instr.fragmentReceive f.plane.toNat f, .fragmentForward port f],
       let e := KV.getD s.fab.groups f.dst.toNat 0
       let w := ((List.range 4).filter (fun j => e.getLsbD (4 * f.plane.toNat + j))).map (fun _ => (f.plane.toNat, hop))
       let u := if w = [] then s else if 62 ≤ f.hops.toNat then s.count p (fun c => { c with fhop := c.fhop + 1 })
         else { s with fab := { s.fab with wire := s.fab.wire ++ w } }
       goes i s (fun t => t = if e.getLsbD 62 then u.arrive f.plane.toNat f else u))) ∧
    -- held fragments
    ((∀ d ∈ s.fab.delayed, d.plane ≠ n ∨ s.fab.ftime < d.until_) → goes (.fdelayRelease n) s (fun t => t = s)) ∧
    (∀ b d l, s.fab.delayed = b ++ d :: l → d.plane = n → d.until_ ≤ s.fab.ftime →
      (∀ e ∈ b, e.plane = n → e.until_ ≤ s.fab.ftime → d.f.fidx.toNat < e.f.fidx.toNat) →
      (∀ e ∈ l, e.plane = n → e.until_ ≤ s.fab.ftime → d.f.fidx.toNat ≤ e.f.fidx.toNat) → goes (.fdelayRelease n) s (fun t =>
        t = ({ s with fab := { s.fab with delayed := b ++ l } } : State).handleFrag d.f)) ∧
    -- arriving
    (let i := (bv 3 n).toFin
     let R := goes (.fragmentReceive n f) s
     -- within the device: no plane, register or hop is its own (R324)
     (8 ≤ n → ((∀ e ∈ s.fab.inside, e.f ≠ f) → R (fun t => t = s)) ∧
       ∀ b o l, s.fab.inside = b ++ o :: l → o.f = f → (∀ e ∈ b, e.f ≠ f) → R (fun t =>
         t = ({ s with fab := { s.fab with inside := b ++ l } } : State).handleFrag f o.from_)) ∧
     (n < 8 → f.grp = false →
       (diagMatch s.fab.fdrop[i] f = true → R (fun t => t = s.count p (fun c => { c with fdiag := c.fdiag + 1 }))) ∧
       (diagMatch s.fab.fdrop[i] f = false → diagMatch s.fab.fdelay[i] f = true → R (fun t => t = { s with fab := { s.fab with
         delayed := s.fab.delayed ++ [⟨n, s.fab.ftime + 1000 * bits s.fab.fdelay[i] 33 24, f⟩] } })) ∧
       (diagMatch s.fab.fdrop[i] f = false → diagMatch s.fab.fdelay[i] f = false → R (fun t => t = s.handleFrag f)))) ∧
    -- being handled
    (∀ from_ : Option Origin,
     let t := s.handleFrag f from_
     let key := fragKey f
     (malformed f = true ↔ 7 ≤ f.op.toNat ∨ f.k = 0 ∨ 16 < f.k.toNat ∨ 8 < f.m.toNat ∨ f.k.toNat + f.m.toNat ≤ f.fidx.toNat ∨
       f.rsv = true) ∧
     (f.crc ≠ fragCrc f → t = s.count p (fun c => { c with fcrc := c.fcrc + 1 })) ∧
     (f.crc = fragCrc f → malformed f = true → t = s.count p (fun c => { c with fmal := c.fmal + 1 })) ∧
     (f.crc = fragCrc f → malformed f = false →
       (∀ a, s.fab.acc.find? (fun a => a.key = key) = some a →
         (t.part p).ctr = (if a.norcv then { (s.part p).ctr with fnorcv := (s.part p).ctr.fnorcv + 1 }
           else { (s.part p).ctr with flate := (s.part p).ctr.flate + 1 }) ∧ t.fab.slots = s.fab.slots ∧
         (a.later = false ∨ f.rty = true → t.fab = s.fab) ∧
         (a.later = true → f.rty = false → t.fab.acc.find? (fun a => a.key = key) = some { a with dtime := f.dtime, later := false })) ∧
       ((∀ a ∈ s.fab.acc, a.key ≠ key) →
         (s.admitted (fragDst f) = false → isItem from_ f = false → (t.part p).ctr = { (s.part p).ctr with fnorcv := (s.part p).ctr.fnorcv + 1 } ∧
           t.fab.slots = s.fab.slots ∧
           (let told := f.op = 1 ∨ f.op = 2 ∨ f.op = 4 ∨ (f.op = 0 ∧ f.rty = true)
            (¬ told → t.fab = s.fab) ∧
            (told → t.fab.acc = s.fab.acc ++ [⟨key, p, f.dtime, true, false, f.opnd.setWidth 32⟩] ∧
              ∃ outs, outs ≠ [] ∧ t.fab.outq = s.fab.outq ++ outs ∧ ∀ o ∈ outs, o.f.op = 5 ∧ o.f.opnd = 4 ∧ o.charged = false))) ∧
         (s.admitted (fragDst f) = true ∨ isItem from_ f = true →
           (s.slot? key = none →
             (s.passedBefore p f.dtime = true → t = s.count p (fun c => { c with fexp := c.fexp + 1 })) ∧
             (s.passedBefore p f.dtime = false → s.shareFree p true = false → t = s.count p (fun c => { c with fnoslot := c.fnoslot + 1 })) ∧
             (s.passedBefore p f.dtime = false → s.shareFree p true = true →
               (1 < f.k.toNat → (t.part p).ctr = { (s.part p).ctr with frx := (s.part p).ctr.frx + 1 } ∧ ∃ x, t.fab.slots = s.fab.slots ++ [x] ∧
                 x.key = key ∧ x.part = p ∧ x.st = .collecting ∧ x.frags = [f] ∧ x.dtime = f.dtime ∧ x.rty = f.rty ∧ x.from_ = from_) ∧
               (f.k = 1 → (t.part p).ctr = decodePath f [f] { (s.part p).ctr with frx := (s.part p).ctr.frx + 1 } ∧
                 ∃ x, t.slot? key = some x ∧ x.st = .decoded ∧ x.hdr = f ∧ (x.msg, x.pois) = decodeFrags f [f] ∧
                   (x.entered = true ↔ s.fab.acc.length < 16384)))) ∧
           (∀ x, s.slot? key = some x → x.part = p → (x.resendBy = none ∨ x.gotResent = true ∨ f.rty = true) →
             (x.st ≠ .collecting ∨ x.hdr.k.toNat ≤ x.frags.length ∨ (∃ g ∈ x.frags, g.fidx = f.fidx) →
               t = s.count p (fun c => { c with flate := c.flate + 1 })) ∧
             (x.st = .collecting → x.frags.length < x.hdr.k.toNat → (∀ g ∈ x.frags, g.fidx ≠ f.fidx) →
               (s.shareFree p false = false → t = s.count p (fun c => { c with fnoslot := c.fnoslot + 1 })) ∧
               (s.shareFree p false = true → x.frags.length + 1 < x.hdr.k.toNat →
                 (t.part p).ctr = { (s.part p).ctr with frx := (s.part p).ctr.frx + 1 } ∧ t.slot? key = some { x with frags := x.frags ++ [f] }) ∧
               (s.shareFree p false = true → x.frags.length + 1 = x.hdr.k.toNat →
                 (t.part p).ctr = decodePath x.hdr (x.frags ++ [f]) { (s.part p).ctr with frx := (s.part p).ctr.frx + 1 } ∧
                 ∃ y, t.slot? key = some y ∧ y.st = .decoded ∧ y.frags = x.frags ++ [f] ∧
                   (y.msg, y.pois) = decodeFrags x.hdr (x.frags ++ [f])))) ∧
           -- the first resent fragment gives the slot its new deadline, stored or not (R274)
           (∀ x, s.slot? key = some x → x.resendBy.isSome = true → x.gotResent = false → f.rty = false → x.st = .collecting →
             x.frags.length + 1 < x.hdr.k.toNat → ∃ y, t.slot? key = some y ∧ y.gotResent = true ∧ y.dtime = f.dtime)))))

/-- DELIVERY, LOSS AND RESEND (R190, R271, R273–R276): a message for q12 or q13 appends its beats as far as there is room and, with the
last, completes its RECV and tells a sender that asked for it; one for a locator is written there; an XWR is written, an XRD is
answered with the bytes read word by word under the code it names, and an XAT adds in one step, at the locator they name, and a place
that fails its check is reported; one whose deadline passes is
asked for once if it may be, within 1,023 us of that deadline, else it is lost, counted and recorded; what carries data is then delivered as
poisoned zeros, and with that it is reported, or at once where nothing is to land; a resend request makes XCHG send again with rty = 0, once, and
is discarded where the command is done. The report's own fields (log 41), the words of an XRD request (log 30) and who is the writer of core
storage (log 38) are the model's readings; its choices are that the words of a read go one by one (log 37), that a place on a remote-home frame
is reported with cause 9 (log 71), and when a loss is reported (log 91). -/
def Obligations.MessagesAreDeliveredResentOrLost : Prop :=
  ∀ (s : State) (key : MKey) (x : Slot), s.slot? key = some x →
    let k := fragDst x.hdr
    let told := fun (t : State) (op status : Nat) => ∃ outs, outs ≠ [] ∧ t.fab.outq = s.fab.outq ++ outs ∧ ∀ o ∈ outs,
      o.f.op = bv 4 op ∧ o.f.opnd = bv 64 status ∧ o.f.mseq = x.hdr.mseq ∧ o.charged = false ∧ fragDst o.f = fragSrc x.hdr ∧
        o.f.dst = x.hdr.src ∧ o.f.dtime = dtimeOf (s.fab.ftime + 1023000)
    let away := (s.strand k.sk).st = .absent
    let room := s.fab.acc.length < 16384
    -- of what is lost, requests, reports and what is for an ended launch land nothing
    let noData := x.hdr.op.toNat = 2 ∨ 4 ≤ x.hdr.op.toNat ∨ (away ∧ x.isItem = false)
    let reported := fun (t : State) => t.slot? key = none ∧ (x.hdr.op.toNat < 5 → told t 5 1) ∧ (5 ≤ x.hdr.op.toNat → t.fab.outq = s.fab.outq)
    let lost := fun (t : State) => (t.part x.part).ctr = { (s.part x.part).ctr with floss := (s.part x.part).ctr.floss + 1 } ∧
      (¬ away → noted k.sk s t 10 0x20 4 x.hdr.mseq.toNat) ∧ (away → t.strands = s.strands) ∧
      (noData → room → reported t) ∧
      (¬ (noData ∧ room) → t.fab.outq = s.fab.outq ∧ ∃ y, t.slot? key = some y ∧ y.st = .decoded ∧ y.lost = true ∧ y.hdr = x.hdr ∧
        (y.entered = true ↔ room) ∧ y.msg = List.replicate (64 * (x.hdr.ln.toNat + 1)) 0 ∧
        y.pois = List.replicate (x.hdr.ln.toNat + 1) true)
    let D := goes (.messageDelivery key) s
    (x.st = .collecting → D (fun t => t = s)) ∧
    (x.st ≠ .collecting → x.page = .none → x.entered = false → ¬ room → D (fun t => t = s)) ∧
    (x.st ≠ .collecting → x.page = .none → x.lost = true → noData → x.entered = true ∨ room → D reported) ∧
    (∀ c tag (q13 : Bool), x.st ≠ .collecting → x.page = .none → x.entered = true → (s.strand k.sk).enginesRun = true → x.hdr.op = 0 →
      (s.agent k).recvFor x = some c → c.ins = .recv (if q13 then .q13 else .q12) tag → (s.agent k).haltX = false → c.page = .none →
      let n := if q13 then 13 else 12
      let b := (s.agent k).q.beat n
      let room := b.depth - (b.items.length + b.kept)
      let es := (messageBeats (slotBytes x) x.lost).drop x.prog
      D (fun t => ((t.agent k).q.beat n).items = b.items ++ es.take room ∧ t.mem = s.mem ∧ (t.agent k).cores = (s.agent k).cores ∧
        (es.length ≤ room → t.slot? key = none ∧ (∀ y ∈ (t.agent k).xcmds, y.seq = c.seq → y.fin = true) ∧
          ((s.agent k).xcmds = [c] → (t.agent k).xcmds = [] ∧ (t.agent k).tcx = c.seq) ∧
          (x.lost = true → told t 5 1) ∧ (x.lost = false → x.rty = true → told t 5 0) ∧
          (x.lost = false → x.rty = false → t.fab.outq = s.fab.outq)) ∧
        (room < es.length → (t.agent k).tcx = (s.agent k).tcx ∧ ∃ y, t.slot? key = some y ∧ y.st = .delivering ∧
          y.prog = x.prog + room ∧ y.recvSeq = some c.seq))) ∧
    (∀ c d tag rs s1, x.st ≠ .collecting → x.page = .none → x.entered = true → (s.strand k.sk).enginesRun = true → x.hdr.op = 0 →
      (s.agent k).recvFor x = some c → c.ins = .recv (.loc d) tag → (s.agent k).haltX = false → c.page = .none → c.acc = none →
      lKind c.adst < 2 →
      let u := (s.setX k { c with delivering := true }).setSlot { x with st := .delivering, recvSeq := some c.seq, entered := true }
      u.place k true c.seq c.adst (slotBytes x).length 32 [0, 1, 2, 3] true = (.runs rs, s1) → D (fun t => t.slot? key = none ∧
        (t.agent k).cores = ((s1.writeCorePlace k (.own true c.seq) c.adst (slotBytes x)).agent k).cores ∧ t.mem = s.mem ∧
        (∀ y ∈ (t.agent k).xcmds, y.seq = c.seq → y.fin = true) ∧
        ((s.agent k).xcmds = [c] → (t.agent k).xcmds = [] ∧ (t.agent k).tcx = c.seq) ∧
        (x.lost = true → told t 5 1) ∧ (x.lost = false → x.rty = true → told t 5 0))) ∧
    -- XWR, XRD and XAT at a locator
    (x.st ≠ .collecting → x.page = .none → x.entered = true → (s.strand k.sk).enginesRun = true → x.isItem = false →
      let u := s.setSlot x
      let l := x.hdr.opnd
      let gone := fun (t : State) => t.slot? key = none
      let stops := fun (r : Loc × State) =>
        (∀ e, r.1 = .fault e → D (fun t => t.mem = r.2.mem ∧ gone t ∧ told t 5 (if x.lost then 1 else 3 + 256 * e))) ∧
        (∀ e p m, r.1 = .remote e p m → D (fun t => t.mem = r.2.mem ∧ gone t ∧ told t 5 (if x.lost then 1 else 3 + 256 * 9))) ∧
        (∀ q g, r.1 = .page q g → D (fun t => t.mem = r.2.mem ∧ told t 5 2 ∧ ∃ y, t.slot? key = some y ∧ y.page ≠ .none ∧ y.msg = x.msg))
      (x.hdr.op = 1 →
        let r := u.place k false x.hdr.mseq.toNat l (slotBytes x).length 32 [0, 1, 2, 3] true
        stops r ∧ ∀ rs, r.1 = .runs rs → r.2.phys = [] → D (fun t => gone t ∧ told t 5 (if x.lost then 1 else 0) ∧
          -- a word that is written notes what its sender had observed (R206)
          (2 ≤ lKind l → t.mem = (r.2.gWrite (runWords rs (slotBytes x))).mem ∧ (t.agent k).cores = (s.agent k).cores ∧
            ∀ w ∈ runWords rs (slotBytes x), ∃ n, KV.get? t.flags w.1 = some [(x.sender, n)]) ∧
          (lKind l < 2 → t.mem = s.mem ∧
            (t.agent k).cores = ((r.2.writeCorePlace k (r.2.writerOf k x) l (slotBytes x)).agent k).cores))) ∧
      (x.hdr.op = 2 → x.lost = false →
        let r := u.place k false x.hdr.mseq.toNat l (64 * (x.hdr.ln.toNat + 1)) 32 [0, 1, 2, 3] false
        let w := fun i => natOfBytes ((x.msg.drop (8 * i)).take 8)
        let replies := fun (t : State) (b : List PByte) => let B := padTo (64 * (x.hdr.ln.toNat + 1)) b
          gone t ∧ ∃ outs, t.fab.outq = s.fab.outq ++ outs ∧
            (∀ o ∈ outs, o.f.op = 3 ∧ o.f.mseq = x.hdr.mseq ∧ o.f.k = bv 5 (w 0) ∧ o.f.m = x.hdr.m ∧ o.f.dst = x.hdr.src ∧
              fragDst o.f = fragSrc x.hdr ∧ o.f.dtime = dtimeOf (s.fab.ftime + 1000 * w 1)) ∧
            ∀ i, i < w 0 → ∃ o ∈ outs, o.f.fidx = bv 5 i ∧ o.f.payload = bv 4096 (natOfBytes (((B.drop (512 * i)).take 512).map (·.1)))
        (x.acc = none → stops r) ∧
        (∀ rs, x.acc = none → r.1 = .runs rs → lKind l < 2 → r.2.phys = [] → D (fun t => t.mem = s.mem ∧
          replies t ((r.2.agent k).readCorePlace (r.2.strand k.sk).serial k.row ((r.2.agent k).seqX + 1) r.2.fresh l
            (64 * (x.hdr.ln.toNat + 1))))) ∧
        ∀ (a : Access) (s1 : State), (x.acc = none ∧ r = (.runs a.at_, s1) ∧ 2 ≤ lKind l ∧ a.got = [] ∧ a.put = 0) ∨
          (x.acc = some a ∧ s1 = u) → ∃ n, 1 ≤ n ∧
            let q := s1.draw.2.readPieces none (a.todo.take n)
            ((a.todo.drop n).isEmpty = true → D (fun t => t.mem = q.2.mem ∧ replies t (a.got ++ q.1))) ∧
            ((a.todo.drop n).isEmpty = false → D (fun t => t.mem = q.2.mem ∧ t.fab.outq = s.fab.outq ∧
              t.slot? key = some { x with acc := some ⟨a.at_, a.got ++ q.1, a.put + n⟩ }))) ∧
      (x.hdr.op = 4 → x.lost = false →
        let r := u.place k false x.hdr.mseq.toNat l 8 8 [2] true
        stops r ∧ ∀ a n rs, r.1 = .runs ((a, n) :: rs) → r.2.phys = [] → r.2.memOk → a % 8 = 0 → D (fun t => gone t ∧ told t 5 0 ∧
          t.mem.num a 8 = (r.2.mem.num a 8 + natOfBytes (x.msg.take 8)) % 2 ^ 64 ∧
          ∀ y, y < a ∨ a + 8 ≤ y → t.mem.byte y = r.2.mem.byte y))) ∧
    -- the deadline passes
    (x.st = .collecting → s.passedBefore x.part x.dtime = false → goes (.slotDeadlineExpiry key) s (fun t => t = s)) ∧
    (x.st = .collecting → s.passedBefore x.part x.dtime = true →
      let E := goes (.slotDeadlineExpiry key) s
      (x.rty = true → x.resendBy = none → E (fun t =>
        (t.part x.part).ctr = { (s.part x.part).ctr with frsq := (s.part x.part).ctr.frsq + 1 } ∧ told t 6 0 ∧
        ∃ T, t.slot? key = some { x with resendBy := some (T + 1023000) } ∧
          ((dtimeOf s.fab.ftime - x.dtime).toNat ≤ s.fab.ftime / 64 →
            T ≤ s.fab.ftime ∧ T % 64 = 0 ∧ dtimeOf T = x.dtime ∧ s.fab.ftime < T + 64 * 32768))) ∧
      (x.rty = false → x.resendBy = none → E lost) ∧
      (x.resendBy.isSome = true → x.gotResent = true → E lost) ∧
      (x.resendBy.isSome = true → x.gotResent = false → E (fun t => t = s))) ∧
    (∀ T, x.st = .collecting → x.resendBy = some T → x.gotResent = false →
      (T < s.ftimeStart x.part → goes (.resendWaitExpiry key) s lost) ∧
      (s.ftimeStart x.part ≤ T → goes (.resendWaitExpiry key) s (fun t => t = s))) ∧
    -- a resend request takes effect at the sender
    (∀ f, fragKey f = key → f.op = 6 → x.st ≠ .collecting →
      let R := goes (.resendRequestReceive f) s
      let g := fragDst f
      (x.entered = false → 16384 ≤ s.fab.acc.length → R (fun t => t = s)) ∧
      (x.entered = true →
        ((s.agent g).byMseq f.mseq.toNat = none ∨ x.lost = true → R (fun t => t = s.dropSlot key)) ∧
        (∀ c, (s.agent g).byMseq f.mseq.toNat = some c → x.lost = false →
          (c.resent = true ∨ c.resend = true ∨ c.crt.rty = false → R (fun t => t = s.dropSlot key)) ∧
          (c.resent = false → c.resend = false → c.crt.rty = true → R (fun t => t.slot? key = none ∧
            (t.agent g).xcmds = (s.agent g).xcmds.map (fun y => if y.seq = c.seq then { c with resend := true, acc := none, frames := y.frames } else y) ∧
            t.fab.outq = s.fab.outq ∧ t.mem = s.mem))))) ∧
    (∀ g n c m, (s.agent g).xcmds.find? (fun c => c.seq = n) = some c → c.ins = .xat m → c.resend = true → c.fin = false →
      (s.agent g).haltX = false → c.held = false → c.page = .none → (s.agent g).heldBack n = false → (c.wtk = true → c.took = true) →
      (s.strand g.sk).enginesRun = true → s.badEndpoint c.ae m.mc = false → goes (.xchgCommandPerform g n) s (fun t =>
        (∀ y ∈ (t.agent g).xcmds, y.seq = n → y.resent = true ∧ y.resend = false ∧ y.sent = true ∧
          y.deadline = s.fab.ftime + 2000 * c.crt.ddl) ∧
        ∃ outs, outs ≠ [] ∧ t.fab.outq = s.fab.outq ++ outs ∧ ∀ o ∈ outs, o.f.op = 4 ∧ o.f.rty = false ∧ o.f.mseq = bv 32 n ∧
          o.f.dtime = dtimeOf (s.fab.ftime + 1000 * c.crt.ddl) ∧ o.f.opnd = c.adst))

/-- REPORTS, DEADLINES, FABRIC TIME AND PORTS (R260, R272, R275–R277, R279, R296): what each status does to the command it is about; a
report waits where the accession table is full; a report deadline that passes completes the command with a record, and an XRD is to
write its place as poisoned first; an entry of the table goes once its time has passed; a time-sync beat reports its offset, moves
fabric time on by at most 1 ns or holds 1 ns back, once in 10 us, so that it never goes back (how it is slewed is the model's choice,
log 10); a port takes its new state. -/
def Obligations.ReportsAndFabricStateAdvance : Prop :=
  ∀ s : State,
    (∀ f x, s.slot? (fragKey f) = some x → f.op = 5 → x.st ≠ .collecting →
      let P := goes (.reportReceive f) s
      let k := fragDst f
      let status := f.opnd.toNat % 256
      let gone := fun (t : State) => t.slot? (fragKey f) = none ∧ t.mem = s.mem ∧ (t.agent k).cores = (s.agent k).cores
      (x.entered = false → 16384 ≤ s.fab.acc.length → P (fun t => t = s)) ∧
      (x.entered = true ∨ s.fab.acc.length < 16384 →
        (x.lost = true → P (fun t => gone t ∧ t.agents = s.agents ∧ t.strands = s.strands)) ∧ (x.lost = false →
        (status = 5 → P (fun t => gone t ∧ t.agents = s.agents ∧ ∃ r, (t.strand k.sk).recs = (s.strand k.sk).recs ++ [r] ∧ r.kind = 15 ∧
          r.rep = 4 ∧ r.seq = bv 64 (bits f.opnd 47 16) ∧ r.op1 = f.mseq.setWidth 64 ∧ r.op0 = f.src.setWidth 64)) ∧
        ∀ c, (s.agent k).byMseq f.mseq.toNat = some c →
          let who := { fragKey f with mseq := 0, rep := none }
          let rs := if who ∈ c.reports then c.reports else c.reports ++ [who]
          let becomes := fun (t : State) (d : XCmd) =>
            (t.agent k).xcmds = (s.agent k).xcmds.map (fun y => if y.seq = c.seq then { d with frames := y.frames } else y)
          let counted := fun (t : State) => (rs.length < c.need → becomes t { c with reports := rs }) ∧
            (c.need ≤ rs.length → (∀ y ∈ (t.agent k).xcmds, y.seq = c.seq → y.fin = true) ∧
              ((s.agent k).xcmds = [c] → c.tok = false → (t.agent k).xcmds = [] ∧ (t.agent k).tcx = c.seq))
          (status = 0 → P (fun t => gone t ∧ counted t ∧ t.strands = s.strands)) ∧
          (status = 1 → P (fun t => gone t ∧ noted k.sk s t 10 0x20 3 c.seq ∧
            ((∃ m, c.ins = .xrd m) → becomes t { c with lostRep := true, acc := none }) ∧ ((∀ m, c.ins ≠ .xrd m) → counted t))) ∧
          (status = 2 → P (fun t => gone t ∧ becomes t { c with heldRep := true } ∧ t.strands = s.strands)) ∧
          (status = 3 → P (fun t => gone t ∧ (t.agent k).haltX = true ∧ becomes t { c with sent := false, reports := [], halted := true } ∧
            ∃ r, (t.strand k.sk).recs = (s.strand k.sk).recs ++ [r] ∧ r.kind = 9 ∧ r.cause = 0x12 ∧ r.rep = 3 ∧
              r.aux = bv 32 (f.opnd.toNat / 256 % 256))) ∧
          (status = 4 → P (fun t => gone t ∧ (t.agent k).haltX = true ∧ becomes t { c with sent := false, reports := [], halted := true } ∧
            noted k.sk s t 9 0x13 3 c.seq))))) ∧
    (∀ a n c, (s.agent a).xcmds.find? (fun c => c.seq = n) = some c →
      let P := goes (.reportDeadlineExpiry a n) s
      let due := c.sent = true ∧ c.fin = false ∧ c.need ≠ 0 ∧ c.heldRep = false ∧ c.lostRep = false ∧ c.halted = false ∧
        c.deadline < s.fab.ftime ∧ ∀ x ∈ s.fab.slots, ¬ (x.st ≠ .collecting ∧ x.hdr.op = 3 ∧ fragDst x.hdr = a ∧
          x.hdr.mseq.toNat = c.seq % 2 ^ 32)
      (¬ due → P (fun t => t = s)) ∧
      (due → (∀ m, c.ins ≠ .xrd m) → P (fun t => t.mem = s.mem ∧ noted a.sk s t 10 0x20 3 n ∧ t.fab = s.fab ∧
        (∀ y ∈ (t.agent a).xcmds, y.seq = n → y.fin = true) ∧
        ((s.agent a).xcmds = [c] → c.tok = false → (t.agent a).xcmds = [] ∧ (t.agent a).tcx = n))) ∧
      (due → (∃ m, c.ins = .xrd m) → P (fun t => t.mem = s.mem ∧ noted a.sk s t 10 0x20 3 n ∧ t.fab = s.fab ∧
        (t.agent a).xcmds = (s.agent a).xcmds.map (fun y => if y.seq = n then { c with lostRep := true, acc := none } else y)))) ∧
    (∀ key, goes (.accessionEntryExpiry key) s (fun t => t = { s with fab := { s.fab with acc := t.fab.acc } } ∧
      (∀ e ∈ t.fab.acc, e ∈ s.fab.acc ∧ ¬ (e.key = key ∧ s.passedBefore e.part e.dtime = true)) ∧
      ∀ e ∈ s.fab.acc, e.key ≠ key ∨ s.passedBefore e.part e.dtime = false → e ∈ t.fab.acc)) ∧
    (∀ o, goes (.timeSyncBeat o) s (fun t => t.fab.ftoff = o ∧
      t = { s with fresh := t.fresh, fab := { s.fab with
        ftoff := t.fab.ftoff, ftime := t.fab.ftime, lag := t.fab.lag, slewAt := t.fab.slewAt } } ∧
      (s.now < s.fab.slewAt → t = { s with fab := { s.fab with ftoff := o } }) ∧
      (s.fab.slewAt ≤ s.now → t.fab.slewAt = s.now + 10000 * 1938 ∧
        ((t.fab.ftime = s.fab.ftime + 1 ∧ t.fab.lag = s.fab.lag) ∨
         (t.fab.ftime = s.fab.ftime ∧ (t.fab.lag = s.fab.lag ∨ t.fab.lag = 1)))))) ∧
    (∀ u, let t := s.advanceTo u; let ns := max s.now u / 1938 - s.now / 1938
      t = { s with now := max s.now u, fab := { s.fab with ftime := t.fab.ftime, lag := t.fab.lag } } ∧
      s.fab.ftime ≤ t.fab.ftime ∧ t.fab.ftime + s.fab.lag = s.fab.ftime + ns + t.fab.lag ∧ (t.fab.lag = 0 ∨ t.fab.ftime = s.fab.ftime)) ∧
    (∀ (p : Nat) (g : BitVec 2), g = 3 ∨ 32 ≤ p → goes (.portStateChange p g) s (fun t => t = s)) ∧
    (∀ (p : Fin 32) (g : BitVec 2), g ≠ 3 → goes (.portStateChange p.val g) s (fun t => t = { s with fab := { s.fab with ports := t.fab.ports } } ∧
      t.fab.ports[p] = g ∧ ∀ q : Fin 32, q ≠ p → t.fab.ports[q] = s.fab.ports[q]))

/-! ## Tests, eviction, memories -/

/-- IN-FIELD TESTS (R247, R256, R295): a failing quad is suspect and its test strand is gone; a passing quad is neither suspect
nor overdue and its window starts now; a TEST that admission takes runs in a strand of stride 16 that collides with none, and
one that finds no strand or is refused is overdue, and the next TEST of the quad may take it. No launch is moved, stopped or lost.
Which strand a test takes, the lowest that is absent (log 54), and its windows (log 32) are the model's choices. -/
def Obligations.TestsMarkTheirQuad : Prop :=
  ∀ (s : State) (quad : Nat),
    (8 ≤ quad → goes (.inFieldTestFailure quad) s (fun t => t = s) ∧ goes (.inFieldTestPass quad) s (fun t => t = s)) ∧
    (quad < 8 →
      let gone := fun (t : State) => ∀ p x, s.parts.find? (fun e => e.2.lay.v && e.2.lay.qmask.getLsbD quad) = some (p, x) →
        (s.strands.map (·.1)).Nodup →
        ∀ k : StrandKey, k.part = p → (s.strand k).ist = true → (s.strand k).tquad = quad → (t.strand k).st = .absent
      goes (.inFieldTestFailure quad) s (fun t => quad ∈ t.mgmt.suspects ∧ (∀ q ∈ s.mgmt.suspects, q ∈ t.mgmt.suspects) ∧
        t.mgmt.overdue = s.mgmt.overdue ∧ t.mgmt.lastPass = s.mgmt.lastPass ∧ t.mem = s.mem ∧
        (∀ k, (s.strand k).ist = false → (t.strand k).st = (s.strand k).st ∧ (t.strand k).stime = (s.strand k).stime) ∧
        (∀ k, (s.strand k).lastRan = none → (s.strand k).ist = false ∨ (s.strand k).tquad ≠ quad → t.strand k = s.strand k) ∧ gone t) ∧
      goes (.inFieldTestPass quad) s (fun t => quad ∉ t.mgmt.suspects ∧ quad ∉ t.mgmt.overdue ∧
        KV.getD t.mgmt.lastPass quad 0 = s.fab.ftime ∧ (∀ q, q ≠ quad → (q ∈ t.mgmt.suspects ↔ q ∈ s.mgmt.suspects)) ∧
        (∀ r ∈ t.history, r.key.row / 4 ≠ quad) ∧ t.mem = s.mem ∧ t.fab = s.fab ∧
        (∀ k, (s.strand k).ist = false ∨ (s.strand k).tquad ≠ quad → t.strand k = s.strand k) ∧ gone t)) ∧
    (s.parts.find? (fun e => e.2.lay.v && e.2.lay.qmask.getLsbD quad) = none → goes (.test quad) s (fun t => t = s)) ∧
    (∀ p x, s.parts.find? (fun e => e.2.lay.v && e.2.lay.qmask.getLsbD quad) = some (p, x) →
      let late := fun (t : State) => quad ∈ t.mgmt.overdue ∧ t = { s with mgmt := { s.mgmt with overdue := t.mgmt.overdue } }
      ((∀ n, n < 16 → (s.strand ⟨p, n⟩).st ≠ .absent) → goes (.test quad) s late) ∧
      ∀ n, n < 16 → (s.strand ⟨p, n⟩).st = .absent → (∀ m, m < n → (s.strand ⟨p, m⟩).st ≠ .absent) →
        (∀ c, s.admission ⟨p, n⟩ testLaunch 4 0 true false false false false .absent = .error c → goes (.test quad) s late) ∧
        (∀ ad, s.admission ⟨p, n⟩ testLaunch 4 0 true false false false false .absent = .ok ad → goes (.test quad) s (fun t =>
          (t.strand ⟨p, n⟩).st = .admitted ∧ (t.strand ⟨p, n⟩).scode = 4 ∧ (t.strand ⟨p, n⟩).phase = bv 4 ad.phase ∧
          (t.strand ⟨p, n⟩).ist = true ∧ (t.strand ⟨p, n⟩).tquad = quad ∧ (∀ h ∈ s.heldStrands p, collide (16, ad.phase) h.2.sp = false) ∧
          (∀ j, j ≠ ⟨p, n⟩ → t.strand j = s.strand j) ∧ t.mgmt = { s.mgmt with overdue := t.mgmt.overdue } ∧
          (∀ q, q ∈ t.mgmt.overdue ↔ q ∈ s.mgmt.overdue ∧ q ≠ quad) ∧ t.mem = s.mem ∧ t.fab = s.fab)))

/-- EVICTION AND RE-ADMISSION (R83, R208, R220, R234, R245, R247, R253, R291–R294): at a save the engines of every agent take the steps
they can, then every agent commits; where the area has room, the layer's words and a root header that names it stand in the image
area, a base layer after every fifteen others, the units it holds are clean, and the strand is evicted; where the area is too small
the root header stays and the strand freezes with a record. A re-admission that is refused is posted and changes no strand; one that
is taken gives every agent the view of memory now, its registers, and what the image holds; one that needs a move waits for it. Which
words make a layer, and how many, is free, and so is what a spoilt image restores (log 26: the model's choice). A save that some words
of a step of their own have begun writes those that remain (log 37), and a strand that a shadow mismatch froze keeps its freeze (log 92). -/
def Obligations.EvictionsSaveAndReadmissionsRestore : Prop :=
  ∀ (s : State) (k : StrandKey),
    let x := s.strand k
    let ks := s.agentsOf k
    let used := (x.layers.map (·.bytes)).foldl (· + ·) 64
    let base := decide (x.layers.length % 16 = 0)
    let first := (x.layers.head?.map (fun l => (l.scode, l.phase))).getD (x.scode, x.phase)
    let idle := (∀ a ∈ ks, (s.agent a).acmds = [] ∧ (s.agent a).xcmds = []) ∧ ∀ y ∈ s.fab.slots, fragDst y.hdr ∉ ks
    (x.st ≠ .evicting → goes (.evictionSave k) s (fun t => t = s)) ∧
    -- the engines take what steps they can, round by round
    (let round := ks.foldl (fun s a => s.engineSteps a) s
     (∀ n, (∀ a ∈ ks, round.agent a = s.agent a) → round.fab.slots = s.fab.slots → s.drainEngines ks (n + 1) = round) ∧
     (∀ n, (∃ a ∈ ks, round.agent a ≠ s.agent a) ∨ round.fab.slots ≠ s.fab.slots → s.drainEngines ks (n + 1) = round.drainEngines ks n) ∧
     (idle → round = s)) ∧
    -- what remains of a save that has begun; the newest word of the root header is written last
    (∀ w, x.st = .evicting → x.work = some w → w.ins = .evictionSave k → w.begun = true → s.phys = [] →
      let rest := s.hostWrites k.part x.l.td0 w.left
      goes (.evictionSave k) s (fun t => (t.strand k).work = none ∧ (∀ j, j ≠ k → t.strand j = s.strand j) ∧
        (used + Config.layerBytes w.key ≤ x.area.2 → (t.strand k).st = .evicted ∧
          t.mem = (rest.hostWrite k.part x.l.td0 (x.area.1 + 40) (bv 64 used)).mem ∧
          ∃ l, (t.strand k).layers = x.layers ++ [l] ∧ l.at_ = used ∧ l.key = w.key ∧ l.bytes = Config.layerBytes w.key ∧ l.base = base) ∧
        (x.area.2 < used + Config.layerBytes w.key → (t.strand k).st = .frozen ∧ (t.strand k).layers = x.layers ∧ t.mem = rest.mem))) ∧
    (x.st = .evicting → x.work = none → idle → s.phys = [] → goes (.evictionSave k) s (fun t => ∃ key,
      let n := Config.layerBytes key
      (∀ a ∈ ks, (t.agent a).b = [] ∧ (t.agent a).a = (s.agent a).a ∧ (t.agent a).sqr = (s.agent a).sqr ∧
        (x.replay = none → (t.agent a).swap = none) ∧
        (x.replay.isSome = true → (t.agent a).swap = (s.agent a).swap ∧ (t.agent a).q = (s.agent a).q)) ∧
      (∀ j, j ≠ k → t.strand j = s.strand j) ∧
      (used + n ≤ x.area.2 → (t.strand k).st = .evicted ∧ (t.strand k).stime = x.stime ∧ (t.strand k).bases = [] ∧
        (t.strand k).scode = x.scode ∧ (t.strand k).phase = x.phase ∧
        ∃ l, (t.strand k).layers = x.layers ++ [l] ∧ l.at_ = used ∧ l.key = key ∧ l.stime = x.stime ∧ l.base = base ∧
          l.ordinal = x.layers.length % 16 ∧ l.yieldGrain = x.yieldMask.isSome ∧ l.bytes = n ∧
          (∀ a c i, (a, c, i) ∈ l.tiles ↔ a ∈ ks ∧ c < 48 ∧ i < x.l.nrows / 32 ∧
            (base = true ∨ ((s.agent a).core c).dirtyT.getLsbD i = true) ∧
            ∀ m, x.yieldMask = some m → ∃ e, m.find? (fun e => e.1 = a.row) = some e ∧ e.2.getLsbD i = true) ∧
          (∀ a c i, (a, c, i) ∈ l.blocks ↔ x.yieldMask = none ∧ a ∈ ks ∧ c < 48 ∧ i < x.l.nunits / 128 ∧
            (base = true ∨ ((s.agent a).core c).dirtyB.getLsbD i = true)) ∧
          ∀ a ∈ ks, ∀ c, ((t.agent a).core c).rows = ((s.agent a).core c).rows ∧ ((t.agent a).core c).units = ((s.agent a).core c).units ∧
            (∀ i, i < 32 → (((t.agent a).core c).dirtyT.getLsbD i = true ↔
              ((s.agent a).core c).dirtyT.getLsbD i = true ∧ (a, c, i) ∉ l.tiles)) ∧
            ∀ i, i < 64 → (((t.agent a).core c).dirtyB.getLsbD i = true ↔
              ((s.agent a).core c).dirtyB.getLsbD i = true ∧ (a, c, i) ∉ l.blocks)) ∧
      (x.area.2 < used + n → (t.strand k).st = .frozen ∧
        (t.strand k).freeze = (if x.freeze = some (13, 1) then x.freeze else some (14, 1)) ∧ (t.strand k).stime = x.stime ∧
        (t.strand k).layers = x.layers ∧ ∃ r, (t.strand k).recs = x.recs ++ [r] ∧ r.kind = 14 ∧ r.cause = 1 ∧ r.stc = bv 64 x.stime ∧
          ∃ w, r.op0 = bv 64 w ∧ w ≤ n ∧ w ≤ x.area.2 - used) ∧
      -- the image area, where it lies in one frame of td0 that holds no tile table entry in use
      ∀ mfn e w, s.memOk → (∀ a ∈ ks, (s.agent a).b = []) → 64 ≤ x.area.2 →
        x.area.1 / 65536 = (x.area.1 + x.area.2 - 1) / 65536 → x.area.1 + x.area.2 ≤ dSize x.l.td0 →
        (s.td0Addr k.part x.l.td0 x.area.1).1 = some (mfn * 65536 + x.area.1 % 65536) →
        s.stage2 k.part ((dTtb x.l.td0 * 65536 + 16 * (x.area.1 / 65536)) / 65536) = some (e, w) →
        let at_ := mfn * 65536 + x.area.1 % 65536
        let entry := e * 65536 + (dTtb x.l.td0 * 65536 + 16 * (x.area.1 / 65536)) % 65536
        (entry + 16 ≤ at_ ∨ at_ + x.area.2 ≤ entry) →
        (∀ y, y < at_ ∨ at_ + x.area.2 ≤ y → t.mem.byte y = s.mem.byte y) ∧
        (used + n ≤ x.area.2 → (∀ i, i < n / 8 → t.mem.word (at_ + used + 8 * i) = Config.layerWord key i) ∧
          t.mem.word (at_ + 56) = x.l.lid ∧ t.mem.word (at_ + 48) = bv 64 x.area.2 ∧ t.mem.word (at_ + 40) = bv 64 used ∧
          t.mem.word (at_ + 32) = bv 64 (first.1.toNat * 2 ^ 60 + first.2.toNat * 2 ^ 56 + k.strand % 16 * 2 ^ 52 +
            k.part % 8 * 2 ^ 49 + x.mat.toNat * 2 ^ 48 + x.priv.toNat * 2 ^ 47)) ∧
        (x.area.2 < used + n → ∀ y, y < at_ + used → t.mem.byte y = s.mem.byte y))) ∧
    ∀ any_ mv,
      let P := goes (.readmission k any_ mv) s
      let adm := s.admission k x.l first.1.toNat first.2.toNat any_ mv x.mat x.priv ((s.vcp x.vcp).hv || x.priv) .evicted
      (∀ c, adm = .error c → P (fun t => t.strands = s.strands ∧ t.agents = s.agents ∧ t.mem = s.mem ∧
        ∃ r : FaultRec, r.kind = 13 ∧ r.cause = 6 ∧ r.rep = 7 ∧ r.aux = bv 32 c ∧ r.lid = x.l.lid ∧ t = s.postAs x.vcp x.era r)) ∧
      (∀ ad, adm = .ok ad → s.phys = [] →
        P (fun t => (t.strand k).scode = first.1 ∧ (t.strand k).phase = bv 4 ad.phase ∧
          (t.strand k).bases = ad.bases ∧ (t.strand k).stime = x.stime ∧ (t.strand k).layers = x.layers ∧ t.mem = s.mem ∧
          (∀ a ∈ ks, (t.agent a).v.mem = s.mem ∧ (t.agent a).tcache = [] ∧ (t.agent a).a = (s.agent a).a ∧
            (t.agent a).sqr = (s.agent a).sqr ∧ (t.agent a).b = (s.agent a).b ∧ (t.agent a).q = (s.agent a).q) ∧
          (ad.moves = [] → (t.strand k).st = .admitted ∧ ∀ j, j ≠ k → t.strand j = s.strand j) ∧
          (ad.moves ≠ [] → (t.strand k).st = .evicted ∧ ∃ m, (t.part k.part).move = some m ∧ m.newcomer = some k.strand) ∧
          -- an image that stands as it was saved restores every unit but those that a YIELD gave up
          ((workOn x.work (.readmission k any_ mv)).got = [] → (∀ u : State, ∀ l ∈ x.layers, u.mem = s.mem → u.fmaps = s.fmaps → u.parts = s.parts → u.phys = [] → u.strands = s.strands →
              (u.layerIntact k [] l).1 = true) →
            (x.yieldMask = none → ∀ a ∈ ks, (t.agent a).cores = (s.agent a).cores) ∧
            ∀ m, x.yieldMask = some m → ∀ a ∈ ks, ∀ c, c < 48 → ∀ i,
              (∃ e, m.find? (fun e => e.1 = a.row) = some e ∧ e.2.getLsbD (i / 32) = true) →
              KV.get? ((t.agent a).core c).rows i = KV.get? ((s.agent a).core c).rows i)))

/-- MEMORY SERVICE (R216–R219, R237, R238): a scrubbed line without errors advances the pass, and the last line of a pass puts
the spare in the place of a failed bank; a line with errors is decoded, counted and written back, so that its errors are gone; MEMSTAT_WRITE writes fv and fbank and clears the count bits where it has ones; a bank
drop needs its spare frames; migwm starts one migration, which reads and copies line by line and ends after the last frame. No stored
value of a line without errors changes. The scrubber takes a line only in a slot that no strand owns. Every read of a line with errors
decodes and counts, and the errors stand until the line is stored anew (R216, R219; where they show is log 7, the model's choice). That fv reads
0 once the spare is in service (log 85), and how many frames a bank and the spares are (log 8), are the model's choices. -/
def Obligations.MemoryServiceTakesItsEffect : Prop :=
  ∀ s : State,
    (∀ m line, memOk m = false ∨ memLines m ≤ line → goes (.scrubLine m line) s (fun t => t = s)) ∧
    (∀ m line, memOk m = true → line < memLines m → s.portFree (memRow m) = true → s.phys.find? (Phys.isLine m line) = none → goes (.scrubLine m line) s (fun t =>
      let x := s.memstatOf m; let y := t.memstatOf m
      t = { s with memstat := t.memstat } ∧ (∀ n, n ≠ m → t.memstatOf n = s.memstatOf n) ∧ (line ≠ x.pass → y = x) ∧
      (line = x.pass → line + 1 < memLines m → y = { x with pass := line + 1 }) ∧
      (line = x.pass → line + 1 = memLines m →
        (x.fv = true → x.spareUsed = false → y = { x with pass := 0, corr := [], fv := false, spare := true, spareUsed := true }) ∧
        (x.fv = false ∨ x.spareUsed = true → y = { x with pass := 0, corr := [] })))) ∧
    (∀ m line, s.portFree (memRow m) = false → goes (.scrubLine m line) s (fun t => t = s)) ∧
    -- every read decodes and counts anew
    (∀ m line, s.phys.find? (Phys.isLine m line) = none → s.readLine m line = s) ∧
    (∀ m line q, s.phys.find? (Phys.isLine m line) = some q →
      let x := s.memstatOf m
      (s.readLine m line).memstatOf m = x.countRead (decodeLine x.failing q.errs) ∧ (s.readLine m line).mem = s.mem ∧
      ∃ r, (s.readLine m line).phys.find? (Phys.isLine m line) = some r ∧ r.errs = q.errs) ∧
    (∀ m line q, memOk m = true → line < memLines m → s.portFree (memRow m) = true → (∀ r, m ≠ .textStore r) →
      s.phys.find? (Phys.isLine m line) = some q →
      let x := s.memstatOf m
      let o := decodeLine x.failing q.errs
      goes (.scrubLine m line) s (fun t => t.phys = s.phys.filter (fun p => !Phys.isLine m line p) ∧ t.mem = s.mem ∧
        t.memstatOf m = (x.countRead o).scrubbed line (memLines m) ∧ (∀ n, n ≠ m → t.memstatOf n = s.memstatOf n) ∧
        ((∃ e, q = .line m line e) → o.lost = false → o.left = [] → t.agents = s.agents ∧ t.strands = s.strands)) ∧
      (x.countRead o).ccnt = bv 8 (min 255 (x.ccnt.toNat + o.fixed.length)) ∧
      (x.countRead o).ucnt = (if o.lost then bv 8 (min 255 (x.ucnt.toNat + 1)) else x.ucnt) ∧
      (x.fv = true → (x.countRead o).fv = true ∧ (x.countRead o).fbank = x.fbank)) ∧
    (∀ m v, memOk m = false → goes (.memstatWrite m v) s (fun t => t = s)) ∧
    (∀ m (v : BitVec 32), memOk m = true → goes (.memstatWrite m v) s (fun t =>
      let x := s.memstatOf m; let y := t.memstatOf m
      t = { s with memstat := t.memstat } ∧ (∀ n, n ≠ m → t.memstatOf n = s.memstatOf n) ∧ y.spare = x.spare ∧
      (∀ i, i < 8 → y.ucnt.getLsbD i = (x.ucnt.getLsbD i && !v.getLsbD (8 + i)) ∧ y.ccnt.getLsbD i = (x.ccnt.getLsbD i && !v.getLsbD i)) ∧
      (v.getLsbD 31 = false → y.fv = false ∧ y.fbank = v.extractLsb' 24 5) ∧
      (v.getLsbD 31 = true → y.fv = true ∧ (x.fv = false → y.fbank = v.extractLsb' 24 5 ∧ y.pass = 0)))) ∧
    (∀ p bank,
      let x := s.part p
      let n := bankFrames p bank.toNat
      (x.lay.v = true → bank ∉ x.dropped → n ≤ x.spare → goes (.bankDrop p bank) s (fun t => onlyPart p s t ∧
        t.part p = { x with dropped := bank :: x.dropped, spare := x.spare - n })) ∧
      (x.lay.v = false ∨ bank ∈ x.dropped ∨ x.spare < n → goes (.bankDrop p bank) s (fun t => t = s))) ∧
    (∀ p (v : Word),
      let x := s.part p
      (x.migwm.act = true → goes (.migwmWrite p v) s (fun t => t = s)) ∧
      (x.migwm.act = false → x.lay.v = true → goes (.migwmWrite p v) s (fun t => onlyPart p s t ∧
        t.part p = { x with migwm := ⟨true, v.extractLsb' 48 8, 0, 0⟩ })) ∧
      (x.migwm.act = false → goes (.migrationLineCopy p) s (fun t => t = s)) ∧
      (x.migwm.act = true → goes (.migrationLineCopy p) s (fun t => ∃ m : Migwm,
        let wm := frameFrom x.lay x.migwm.wm.toNat
        let line := 1024 * wm + x.migwm.lines
        -- the line is read, and stands without errors at its new place
        let u := s.touch (64 * line)
        t = ({ u with phys := clearDev u.phys line } : State).setPart p { x with migwm := m } ∧ (s.phys = [] → onlyPart p s t) ∧
        m.bank = x.migwm.bank ∧
        (
         (x.migwm.lines < 1023 → m = { x.migwm with wm := bv 23 wm, lines := x.migwm.lines + 1 }) ∧
         (1023 ≤ x.migwm.lines → m.lines = 0 ∧ (frameFrom x.lay (wm + 1) < 6094848 → m.act = true ∧ m.wm = bv 23 (frameFrom x.lay (wm + 1))) ∧
           (6094848 ≤ frameFrom x.lay (wm + 1) → m.act = false ∧ m.wm = bv 23 (wm + 1)))))))

/-! ## The host -/

/-- HOST ACCESSES, BUDGETS AND PAGE RESPONSES (R197, R209, R233–R235, R255, R297): a host write under CXL.mem enters one word into memory
at the machine frame of the window as a step of its own, and a read delivers a word with its poison; the rest of the access comes
later, and without CXL.mem there is none; the words of a write that covers a line whole agree on its poison. A request is sent
while the balance is above zero and charged in full; a refill carries a debt and sends what waited, in order; a page response frees
its entry, and the waiting command tries again, halts, or its launch is cancelled. That the words of an access go one by one from
the lowest on (log 37), that a granted read creates a queue and begins its new era (log 19), that each access is one request of a unit
with one errand (log 68), and that the place of a lost message is reported as lost (log 91), are the model's choices. -/
def Obligations.HostAccessesAndPageResponses : Prop :=
  ∀ s : State,
    (∀ p a wr d n b, d = [] ∨ s.link ∉ [LinkMode.cxl4, .cxl3, .cxl2] ∨ (s.part p).lay.v = false →
      goes (.hostMemoryAccess p a wr ⟨d, n, b⟩) s (fun t => t = s)) ∧
    (∀ p a d l before bad, s.link ∈ [LinkMode.cxl4, .cxl3, .cxl2] → (s.part p).lay.v = true →
      let i := a / 8 % 8
      -- words of the line that the request has brought before this one, and whether one of them up to this one is poisoned
      let n := if i = 0 then 0 else before
      let b := (decide (i ≠ 0) && bad) || d.2
      let rest := fun (wr : Bool) => s.pending ++
        (if l = [] then [] else [(s.now, Instr.hostMemoryAccess p (a / 8 * 8 + 8) wr ⟨l, n + 1, b⟩)])
      (∀ wr, s.frameAt p (a / 65536) = none → goes (.hostMemoryAccess p a wr ⟨d :: l, before, bad⟩) s (fun t => t = { s with pending := rest wr })) ∧
      ∀ m, s.frameAt p (a / 65536) = some m → s.phys = [] → s.memOk →
        let at_ := m * 65536 + a / 8 * 8 % 65536
        goes (.hostMemoryAccess p a true ⟨d :: l, before, bad⟩) s (fun t => t.mem.word at_ = d.1 ∧
          (∀ y, y < at_ ∨ at_ + 8 ≤ y → t.mem.byte y = s.mem.byte y) ∧
          (i = 7 → n = 7 → t.mem.poisAt at_ = b) ∧
          (i ≠ 7 ∨ n ≠ 7 → t.mem.poisAt at_ = (d.2 || s.mem.poisAt at_)) ∧
          (∀ y, y / 64 ≠ at_ / 64 → t.mem.poisAt y = s.mem.poisAt y) ∧
          t.pending = rest true ∧ t.agents = s.agents ∧ t.strands = s.strands ∧ t.parts = s.parts) ∧
        goes (.hostMemoryAccess p a false ⟨d :: l, before, bad⟩) s (fun t => t = { s with
          pending := rest false, hostReads := s.hostReads ++ [(at_, s.mem.word at_, s.mem.poisAt at_)] })) ∧
    (∀ p n,
      let x := s.part p
      let c := (n + 63) / 64
      let sent := fun (q : LinkQ) (c : Nat) => ({ q with bal := q.bal - c, sent := q.sent + 1 } : LinkQ)
      let later := fun (q : LinkQ) (c : Nat) => ({ q with wait := q.wait ++ [(c, none)] } : LinkQ)
      let R := fun (kind : LinkReq) (y : Part) => goes (.hostLinkRequest p kind n) s (fun t => onlyPart p s t ∧ t.part p = y)
      (x.rd.wait = [] → 0 < x.rd.bal → R .read { x with rd := sent x.rd c }) ∧ (x.rd.bal ≤ 0 → R .read { x with rd := later x.rd c }) ∧
      (x.ats.wait = [] → 0 < x.ats.bal → R .ats { x with ats := sent x.ats 1 }) ∧ (x.ats.bal ≤ 0 → R .ats { x with ats := later x.ats 1 }) ∧
      (x.wrq.wait = [] → 0 < x.wrq.bal → R .write { x with wrq := sent x.wrq c }) ∧
      ((∀ w ∈ x.wrq.wait, w.2 = none) → x.wrq.bal ≤ 0 → R .write { x with wrq := later x.wrq c })) ∧
    goes .hostBudgetRefill s (fun t => t.mem = s.mem ∧ t.agents = s.agents ∧ t.strands = s.strands ∧ t.fab = s.fab ∧
      ((∀ e ∈ s.parts, ∀ w ∈ e.2.rd.wait ++ e.2.wrq.wait ++ e.2.ats.wait, w.2 = none) → t = { s with parts := t.parts }) ∧
      ((s.parts.map (·.1)).Nodup → ∀ p,
        let x := s.part p
        let full := fun (q q' : LinkQ) (h : Nat) => ∃ i, q'.wait = q.wait.drop i ∧ i ≤ q.wait.length ∧ q'.sent = q.sent + i ∧
          q'.bal = (h : Int) + min q.bal 0 - ((q.wait.take i).map (fun w => (w.1 : Int))).sum ∧ (q'.wait ≠ [] → q'.bal ≤ 0) ∧
          ∀ j, j < i → 0 < (h : Int) + min q.bal 0 - ((q.wait.take j).map (fun w => (w.1 : Int))).sum
        (t.part p).lay = x.lay ∧ ((∀ w ∈ x.ats.wait, w.2 = none) → full x.rd (t.part p).rd x.lay.hrd.toNat) ∧
        ((∀ e ∈ s.parts, ∀ w ∈ e.2.wrq.wait ++ e.2.ats.wait, w.2 = none) →
          full x.wrq (t.part p).wrq x.lay.hwr.toNat ∧ full x.ats (t.part p).ats x.lay.hats.toNat)) ∧
      -- what waited for a request that is sent goes on
      (∀ p, s.parts.map (·.1) = [p] →
        let x := s.part p
        x.ats.wait = [] →
        (∀ v w, x.rd.wait = [(1, some (.create v w))] → x.wrq.wait = [] → 0 < x.lay.hrd.toNat + min x.rd.bal 0 → (t.vcp v).created = true ∧
          (t.vcp v).qbase = w ∧ (t.vcp v).era = (s.vcp v).era + 1 ∧ (t.part p).rd.wait = []) ∧
        (∀ v, x.rd.wait = [(1, some (.ask v (s.vcp v).era))] → x.wrq.wait = [] → 0 < x.lay.hrd.toNat + min x.rd.bal 0 →
          (∀ b, (s.vcp v).ask = .tail b → (t.vcp v).ask = .tail true) ∧ (∀ b, (s.vcp v).ask = .packet b → (t.vcp v).ask = .packet true) ∧
          (t.part p).rd.wait = []) ∧
        (∀ v r, x.wrq.wait = [(1, some (.post ⟨v, (s.vcp v).era, r⟩))] → x.rd.wait = [] → (s.vcp v).part.toNat = p →
          let c := s.vcp v
          (c.created = true → c.fring ≠ 0 → (c.fhead - c.ftail).toNat < 256 → 1 < x.lay.hwr.toNat + min x.wrq.bal 0 →
            t.vcp v = { c with fhead := c.fhead + 1 } ∧ (t.part p).wrq.wait = [] ∧ ∀ i, i < 8 →
              KV.get? t.host (c.fring.toNat + 64 * (c.fhead.toNat % 256) + 8 * i) = some (bv 64 (r.bits / 2 ^ (64 * i)))) ∧
          (c.created = false → t.vcp v = c ∧ t.host = s.host ∧ (t.part p).wrq.wait = [] ∧
            (t.part p).wrq.bal = x.lay.hwr.toNat + min x.wrq.bal 0)))) ∧
    (∀ e : BitVec 10, KV.get? s.pageq e.toNat = none → goes (.pgrespRetry e) s (fun t => t = s) ∧ goes (.pgrespRefuse e) s (fun t => t = s) ∧
      goes (.pgrespCancel e) s (fun t => t = s)) ∧
    (∀ (e : BitVec 10) r, KV.get? s.pageq e.toNat = some r → (∀ u ∈ s.unposted, u.2.1 ≠ r.part) →
      (r.who = .gone → ∀ i ∈ [Instr.pgrespRetry e, .pgrespRefuse e, .pgrespCancel e],
        goes i s (fun t => t = { s with pageq := KV.del s.pageq e.toNat })) ∧
      (∀ k c l, r.who = .agen k c.seq → (s.agent k).acmds = c :: l → (∀ d ∈ l, d.seq ≠ c.seq) →
        goes (.pgrespRetry e) s (fun t => KV.get? t.pageq e.toNat = none ∧
          t.agent k = { s.agent k with acmds := { c with page := .none } :: l } ∧ t.strands = s.strands ∧ t.mem = s.mem) ∧
        goes (.pgrespRefuse e) s (fun t => KV.get? t.pageq e.toNat = none ∧ (t.agent k).haltA = true ∧
          (t.agent k).acmds = { c with page := .none, halted := true } :: l ∧ t.mem = s.mem ∧
          ∃ f, (t.strand k.sk).recs = (s.strand k.sk).recs ++ [f] ∧ f.kind = 9 ∧ f.cause = 0x0B ∧ f.col = bv 6 (bits r.rec_ 37 32)) ∧
        ((s.strand k.sk).st = .running ∨ (s.strand k.sk).st = .stalled ∨ (s.strand k.sk).st = .frozen →
          (∀ m, (s.part k.part).move = some m → m.newcomer ≠ some k.strand) → goes (.pgrespCancel e) s (fun t =>
          KV.get? t.pageq e.toNat = none ∧ (t.strand k.sk).st = .halted ∧ (t.strand k.sk).cancelled = some 3 ∧
          (∀ y ∈ (t.agent k).acmds, y ∈ l) ∧ t.mem = s.mem))) ∧
      (∀ k c, r.who = .xchg k c.seq → (s.agent k).xcmds.find? (fun d => d.seq = c.seq) = some c →
        goes (.pgrespRetry e) s (fun t => KV.get? t.pageq e.toNat = none ∧ t.agent k = { s.agent k with
          xcmds := (s.agent k).xcmds.map (fun d => if d.seq = c.seq then { d with page := .none } else d) } ∧ t.strands = s.strands ∧
          t.mem = s.mem) ∧
        goes (.pgrespRefuse e) s (fun t => KV.get? t.pageq e.toNat = none ∧ (t.agent k).haltX = true ∧ t.mem = s.mem ∧
          noted k.sk s t 9 0x0B 3 c.seq)) ∧
      (∀ key x, r.who = .slot key → s.slot? key = some x →
        goes (.pgrespRetry e) s (fun t => KV.get? t.pageq e.toNat = none ∧ t.slot? key = some { x with page := .none } ∧ t.mem = s.mem) ∧
        goes (.pgrespRefuse e) s (fun t => KV.get? t.pageq e.toNat = none ∧ t.slot? key = none ∧ t.mem = s.mem ∧
          (x.lost = true → 5 ≤ x.hdr.op.toNat → t.fab.outq = s.fab.outq) ∧
          (x.lost = false ∨ x.hdr.op.toNat < 5 → ∃ outs, outs ≠ [] ∧ t.fab.outq = s.fab.outq ++ outs ∧
            ∀ o ∈ outs, o.f.op = 5 ∧ o.f.opnd = bv 64 (if x.lost then 1 else 3 + 256 * 0x0B)))) ∧
      -- an item of an overlay load (log 73)
      (∀ k o, r.who = .overlay k o.addr → (s.agent k).sqr.ovly = some o →
        let becomes := fun (t : State) (v : Overlay) => KV.get? t.pageq e.toNat = none ∧ t.mem = s.mem ∧ t.strands = s.strands ∧
          t.agent k = { s.agent k with sqr := { (s.agent k).sqr with ovly := some v } }
        goes (.pgrespRetry e) s (fun t => becomes t { o with page := .none }) ∧
        goes (.pgrespRefuse e) s (fun t => becomes t { o with page := .none, done := true, err := some 2, acc := none }) ∧
        ((s.strand k.sk).st = .running ∨ (s.strand k.sk).st = .stalled ∨ (s.strand k.sk).st = .frozen →
          (∀ m, (s.part k.part).move = some m → m.newcomer ≠ some k.strand) → goes (.pgrespCancel e) s (fun t =>
          KV.get? t.pageq e.toNat = none ∧ (t.strand k.sk).st = .halted ∧ (t.strand k.sk).cancelled = some 3 ∧ t.mem = s.mem))))

/-- VCP REGISTERS AND EVENTS (R232, R255, R262, R269, R280, R297–R302, R304, R305, R325): each register write sets its register; qbase also
creates the queue anew, once the reads that this takes have been sent (log 19); a notify enters one event; a dispatch with a free core
takes the oldest event of a VCP that none works on and asks for the page's tail; an impossible tail stops the queue, and else the packets
to the tail are fetched, each once, none past it, in front of execution by at most 16 (what the guest's words are is free, log 6); a
status read clears the drop bits; an ftail beyond its bounds stops the queue after the packets in progress; S2INV drops the translations
of its partition; an fq above 256 is refused. A fault record goes to its place in the ring by a write request of its partition, waits
for budget, or is counted as dropped; one for a queue that is gone is dropped. Reads and writes of host memory are charged to the
partition's counters; how many a page takes, and when a translation is asked for, is the model's choice (log 68). That td0 is one image for
each td0d IOVA (log 84), and that a fabid is stored as it is written (log 94), are the model's choices. -/
def Obligations.VcpRegistersTakeTheirValue : Prop :=
  ∀ (s : State) (v : Nat) (w : Word),
    let c := s.vcp v
    let sets := fun (r : RegName) (d : Vcp) => goes (.registerWrite r w) s (fun t => onlyVcp v s t ∧ t.vcp v = d)
    sets (.qsize v) { c with qsize := w } ∧ sets (.tail v) { c with tail := w } ∧ sets (.fring v) { c with fring := w } ∧
    sets (.vcpCtl v) { c with ctlPage := w } ∧ sets (.td0d v) { c with td0dPage := w } ∧ sets (.fence v) { c with fencePage := w } ∧
    (let p := c.ctlPage.toNat % 8
     let x := s.part p
     let R := fun (Q : State → Prop) => goes (.registerWrite (.qbase v) w) s (fun t =>
       t = { s with parts := t.parts, vcps := t.vcps } ∧ (∀ u, u ≠ v → t.vcp u = s.vcp u) ∧ (∀ q, q ≠ p → t.part q = s.part q) ∧ Q t)
     let made := fun (t : State) => let d := t.vcp v
       d.qbase = w ∧ d.created = true ∧ d.era = c.era + 1 ∧ d.part.toNat = p ∧ d.hv = c.ctlPage.getLsbD 3 ∧
       d.hold = c.ctlPage.getLsbD 4 ∧ d.smask.toNat = c.ctlPage.toNat / 2 ^ 16 % 2 ^ 16 ∧ d.fence = c.fencePage ∧ d.qsize = c.qsize ∧
       d.tail = c.tail ∧ d.fring = c.fring ∧ d.head = 0 ∧ d.fhead = 0 ∧ d.ftail = 0 ∧ d.stopped = false ∧ d.qerr = 0 ∧ d.dropCnt = 0 ∧
       d.skip = [] ∧ d.fetched = [] ∧ d.active = false ∧ d.refetch = 0 ∧ d.work = none ∧ d.td0 = Config.td0Image c.td0dPage
     let reads := fun (Q : State → Prop) => x.rd.wait = [] →
       (1 < x.rd.bal → R (fun t => made t ∧ (t.part p).rd = ⟨x.rd.bal - 2, [], x.rd.sent + 2⟩ ∧ Q t)) ∧
       (x.rd.bal = 1 → R (fun t => t.vcp v = c ∧ (t.part p).rd = ⟨0, [(1, some (.create v w))], x.rd.sent + 1⟩ ∧ Q t)) ∧
       (x.rd.bal ≤ 0 → R (fun t => t.vcp v = c ∧ (t.part p).rd = ⟨x.rd.bal, [(1, none), (1, some (.create v w))], x.rd.sent⟩ ∧ Q t))
     (s.needsAts c.td0dPage.toNat = false → reads (fun t => (t.part p).ats = x.ats)) ∧
     (s.needsAts c.td0dPage.toNat = true → x.ats.wait = [] →
       (0 < x.ats.bal → reads (fun t => (t.part p).ats = ⟨x.ats.bal - 1, [], x.ats.sent + 1⟩)) ∧
       (x.ats.bal ≤ 0 → R (fun t => t.vcp v = c ∧ (t.part p).ats = ⟨x.ats.bal, [(1, some (.create v w))], x.ats.sent⟩ ∧ (t.part p).rd = x.rd)))) ∧
    goes (.registerWrite .fabid w) s (fun t => t = { s with fab := t.fab } ∧ t.fab.written = true ∧ t.myId = w.toNat % 2 ^ 20 ∧
      t.nsys = w.toNat / 2 ^ 20 % 2 ^ 20 ∧ t.fab.groups = s.fab.groups ∧ t.fab.outq = s.fab.outq) ∧
    (∀ g, goes (.registerWrite (.group g) w) s (fun t => t = { s with fab := { s.fab with groups := KV.put s.fab.groups g w } })) ∧
    (∀ n : Fin 8, goes (.registerWrite (.fdrop n) w) s (fun t => t = { s with fab := { s.fab with fdrop := s.fab.fdrop.set n w } }) ∧
      goes (.registerWrite (.fdelay n) w) s (fun t => t = { s with fab := { s.fab with fdelay := s.fab.fdelay.set n w } })) ∧
    (∀ p g, goes (.registerWrite (.frameMap p g) w) s (fun t => t = { s with fmaps := KV.put s.fmaps (p, g) w })) ∧
    (c.wait = none → goes (.notify v) s (fun t => t = { s with events := t.events } ∧
      t.events = if v ∈ s.events then s.events else s.events ++ [v])) ∧
    goes (.statusRead v) s (fun t => onlyVcp v s t ∧ t.vcp v = { c with dropBit := false, dropCnt := 0 }) ∧
    (w.toNat ≤ c.fhead.toNat → c.fhead.toNat ≤ w.toNat + 256 → goes (.ftailWrite v w) s (fun t => onlyVcp v s t ∧
      t.vcp v = { c with ftail := w })) ∧
    (c.fhead.toNat < w.toNat ∨ w.toNat + 256 < c.fhead.toNat → goes (.ftailWrite v w) s (fun t =>
      t = (s.setVcp v { c with ftail := w, stopped := true, qerr := 7 }).pageWrite v)) ∧
    -- what the device writes into a page goes by a write request of the partition
    exec (.hostLinkRequest c.part.toNat .write 64) s = .next (s.pageWrite v) ∧
    goes (.s2inv v) s (fun t => t = { s with agents := t.agents, vcps := t.vcps } ∧
      (∀ a : AgentKey, a.part = c.part.toNat → t.agent a = { s.agent a with
        tcache := [], acmds := (s.agent a).acmds.map (fun d => { d with frames := [] })
        xcmds := (s.agent a).xcmds.map (fun d => { d with frames := [] })
        sqr := { (s.agent a).sqr with ovly := (s.agent a).sqr.ovly.map (fun o => { o with frames := [] }) } }) ∧
      ∀ a : AgentKey, a.part ≠ c.part.toNat → t.agent a = s.agent a) ∧
    (∀ p (n : Fin 8), let sum := sumTo 8 (fun i => (w.toNat / 256 ^ i % 256 : Nat))
      (sum ≤ 256 → goes (.fqWrite p n w) s (fun t => onlyPart p s t ∧ t.part p = { s.part p with fq := (s.part p).fq.set n w })) ∧
      (256 < sum → goes (.fqWrite p n w) s (fun t => t = s))) ∧
    -- events
    ((∀ e ∈ s.events, (s.vcp e).active = true) → goes .eventDispatch s (fun t => t = s)) ∧
    (∀ b l, s.events = b ++ v :: l → (∀ e ∈ b, (s.vcp e).active = true) → c.active = false →
      let busy := (s.vcps.filter (fun e => e.2.active)).length
      (12 ≤ busy → goes .eventDispatch s (fun t => t = s)) ∧
      (busy < 12 →
        (c.stopped = true → goes .eventDispatch s (fun t => t = { s with events := b ++ l })) ∧
        (c.stopped = false → goes .eventDispatch s (fun t =>
          t = ((({ s with events := b ++ l } : State).setVcp v { c with active := true, ask := .tail false }).askHost v v).checkTail v)))) ∧
    (let dist := fun (i j : Word) => (j.toNat + c.qsize.toNat - i.toNat % c.qsize.toNat) % c.qsize.toNat
     let good := c.tail.toNat < c.qsize.toNat ∧ dist c.head c.tail ≤ dist c.head c.tailSeen + dist c.tailSeen c.tail
     (c.ask ≠ .tail true → s.checkTail v = s) ∧
     (c.ask = .tail true → ¬ good → s.checkTail v = (s.setVcp v { c with
       stopped := true, qerr := 4, active := false, ask := .none, fetched := [], nested := [], rep := none, work := none }).pageWrite v) ∧
     (c.ask = .tail true → good → s.checkTail v = s.setVcp v { c with ask := .none, tailSeen := c.tail })) ∧
    -- a read that the front end asks for waits for budget
    (∀ iova, (∃ b, c.ask = .tail b ∨ c.ask = .packet b) →
      let t := s.askHost v iova
      let p := c.part.toNat
      let x := s.part p
      let sent := match c.ask with | .tail _ => Ask.tail true | _ => .packet true
      let reads := (x.rd.wait = [] → 0 < x.rd.bal → t.vcp v = { c with ask := sent } ∧ (t.part p).rd = ⟨x.rd.bal - 1, [], x.rd.sent + 1⟩) ∧
        (x.rd.bal ≤ 0 → t.vcp v = c ∧ (t.part p).rd = { x.rd with wait := x.rd.wait ++ [(1, some (.ask v c.era))] })
      (s.needsAts iova = false → reads ∧ (t.part p).ats = x.ats) ∧
      (s.needsAts iova = true →
        (x.ats.wait = [] → 0 < x.ats.bal → reads ∧ (t.part p).ats = ⟨x.ats.bal - 1, [], x.ats.sent + 1⟩) ∧
        (x.ats.bal ≤ 0 → t.vcp v = c ∧ (t.part p).ats = { x.ats with wait := x.ats.wait ++ [(1, some (.ask v c.era))] } ∧ (t.part p).rd = x.rd))) ∧
    -- fetching ahead
    (c.mayAhead = true ↔ c.aheadCount < 16 ∧ ∀ p, c.ahead.getLast? = some p → bits (p.words.headD 0) 63 56 ≠ 2) ∧
    (∀ n,
      (c.ask = .packet true → s.fetchAhead v (n + 1) = (s.fetchOne v).fetchAhead v n) ∧
      (∀ at_ room, c.ask = .none → c.mayAhead = true → c.fetchAt = some (at_, room) →
        s.fetchAhead v (n + 1) = ((s.setVcp v { c with ask := .packet false }).askHost v at_).fetchAhead v n) ∧
      (c.ask = .packet false ∨ (∃ b, c.ask = .tail b) ∨ (c.ask = .none ∧ (c.mayAhead = false ∨ c.fetchAt = none)) → s.fetchAhead v (n + 1) = s)) ∧
    -- the fetch of one packet
    (let none_ := s.fetchOne v = s.setVcp v { c with ask := .none }
     let words := fun (h : Word) (room : Nat) => min (max 1 (min 4 (bits h 55 48))) room
     (∀ r l, c.nested = r :: l → (r.len ≤ r.pos → none_) ∧ (r.pos < r.len → ∃ h ws,
       let t := s.fetchOne v
       let n := words h (r.len - r.pos)
       ws.length + 1 = n ∧ t = { s with vcps := t.vcps, fresh := t.fresh } ∧ t.vcp v = { c with
         ask := .none, nested := { r with pos := r.pos + n, fetched := r.fetched ++ [⟨h :: ws, r.pos + n⟩] } :: l })) ∧
     (c.nested = [] →
       let dist := (c.tailSeen.toNat + c.qsize.toNat - c.head.toNat % c.qsize.toNat) % c.qsize.toNat
       (c.qsize = 0 ∨ dist = 0 → none_) ∧
       (c.qsize ≠ 0 → dist ≠ 0 → (∀ w ∈ (s.part c.part.toNat).wrq.wait, w.2 = none) → ∃ h ws,
         let t := s.fetchOne v
         let n := words h dist
         let next := (c.head.toNat + n) % c.qsize.toNat
         ws.length + 1 = n ∧ t.vcp v = { c with ask := .none, fetched := c.fetched ++ [⟨h :: ws, next⟩], head := bv 64 next } ∧
         t.mem = s.mem ∧ t.agents = s.agents ∧ t.strands = s.strands ∧ t.fab = s.fab))) ∧
    -- fault records
    (∀ r : FaultRec,
      let t := s.postRec v r
      let p := c.part.toNat
      let x := s.part p
      let ready := c.created = true ∧ c.fring ≠ 0 ∧ (c.fhead - c.ftail).toNat < 256
      let stored := t.vcp v = { c with fhead := c.fhead + 1 } ∧ ∀ i, i < 8 →
        KV.get? t.host (c.fring.toNat + 64 * (c.fhead.toNat % 256) + 8 * i) = some (bv 64 (r.bits / 2 ^ (64 * i)))
      let post : Errand := .post ⟨v, c.era, r⟩
      -- a record's write request, and the one for the page's word after it
      let writes := x.wrq.wait = [] →
        (1 < x.wrq.bal → stored ∧ (t.part p).wrq = ⟨x.wrq.bal - 2, [], x.wrq.sent + 2⟩) ∧
        (x.wrq.bal = 1 → stored ∧ (t.part p).wrq = ⟨0, [(1, none)], x.wrq.sent + 1⟩) ∧
        (x.wrq.bal ≤ 0 → t.host = s.host ∧ t.vcp v = c ∧ (t.part p).wrq = ⟨x.wrq.bal, [(1, some post)], x.wrq.sent⟩)
      (c.created = false → t = s) ∧
      (c.created = true → c.fring = 0 ∨ 256 ≤ (c.fhead - c.ftail).toNat → x.wrq.wait = [] →
        t = { s with vcps := t.vcps, parts := t.parts } ∧ (∀ u, u ≠ v → t.vcp u = s.vcp u) ∧
        t.vcp v = { c with dropBit := true, dropCnt := min 0xFFFFFFFF (c.dropCnt + 1) } ∧
        (0 < x.wrq.bal → (t.part p).wrq = ⟨x.wrq.bal - 1, [], x.wrq.sent + 1⟩) ∧
        (x.wrq.bal ≤ 0 → (t.part p).wrq = ⟨x.wrq.bal, [(1, none)], x.wrq.sent⟩)) ∧
      (ready → x.ats.wait = [] →
        (s.needsAts c.fring.toNat = false → writes ∧ (x.wrq.wait = [] → (t.part p).ats = x.ats)) ∧
        (s.needsAts c.fring.toNat = true →
          (0 < x.ats.bal → writes ∧ (x.wrq.wait = [] → (t.part p).ats = ⟨x.ats.bal - 1, [], x.ats.sent + 1⟩)) ∧
          (x.ats.bal ≤ 0 → t.host = s.host ∧ t.vcp v = c ∧ (t.part p).wrq = x.wrq ∧ (t.part p).ats = ⟨x.ats.bal, [(1, some post)], x.ats.sent⟩))))

/-- PACKETS (R252, R302–R305, R307): IB nests a ring, and a third level or an IB in a REPEAT stops the queue; WAITMEM goes on where its
condition holds over the word of memory and else keeps the queue waiting, and a retry or a notify ends the wait; REPEAT gathers the
packets that follow and runs them the stated number of times; FFENCE discards what is fetched after it and fetches it again; SIGNAL
waits for the launches, then adds to its counter in one step and sets the fence word; CANCEL halts every launch with its id, one that
is out on an image with nothing more to do, one that waits for its move after the commit, and at graph or job level the queue skips
later ones (that a cancelled launch ends when its engines are done, log 44, is the model's reading). The causes 4 and 5 of a REPEAT whose range
the ring cuts short or holds an IB or a REPEAT, and the fence index c.next of a SIGNAL inside an IB, are readings by inference (log 79). -/
def Obligations.PacketsTakeTheirEffect : Prop :=
  ∀ s : State, s.phys = [] →
    let c := s.me_v
    let v := s.curVcp
    let error := fun (t : State) (n : Nat) => t = (s.setVcp v { c with
      stopped := true, qerr := bv 8 n, active := false, ask := .none, fetched := [], nested := [], rep := none, work := none }).pageWrite v
    let becomes := fun (t : State) (d : Vcp) => onlyVcp v s t ∧ t.me_v = d
    (∀ iova len, c.rep = none → c.nested.length < 2 → goes (.ib iova len) s (fun t =>
      becomes t { c with nested := ⟨iova, len.toNat, 0, [], 0⟩ :: c.nested })) ∧
    (∀ iova len, c.rep.isSome = true ∨ 2 ≤ c.nested.length → goes (.ib iova len) s (fun t => error t 5)) ∧
    (∀ cond addr val mask a, (s.td0Addr c.part.toNat c.td0 addr.toNat).1 = some a →
      let holds := (match cond with
        | .eq => s.mem.word a &&& mask = val &&& mask
        | .ne => s.mem.word a &&& mask ≠ val &&& mask
        | .ge => (val &&& mask).toNat ≤ (s.mem.word a &&& mask).toNat
        | .lt => (s.mem.word a &&& mask).toNat < (val &&& mask).toNat)
      let w : WaitMem := ⟨cond, addr, val, mask⟩
      (holds → goes (.waitmem cond addr val mask) s (fun t => becomes t { c with wait := none })) ∧
      (¬ holds → goes (.waitmem cond addr val mask) s (fun t => becomes t { c with wait := some w })) ∧
      (c.wait = some w →
        (holds → goes (.waitmemRetry v) s (fun t => becomes t { c with wait := none }) ∧
          goes (.notify v) s (fun t => t.me_v = { c with wait := none } ∧ v ∈ t.events)) ∧
        (¬ holds → goes (.waitmemRetry v) s (fun t => t = s) ∧ goes (.notify v) s (fun t => t.me_v = c ∧ v ∈ t.events)))) ∧
    (∀ (n : BitVec 16) (k : BitVec 8), (c.rep = none → goes (.packetRepeat n k) s (fun t =>
        becomes t { c with rep := some ⟨[], [], n.toNat - 1, k.toNat⟩ })) ∧
      (c.rep.isSome = true → goes (.packetRepeat n k) s (fun t => error t 5))) ∧
    -- the passes of a REPEAT
    (∀ (d : Vcp) (r : PacketRep), d.rep = some r →
      (r.need ≠ 0 → d.take = none → d.turn = .error 4) ∧
      (∀ p e, r.need ≠ 0 → d.take = some (p, e) →
        (bits (p.words.headD 0) 63 56 = 2 ∨ bits (p.words.headD 0) 63 56 = 4 → d.turn = .error 5) ∧
        (bits (p.words.headD 0) 63 56 ≠ 2 → bits (p.words.headD 0) 63 56 ≠ 4 →
          d.turn = .go { e with rep := some ⟨r.body ++ [p], r.rest ++ [p], r.left, r.need - 1⟩ })) ∧
      (∀ p l, r.need = 0 → r.rest = p :: l → ∃ e, d.turn = .run p e ∧ e.rep = some { r with rest := l }) ∧
      (∀ n, r.need = 0 → r.rest = [] → r.left = n + 1 → d.turn = .go { d with rep := some { r with rest := r.body, left := n } }) ∧
      (r.need = 0 → r.rest = [] → r.left = 0 → d.turn = .go { d with rep := none })) ∧
    -- FFENCE
    (c.rep = none → c.nested = [] → goes .ffence s (fun t => becomes t { c with
      head := bv 64 c.next, fetched := [], refetch := c.fetched.length })) ∧
    (∀ n l, c.rep = none → c.nested = n :: l → goes .ffence s (fun t =>
      becomes t { c with head := bv 64 c.next, fetched := [], refetch := n.fetched.length
                         nested := { n with pos := n.next, fetched := [] } :: l.map (fun m => { m with pos := m.next, fetched := [] }) })) ∧
    (∀ r b p n l, c.rep = some r → r.body = b ++ p :: r.rest → c.nested = n :: l → goes .ffence s (fun t => becomes t { c with
      rep := some ⟨b ++ [p], [], r.left, r.need + r.rest.length⟩, head := bv 64 c.next, fetched := []
      refetch := n.fetched.length + r.rest.length
      nested := { n with pos := p.next, fetched := [] } :: l.map (fun m => { m with pos := m.next, fetched := [] }) })) ∧
    (∀ r b p, c.rep = some r → r.body = b ++ p :: r.rest → c.nested = [] → goes .ffence s (fun t => becomes t { c with
      rep := some ⟨b ++ [p], [], r.left, r.need + r.rest.length⟩, head := bv 64 p.next, fetched := []
      refetch := c.fetched.length + r.rest.length })) ∧
    -- while packets that it discarded are still to be read, none of the queue runs
    (c.work = none → c.sig = none → c.stopped = false → c.ask = .packet false → c.ahead.length < c.refetch → s.vcpReady v = false ∧ s.vcpStep v = (none, s)) ∧
    -- SIGNAL
    (s.launchesDone v = true ↔ ∀ e ∈ s.strands, e.2.vcp ≠ v ∨ e.2.era ≠ c.era ∨ e.2.ist = true ∨
      (e.2.st = .absent ∧ ∀ m, (s.part e.1.part).move = some m → m.newcomer ≠ some e.1.strand)) ∧
    (∀ fab fence addr addend, s.launchesDone v = false → goes (.signal fab fence addr addend) s (fun t =>
      becomes t { c with sig := some ⟨fab, fence, addr, addend, c.next⟩ })) ∧
    (∀ fab addr addend a, s.memOk → s.launchesDone v = true → (s.td0Addr c.part.toNat c.td0 addr.toNat).1 = some a →
      goes (.signal fab false addr addend) s (fun t => t.mem.word a = s.mem.word a + addend ∧ t.me_v = { c with sig := none } ∧
        (∀ y, y < a ∨ a + 8 ≤ y → t.mem.byte y = s.mem.byte y) ∧ t.agents = s.agents ∧ t.strands = s.strands) ∧
      ∀ b, s.windowByte c.part.toNat c.fence.toNat = some b → b / 8 * 8 + 8 ≤ a ∨ a + 8 ≤ b / 8 * 8 →
        goes (.signal fab true addr addend) s (fun t => t.mem.word a = s.mem.word a + addend ∧ t.mem.word (b / 8 * 8) = bv 64 c.next ∧
          t.me_v = { c with sig := none, fenceSet := true } ∧ t.agents = s.agents ∧ t.strands = s.strands ∧
          ∀ y, (y < a ∨ a + 8 ≤ y) → (y < b / 8 * 8 ∨ b / 8 * 8 + 8 ≤ y) → t.mem.byte y = s.mem.byte y)) ∧
    -- CANCEL
    ∀ level id, goes (.cancel level id) s (fun t =>
      let code := match level with | .launch => 0 | .graph => 1 | .job => 2
      t.mem = s.mem ∧ t.fab = s.fab ∧ t.me_v.skip = (if level = .launch then c.skip else c.skip ++ [(level, id)]) ∧
      ∀ n, n < 16 →
        let k : StrandKey := ⟨s.myPart, n⟩
        let x := s.strand k
        let new := (s.part s.myPart).move.any (fun m => m.newcomer == some n)
        let hit := x.l.idAt level = id ∧ x.ist = false
        (¬ hit → t.strand k = x) ∧
        (hit → new = true → t.strand k = x ∧ ∃ m, (t.part s.myPart).move = some m ∧ m.cancelNew.isSome = true) ∧
        (hit → new = false → x.st ∈ [SState.absent, .halted] → t.strand k = x) ∧
        (hit → new = false → x.st ∉ [SState.absent, .halted] →
          (t.strand k).st = .halted ∧ (t.strand k).cancelled = some code ∧ (t.strand k).stime = x.stime ∧ (t.strand k).evp = false ∧
          (t.strand k).finalDone = decide (x.st = .evicted) ∧ (t.strand k).cutDone = (x.cutDone || x.rpp) ∧
          (∃ r, r ∈ (t.strand k).recs ∧ r.kind = 13 ∧ r.cause = 8 ∧ r.rep = 7 ∧ r.aux = bv 32 code) ∧
          (∀ a ∈ s.agentsOf k, (t.agent a).cores = (s.agent a).cores ∧ (t.agent a).b = (s.agent a).b ∧
            (x.st = .evicted → (t.agent a).acmds = [] ∧ (t.agent a).xcmds = []) ∧
            (x.st ≠ .evicted → (∀ y ∈ (s.agent a).acmds, y ∈ (t.agent a).acmds ↔ y.begun = true) ∧
              ∀ y ∈ (s.agent a).xcmds, y ∈ (t.agent a).xcmds ↔ y.started = true ∨ y.took = true))))

/-- PLACEMENT PACKETS (R245, R247, R250, R252, R253, R286, R288, R294, R302, R303, R306, R307, R309): a strand outside smask stops the
queue; a LAUNCH whose record keeps every limit and whose admission needs no move is admitted with its registers, one that needs a
move waits for it, and one whose id the queue skips does nothing; REPHASE to a free placement is pending or cuts at once; EVICT is
pending with its grace, and another or a larger area starts a new chain; RESUME runs the strand again, or leaves it stalled where a
condition of its strand cycle still holds; a refusal is posted with its cause. RESYNC writes the sections of the summary that fit,
and nothing outside its buffer (how the values lie in it is the model's choice, log 27). A LAUNCH reads one image for all rows, or one for
each row by a table; words that a step of their own has read or written before are not read or written again (log 37), and a strand that a
shadow mismatch froze is not evicted (log 92): the model's choices. -/
def Obligations.PlacementPacketsTakeTheirEffect : Prop :=
  ∀ (s : State) (n : BitVec 4),
    let c := s.me_v
    let k : StrandKey := ⟨s.myPart, n.toNat⟩
    let x := s.strand k
    let allowed := c.smask.getLsbD n.toNat = true
    let stands := x.st ∈ [SState.running, .stalled, .frozen]
    let stops := fun (u : State) => (u.setVcp s.curVcp { c with
      stopped := true, qerr := 6, active := false, ask := .none, fetched := [], nested := [], rep := none, work := none }).pageWrite s.curVcp
    let refused := fun (t : State) (cause : Nat) => ∃ r : FaultRec, r.kind = 13 ∧ r.cause = 6 ∧ r.rep = 7 ∧ r.aux = bv 32 cause ∧
      r.strand = bv 4 n.toNat ∧ r.part = bv 3 s.myPart ∧ t = s.postRec s.curVcp r
    (c.smask.getLsbD n.toNat = false → ∀ sc ph mv g a z m, ∀ i ∈ [Instr.rephase n sc ph mv, .evict n g a z, .resume n m],
      goes i s (fun t => t = stops s)) ∧
    (allowed →
      (∀ g area size, stands → ¬ (x.st = .frozen ∧ x.freeze = some (13, 1)) → goes (.evict n g area size) s (fun t => onlyStrand k s t ∧ t.strand k = { x with
        evp := true, grace := some (s.fab.ftime + 1000 * g.toNat), area := (area.toNat, size.toNat)
        layers := if x.area.1 = area.toNat ∧ size.toNat ≤ x.area.2 then x.layers else [] })) ∧
      (∀ g area size, ¬ stands ∨ (x.st = .frozen ∧ x.freeze = some (13, 1)) → goes (.evict n g area size) s (fun t => refused t 0x0C)) ∧
      -- RESUME
      (s.stallHolds k = true ↔ x.replay.isSome = true ∨ ∃ a ∈ s.agentsOf k,
        (∃ p, (s.agent a).sqr.phase = some p ∧ s.phaseReady a p = false) ∨ s.rowWaits a = true) ∧
      (∀ a : AgentKey, a.sk = k →
        let q := (s.agent a).sqr
        let w := s.textWord a q.bank q.pc
        q.loops = [] → q.halted = false →
          (∀ e i cnd, q.pc < x.l.tlen → engOf w = some e → q.refs.get e + 1 + wordIdle w = x.stime → q.skip.contains q.pc = false →
            decodeWord w [0, 0] = .ok i → q.stallCond i = some cnd → s.waits a cnd = true → s.rowWaits a = true) ∧
          (x.l.tlen ≤ q.pc ∨ (∀ e, engOf w = some e → q.refs.get e + 1 + wordIdle w ≠ x.stime) → s.rowWaits a = false)) ∧
      (∀ (m : BitVec 2) f, x.st = .frozen → x.freeze = some f → m ≠ 1 → modeOk m.toNat f = true → goes (.resume n m) s (fun t =>
        (∀ j, j ≠ k → t.strand j = s.strand j) ∧ t.mem = s.mem ∧ (t.strand k).freeze = none ∧ (t.strand k).stime = x.stime ∧
        (t.strand k).st = (if t.stallHolds k then .stalled else .running) ∧
        (t.strand k).recs = x.recs.filter (fun r => !r.freezes) ∧ (t.strand k).wstall = (if m = 2 then 0 else x.wstall) ∧
        ∀ a ∈ s.agentsOf k, t.agent a = { s.agent a with sqr := { (s.agent a).sqr with skip := [] } })) ∧
      (∀ r f, x.st = .frozen → x.freeze = some f → modeOk 1 f = true → x.recs = [r] → r.kind.toNat ∈ [1, 2, 6, 7, 8] → r.stc = bv 64 x.stime →
        goes (.resume n 1) s (fun t =>
          let a : AgentKey := ⟨s.myPart, n.toNat, r.row.toNat⟩
          t.agent a = { s.agent a with sqr := { (s.agent a).sqr with skip := (s.agent a).sqr.skip ++ [r.tidx.toNat] } } ∧
          (∀ j, j ≠ a → t.agent j = s.agent j) ∧ (t.strand k).freeze = none ∧ (t.strand k).stime = x.stime ∧
          (t.strand k).st = (if t.stallHolds k then .stalled else .running))) ∧
      (∀ m, x.freeze = none ∨ x.st ≠ .frozen ∨ (∃ f, x.freeze = some f ∧ modeOk m.toNat f = false) →
        goes (.resume n m) s (fun t => refused t 0x0C)) ∧
      -- REPHASE
      (∀ sc ph mv, let R := goes (.rephase n sc ph mv) s
        let fits := sc.toNat ≤ 4 ∧ ph.toNat < 2 ^ sc.toNat
        (¬ fits → R (fun t => refused t 0x0A)) ∧
        (fits → x.rpp = true → R (fun t => refused t 0x0B)) ∧
        (fits → x.rpp = false → ¬ stands ∨ x.ist = true → R (fun t => refused t 0x0C)) ∧
        (fits → x.rpp = false → stands → x.ist = false → s.moving s.myPart = true → R (fun t => refused t 0x0B)) ∧
        (fits → stands → x.ist = false → s.moving s.myPart = false →
          let others := (s.heldStrands s.myPart).filter (fun h => h.1 ≠ n.toNat)
          (x.sp = (2 ^ sc.toNat, ph.toNat) → R (fun t => t = s)) ∧
          (x.sp ≠ (2 ^ sc.toNat, ph.toNat) → placeNew others (2 ^ sc.toNat, ph.toNat) false mv = none → R (fun t => refused t 1)) ∧
          (x.sp ≠ (2 ^ sc.toNat, ph.toNat) → (∀ h ∈ others, collide (2 ^ sc.toNat, ph.toNat) h.2.sp = false) → R (fun t =>
            (t.strand k).rpp = true ∧ (t.strand k).nscode = sc ∧ (t.strand k).nphase = ph ∧ (t.strand k).stime = x.stime ∧
            t.agents = s.agents ∧ t.mem = s.mem ∧ (∀ j, j ≠ k → t.strand j = s.strand j) ∧
            (s.stopped k = false → (t.strand k).st = .running ∧ (t.strand k).rephaseAt = some ((x.stime + 15) / 16 * 16)) ∧
            (s.stopped k = true → (t.strand k).st = .rephasing ∧ (t.strand k).left = x.st ∧ (t.strand k).cutDone = true))) ∧
          -- a placement that needs a move: every strand whose placement changes gets a re-phase of its own
          (∀ p0 l, x.sp ≠ (2 ^ sc.toNat, ph.toNat) → placeNew others (2 ^ sc.toNat, ph.toNat) false mv = some (p0, l) → l ≠ [] → R (fun t =>
            t.agents = s.agents ∧ t.mem = s.mem ∧ (∃ m, (t.part s.myPart).move = some m ∧ m.newcomer = none) ∧
            ∀ j : StrandKey,
              let y := s.strand j
              let mine := fun (c : Cand) => j.part = s.myPart ∧ c.1.getD n.toNat = j.strand
              (∀ c ∈ l, mine c → y.sp ≠ c.2 → (t.strand j).rpp = true ∧ 2 ^ (t.strand j).nscode.toNat = c.2.1 ∧
                (t.strand j).nphase.toNat = c.2.2 ∧ (t.strand j).scode = y.scode ∧ (t.strand j).phase = y.phase ∧
                (t.strand j).stime = y.stime ∧ (s.stopped j = true → (t.strand j).cutDone = true) ∧
                (s.stopped j = false → (t.strand j).st = y.st ∧ (t.strand j).cutDone = y.cutDone)) ∧
              ((∀ c ∈ l, mine c → y.sp = c.2) → t.strand j = y)))))) ∧
    -- RESYNC
    (∀ (addr size : Word) w, c.work = some w → w.ins = .resync addr size → w.begun = true → s.phys = [] → goes (.resync addr size) s (fun t =>
      t.mem = (s.hostWrites c.part.toNat c.td0 w.left).mem ∧ t.me_v = { c with work := none } ∧ t.agents = s.agents ∧ t.strands = s.strands ∧
      t.mgmt = if w.key = 0 then s.mgmt else { s.mgmt with cause := 0 })) ∧
    (∀ (addr size : Word), s.phys = [] → (workOn c.work (.resync addr size)).begun = false →
      let all := s.summary
      let ws := cutSections all size.toNat
      let short := size.toNat < 8 * all.flatten.length ∧ 8 ≤ size.toNat
      (8 * ws.length ≤ size.toNat ∧ (8 * all.flatten.length ≤ size.toNat → ws = all.flatten) ∧
        ∃ i, ws = (all.take i).flatten ∧ ∀ d, all[i]? = some d → size.toNat < 8 * (ws.length + d.length)) ∧
      goes (.resync addr size) s (fun t => (ws ≠ [] → t.mgmt = { s.mgmt with cause := 0 }) ∧ (ws = [] → t.mgmt = s.mgmt) ∧
        t.agents = s.agents ∧ t.strands = s.strands ∧ t.parts = s.parts ∧ t.fab = s.fab ∧
        t.me_v = { c with work := none } ∧ (∀ u, u ≠ s.curVcp → t.vcp u = s.vcp u) ∧
        -- a buffer in one frame of td0 that does not hold the frame's own table entry
        ∀ mfn e w, s.memOk → 8 ≤ size.toNat → addr.toNat / 65536 = (addr.toNat + size.toNat - 1) / 65536 →
          addr.toNat + size.toNat ≤ dSize c.td0 → (s.td0Addr c.part.toNat c.td0 addr.toNat).1 = some (mfn * 65536 + addr.toNat % 65536) →
          s.stage2 c.part.toNat ((dTtb c.td0 * 65536 + 16 * (addr.toNat / 65536)) / 65536) = some (e, w) →
          let at_ := mfn * 65536 + addr.toNat % 65536
          let entry := e * 65536 + (dTtb c.td0 * 65536 + 16 * (addr.toNat / 65536)) % 65536
          (entry + 16 ≤ at_ ∨ at_ + size.toNat ≤ entry) →
          (∀ y, y < at_ ∨ at_ + size.toNat ≤ y → t.mem.byte y = s.mem.byte y) ∧
          (∀ i, i < ws.length → ¬ (short ∧ i = 0) → t.mem.word (at_ + 8 * i) = ws.getD i 0) ∧
          (short → t.mem.word at_ = bv 64 (8 * all.flatten.length)))) ∧
    -- LAUNCH
    (∀ rec : Word,
      -- words that an earlier step of the packet has read are not read again
      let got := (workOn c.work (.launch rec)).got
      let R := (s.setWork s.curVcp none).hostWords got s.myPart c.td0 rec.toNat 32
      let w := R.1
      let w1 := w.getD 1 0
      -- one image, or one of the table for each row
      let one := w1.getLsbD 15
      let R2 := R.2.hostWords (got.drop 32) s.myPart c.td0 (bits (w.getD 2 0) 47 0) (if one then 0 else (s.rows s.myPart).length)
      let tab := R2.1
      let s1 := R2.2
      let image := fun (j : Nat) => if one then bits (w.getD 2 0) 47 0 else (tab.getD j 0).toNat
      let aligned := tab.all (fun a => a.toNat % 8 == 0)
      let l := launchOf w c.td0
      let P := goes (.launch rec) s
      let posted := fun (t : State) (cause aux : Nat) => t.strands = s.strands ∧ ∃ r : FaultRec, r.kind = 13 ∧ r.cause = bv 8 cause ∧
        r.rep = 7 ∧ r.aux = bv 32 aux ∧ r.lid = l.lid ∧ t = s1.postRec s.curVcp r
      w1.toNat % 16 = n.toNat →
      (c.smask.getLsbD n.toNat = false → P (fun t => t = stops s1)) ∧
      (allowed →
        ((∃ e ∈ c.skip, l.idAt e.1 = e.2) → P (fun t => t = s1)) ∧
        ((∀ e ∈ c.skip, l.idAt e.1 ≠ e.2) →
          (∀ i, recordCheck w aligned = some i → P (fun t => posted t 7 i)) ∧
          (recordCheck w aligned = none →
            let adm := s1.admission k l (bits w1 6 4) (bits w1 10 7) (w1.getLsbD 11) (w1.getLsbD 12) (w1.getLsbD 13) (w1.getLsbD 14) c.hv .absent
            (∀ e, adm = .error e → P (fun t => posted t 6 e)) ∧
            (∀ ad, adm = .ok ad → ad.moves ≠ [] → P (fun t => (t.strand k).st = .absent ∧ (t.strand k).l = l ∧
              ∃ m, (t.part s.myPart).move = some m ∧ m.newcomer = some n.toNat)) ∧
            (∀ ad, adm = .ok ad → ad.moves = [] → P (fun t => (t.strand k).st = .admitted ∧
              (t.strand k).scode = bv 3 (bits w1 6 4) ∧ (t.strand k).phase = bv 4 ad.phase ∧ (t.strand k).stime = 0 ∧ (t.strand k).l = l ∧
              (t.strand k).mat = w1.getLsbD 13 ∧ (t.strand k).priv = w1.getLsbD 14 ∧ (t.strand k).vcp = s.curVcp ∧
              (∀ j, j ≠ k → t.strand j = s.strand j) ∧
              -- the text of each row's image
              (s.phys = [] → got = [] → ∀ (j : Nat) (r : Nat), (s.rows s.myPart)[j]? = some r → ∀ i m, i < l.tlen →
                (s1.td0Addr s.myPart c.td0 (image j + 8 * i)).1 = some m →
                KV.get? (t.agent ⟨s.myPart, n.toNat, r⟩).sqr.text0 i = some (s.mem.word m)) ∧
              ∀ a ∈ s.agentsOf k, (t.agent a).sqr.pc = 0 ∧ (t.agent a).sqr.halted = false ∧ (t.agent a).td[(0 : Fin 16)] = some c.td0 ∧
                (t.agent a).a = Vector.replicate 16 0 ∧ (t.agent a).cores = [] ∧ (t.agent a).xcmds = [] ∧ (t.agent a).b = [] ∧
                (∀ y ∈ (t.agent a).acmds, y.seq = 0) ∧
                (∀ r : Fin 16, r ≠ 0 → (t.agent a).sqr.x[r] = w.getD (16 + r.val) 0) ∧
                (∀ i : Fin 4, (t.agent a).q.tokens (8 + i.val) = bits (w.getD 5 0) (8 * i.val + 7) (8 * i.val)) ∧
                ∀ i, i < 6 → ((t.agent a).q.beat i).items = [] ∧
                  ((t.agent a).q.beat i).depth = bits (w.getD 4 0) (8 * i + 7) (8 * i)))))))

/-- MANAGEMENT (R239, R240, R309–R316): what each side-band command answers or sets; a layout with an overlap, a bad entry, a budget
beyond the limit, or a change to a partition that holds a strand is refused, and else its two steps begin; thermal events halve
and restore the energy budgets; a watchdog reset discards a commit in progress; a module reset zeroes memory, clears every
strand, loads the configuration record where its counter is not below the one accepted, and the layout from flash or the record's,
trains the ports, and the cause is kept until a RESYNC of either port has reported it. The boot slot, the record in flash and the ports' training (log 11, log 12), the summary's
layout (log 27), the digests and signature (log 28), how a watchdog reset is read (log 47), and what stays over a reset (log 57) are
the model's. -/
def Obligations.ManagementCommandsTakeTheirEffect : Prop :=
  ∀ s : State,
    let m := s.mgmt
    let answers := fun (t : State) (n : Nat) (ws : List Word) => t.mgmt = { m with responses := m.responses ++ [(n, ws)] } ∧
      t = { s with mgmt := t.mgmt, fresh := t.fresh }
    let layout := fun (l : List LayoutEntry) => (List.range 8).flatMap (fun p => layoutWords (l.getD p LayoutEntry.zero))
    goes .mgmtResync s (fun t => t = { s with mgmt := { m with cause := 0, responses := m.responses ++ [(0, s.summary.flatten)] } }) ∧
    (∃ l r, s.summary = (l ++ [bv 64 m.notDone.toNat, bv 64 m.cause]) :: r) ∧
    goes .layoutRead s (fun t => answers t 1 (layout m.inForce)) ∧
    goes .spdmMeasurements s (fun t => ∃ ws, answers t 3 ws ∧ ws.length = 31 ∧ ws.getD 6 0 = m.cfg.ctr ∧
      ws.take 6 = wordsOf 6 (Config.digest 0 [m.image]).toNat ∧
      (ws.drop 7).take 6 = wordsOf 6 (Config.digest 1 ([m.cfg.ctr.toNat, m.cfg.rows.toNat, m.cfg.trims.toNat] ++
        (layout m.cfg.lay).map (·.toNat))).toNat ∧
      (ws.drop 13).take 6 = wordsOf 6 (Config.digest 2 ((layout m.inForce).map (·.toNat))).toNat) ∧
    goes .pldmSensorRead s (fun t => ∃ ws, answers t 4 ws ∧ ws.length = 3) ∧
    (∀ l, m.commit ≠ .idle ∨ layoutBad l m.limit = true ∨
        (∃ p n, p ∈ s.changedParts l ∧ n < 16 ∧ (s.strand ⟨p, n⟩).st ≠ .absent) →
      goes (.layoutCommit l) s (fun t => answers t 2 [1])) ∧
    (∀ l, m.commit = .idle → layoutBad l m.limit = false → (∀ e ∈ s.strands, e.2.st = .absent) →
      goes (.layoutCommit l) s (fun t => t = { s with mgmt := { m with commit := .writing l } }) ∧
      ∀ u : State, u.mgmt.commit = .written l → u.commitStep.mgmt.inForce = l ∧ u.commitStep.mgmt.flash = some l ∧
        u.commitStep.mgmt.seqNo = u.mgmt.seqNo + 1 ∧
        u.commitStep.mgmt.commit = .idle ∧ ∀ p, p < 8 → p ∈ u.changedParts l → (layoutAt l p).v = true →
          (u.commitStep.part p).lay = layoutAt l p) ∧
    (∀ l, (∃ p q i, p < q ∧ q < l.length ∧ (l.getD p LayoutEntry.zero).v = true ∧ (l.getD q LayoutEntry.zero).v = true ∧ i < 8 ∧
        (((l.getD p LayoutEntry.zero).qmask.getLsbD i = true ∧ (l.getD q LayoutEntry.zero).qmask.getLsbD i = true) ∨
         ((l.getD p LayoutEntry.zero).cgmask.getLsbD i = true ∧ (l.getD q LayoutEntry.zero).cgmask.getLsbD i = true))) ∨
        (∃ e ∈ l, e.v = true ∧ (e.qmask = 0 ∨ e.cgmask = 0 ∨ e.ebud = 0 ∨ e.dstall = 0 ∨ 4 < e.fcode.toNat ∨ 16 < e.pshare.toNat ∨ e.rsv ≠ 0)) ∨
        16 < ((l.filter (·.v)).map (fun e => e.pshare.toNat)).sum ∨ m.limit < ((l.filter (·.v)).map (fun e => e.ebud.toNat)).sum →
      layoutBad l m.limit = true) ∧
    (∀ uj, (uj ≤ 200000 → goes (.powerSet uj) s (fun t => t = { s with mgmt := { m with limit := uj } })) ∧
      (200000 < uj → goes (.powerSet uj) s (fun t => t = s))) ∧
    goes .watchdogReset s (fun t => t = { s with mgmt := { m with commit := .idle, notDone := m.notDone || decide (m.commit ≠ .idle) } }) ∧
    goes .overtemp100 s (fun t => t = { s with parts := t.parts, mgmt := { m with halved := true } } ∧
      ∀ e ∈ s.parts, ∃ f ∈ t.parts, f.1 = e.1 ∧ f.2 = { e.2 with ebud := e.2.lay.ebud.toNat / 2 }) ∧
    goes .tempRecover95 s (fun t => t = { s with parts := t.parts, mgmt := { m with halved := false } } ∧
      ∀ e ∈ s.parts, ∃ f ∈ t.parts, f.1 = e.1 ∧ f.2 = { e.2 with ebud := e.2.lay.ebud.toNat }) ∧
    (let clears := fun (t : State) (cause : Nat) =>
       let n := t.mgmt
       let dead := m.slotOk = (false, false)
       t.mem = Mem.empty ∧ t.strands = [] ∧ t.agents = [] ∧ t.vcps = [] ∧ t.events = [] ∧ t.pageq = [] ∧ t.memstat = [] ∧ t.cyc = none ∧
       n.cause = (if cause = 0 then m.cause else cause) ∧ n.commit = .idle ∧ n.limit = m.limit ∧ n.suspects = m.suspects ∧ n.flash = m.flash ∧ n.slotOk = m.slotOk ∧
       n.halved = false ∧ (n.notDone = true ↔ m.notDone = true ∨ m.commit ≠ .idle) ∧
       t.fab = { Fabric.init with ports := t.fab.ports } ∧ (∃ l, t.history = s.history ++ l) ∧ (n.recovery = true ↔ dead) ∧
       (n.cfg = m.cfg ∨ m.cfg.ctr.toNat ≤ n.cfg.ctr.toNat) ∧
       (dead → n.cfg = m.cfg ∧ n.inForce = [] ∧ t.fab = Fabric.init ∧ t.link = .untrained ∧ ∀ p, (t.part p).lay.v = false) ∧
       (¬ dead → (if n.image = 0 then m.slotOk.1 else m.slotOk.2) = true ∧ n.trims = n.cfg.trims ∧
         (∀ p : Fin 32, t.fab.ports[p] ≠ 3) ∧
         (∀ l, m.flash = some l → n.inForce = l) ∧
         (m.flash = none → (layoutBad n.cfg.lay m.limit = false → n.inForce = n.cfg.lay) ∧
           (layoutBad n.cfg.lay m.limit = true → n.inForce = [])) ∧
         ∀ p, p < 8 → ((layoutAt n.inForce p).v = true → (t.part p).lay = layoutAt n.inForce p) ∧
           ((layoutAt n.inForce p).v = false → (t.part p).lay.v = false))
     goes .reset s (fun t => clears t 0) ∧ goes .overtemp110 s (fun t => clears t 110))
end

