-- ==== Sys2Proof/Laws/Encode.lean ====
section
/-! SUPPORT. Fields of packed numbers and of words: what was packed is read back. -/

namespace Sys2Proof

theorem widthSum_cons (w : Nat) (ws : List Nat) : widthSum (w :: ws) = w + widthSum ws := rfl

theorem pack_lt : ∀ fs : List (Nat × Nat), pack fs < 2 ^ widthSum (fs.map (·.1))
  | [] => by simp [pack, widthSum]
  | (w, v) :: fs => by
    have h := pack_lt fs
    have hv : v % 2 ^ w < 2 ^ w := Nat.mod_lt _ (Nat.two_pow_pos _)
    simp only [pack, List.map_cons, widthSum_cons, Nat.pow_add]
    calc v % 2 ^ w * 2 ^ widthSum (fs.map (·.1)) + pack fs
        < v % 2 ^ w * 2 ^ widthSum (fs.map (·.1)) + 2 ^ widthSum (fs.map (·.1)) := by omega
      _ = (v % 2 ^ w + 1) * 2 ^ widthSum (fs.map (·.1)) := by rw [Nat.add_mul, Nat.one_mul]
      _ ≤ 2 ^ w * 2 ^ widthSum (fs.map (·.1)) := Nat.mul_le_mul_right _ hv

theorem zip_widths : ∀ (lay vals : List Nat), lay.length = vals.length → (lay.zip vals).map (·.1) = lay
  | [], [], _ => rfl
  | _ :: lay, _ :: vals, h => by simp [zip_widths lay vals (by simpa using h)]

theorem body_lt (lay vals : List Nat) (h : lay.length = vals.length) : body lay vals < 2 ^ widthSum lay := by
  have := pack_lt (lay.zip vals)
  rwa [zip_widths lay vals h] at this

/-- Reading higher fields leaves out what stands below the layout. -/
theorem unpack_add (ws : List Nat) (a n : Nat) : unpack ws (a * 2 ^ widthSum ws + n) = unpack ws n := by
  induction ws generalizing a n with
  | nil => rfl
  | cons w ws ih =>
    simp only [unpack, widthSum_cons, Nat.pow_add]
    rw [show a * (2 ^ w * 2 ^ widthSum ws) = a * 2 ^ w * 2 ^ widthSum ws by rw [Nat.mul_assoc], ih, Nat.add_comm,
      Nat.add_mul_div_right _ _ (Nat.two_pow_pos _), Nat.add_mul_mod_self_right]

/-- WHAT IS PACKED IS READ BACK: each field cut to its width. -/
theorem unpack_body : ∀ (lay vals : List Nat), lay.length = vals.length →
    unpack lay (body lay vals) = List.zipWith (fun w v => v % 2 ^ w) lay vals
  | [], [], _ => rfl
  | w :: lay, v :: vals, h => by
    have hl : lay.length = vals.length := by simpa using h
    have hb : pack (lay.zip vals) < 2 ^ widthSum lay := body_lt lay vals hl
    have hr := unpack_body lay vals hl
    simp only [body, List.zip_cons_cons, pack, zip_widths lay vals hl, unpack, List.zipWith_cons_cons] at hr ⊢
    rw [unpack_add, hr, Nat.add_comm, Nat.add_mul_div_right _ _ (Nat.two_pow_pos _), Nat.div_eq_of_lt hb, Nat.zero_add, Nat.mod_mod]

/-! ## Words -/

theorem mkWord_toNat (eng idle op b : Nat) (he : eng < 8) (hi : idle < 1024) (ho : op < 256) (hb : b < 2 ^ 43) :
    (mkWord eng idle op b).toNat = eng * 2 ^ 61 + idle * 2 ^ 51 + op * 2 ^ 43 + b := by
  simp only [mkWord, pack, List.map_cons, List.map_nil, widthSum, List.foldr_cons, List.foldr_nil, BitVec.toNat_ofNat]
  omega

theorem wordEng_mkWord (eng idle op b : Nat) (he : eng < 8) (hi : idle < 1024) (ho : op < 256) (hb : b < 2 ^ 43) :
    wordEng (mkWord eng idle op b) = eng := by
  rw [wordEng, mkWord_toNat _ _ _ _ he hi ho hb]; omega

theorem wordIdle_mkWord (eng idle op b : Nat) (he : eng < 8) (hi : idle < 1024) (ho : op < 256) (hb : b < 2 ^ 43) :
    wordIdle (mkWord eng idle op b) = idle := by
  rw [wordIdle, mkWord_toNat _ _ _ _ he hi ho hb]; omega

theorem wordOp_mkWord (eng idle op b : Nat) (he : eng < 8) (hi : idle < 1024) (ho : op < 256) (hb : b < 2 ^ 43) :
    wordOp (mkWord eng idle op b) = op := by
  rw [wordOp, mkWord_toNat _ _ _ _ he hi ho hb]; omega

theorem wordBody_mkWord (eng idle op b : Nat) (he : eng < 8) (hi : idle < 1024) (ho : op < 256) (hb : b < 2 ^ 43) :
    wordBody (mkWord eng idle op b) = b := by
  rw [wordBody, mkWord_toNat _ _ _ _ he hi ho hb]; omega

theorem litValue_mkLit (v : BitVec 32) : litValue (mkLit v) = some v := by
  have h := mkWord_toNat 7 0 0 v.toNat (by omega) (by omega) (by omega) (by have := v.isLt; omega)
  have hv := v.isLt
  have e : wordEng (mkLit v) = 7 := wordEng_mkWord 7 0 0 v.toNat (by omega) (by omega) (by omega) (by omega)
  rw [litValue, if_pos]
  · rw [show (mkLit v).toNat = 7 * 2 ^ 61 + 0 * 2 ^ 51 + 0 * 2 ^ 43 + v.toNat from h]
    congr 1
    apply BitVec.eq_of_toNat_eq
    rw [BitVec.toNat_ofNat]; omega
  · refine ⟨e, ?_⟩
    rw [show (mkLit v).toNat = 7 * 2 ^ 61 + 0 * 2 ^ 51 + 0 * 2 ^ 43 + v.toNat from h]; omega

theorem takeLits_mkLit : ∀ (l : List (BitVec 32)) (rest : List Word), takeLits l.length (l.map mkLit ++ rest) = some l
  | [], _ => rfl
  | v :: l, rest => by
    simp [takeLits, litValue_mkLit, takeLits_mkLit l rest]

end Sys2Proof
end

