-- ==== Sys2Proof/Laws/Memory.lean ====
section
/-! SUPPORT. Device memory: reads after writes, and the canonical form, which every operation on memory keeps. -/

namespace Sys2Proof.Machine

open Sys2Proof

/-! ## Reads after writes -/

theorem cellsGet_put_self (l : List Host.Cell) (a : Nat) (v : Byte) (h : rising (l.map (·.1)) = true) :
    cellsGet (cellsPut l a v) a = v := by
  induction l with
  | nil => by_cases hv : v = Mem.unlisted <;> simp [cellsPut, cellsGet, hv]
  | cons e l ih =>
    obtain ⟨k, w⟩ := e
    have hl : rising (l.map (·.1)) = true := by
      cases l with
      | nil => rfl
      | cons e' l => simp [rising] at h ⊢; exact h.2
    have absent : a < k → cellsGet ((k, w) :: l) a = Mem.unlisted := by
      intro hk
      clear ih hl
      induction l generalizing k w with
      | nil => simp [cellsGet, Nat.ne_of_gt hk]
      | cons e' l ih =>
        obtain ⟨k', w'⟩ := e'
        simp only [List.map_cons, rising, Bool.and_eq_true, decide_eq_true_eq] at h
        rw [cellsGet, if_neg (Nat.ne_of_gt hk)]
        exact ih k' w' h.2 (Nat.lt_trans hk h.1)
    have after : a = k → cellsGet l a = Mem.unlisted := by
      intro hk
      subst hk
      clear ih absent
      cases l with
      | nil => rfl
      | cons e' l =>
        obtain ⟨k', w'⟩ := e'
        simp only [List.map_cons, rising, Bool.and_eq_true, decide_eq_true_eq] at h
        have : ∀ (l : List Host.Cell) (k' : Nat) (w' : Byte), rising ((k', w') :: l |>.map (·.1)) = true → a < k' →
            cellsGet ((k', w') :: l) a = Mem.unlisted := by
          intro l
          induction l with
          | nil => intro k' w' _ hk; simp [cellsGet, Nat.ne_of_gt hk]
          | cons e l ih =>
            intro k' w' hr hk
            obtain ⟨k2, w2⟩ := e
            simp only [List.map_cons, rising, Bool.and_eq_true, decide_eq_true_eq] at hr
            rw [cellsGet, if_neg (Nat.ne_of_gt hk)]
            exact ih k2 w2 hr.2 (Nat.lt_trans hk hr.1)
        exact this l k' w' h.2 h.1
    unfold cellsPut
    split
    · split
      · rename_i hk hv; rw [absent hk, hv]
      · simp [cellsGet]
    · split
      · split
        · rename_i hk hv; rw [after hk, hv]
        · simp [cellsGet]
      · rename_i h1 h2
        rw [cellsGet, if_neg (fun h => h2 h.symm)]
        exact ih hl

theorem cellsGet_put_ne (l : List Host.Cell) {a b : Nat} (v : Byte) (h : b ≠ a) :
    cellsGet (cellsPut l a v) b = cellsGet l b := by
  induction l with
  | nil => by_cases hv : v = Mem.unlisted <;> simp [cellsPut, cellsGet, hv, Ne.symm h]
  | cons e l ih =>
    obtain ⟨k, w⟩ := e
    unfold cellsPut
    split
    · split <;> simp [cellsGet, Ne.symm h]
    · split
      · rename_i hk; subst hk; split <;> simp [cellsGet, Ne.symm h]
      · simp only [cellsGet, ih]

theorem Mem.byte_putByte_ne (m : Mem) {a b : Nat} (v : Byte) (h : b ≠ a) : (m.putByte a v).byte b = m.byte b :=
  cellsGet_put_ne _ _ h

theorem Mem.byte_setPois (m : Mem) (l a : Nat) (p : Bool) : (m.setPois l p).byte a = m.byte a := rfl

/-! ## The canonical form -/

theorem rising_iff (l : List Nat) : rising l = true ↔ l.Pairwise (· < ·) := by
  induction l with
  | nil => simp [rising]
  | cons a l ih =>
    cases l with
    | nil => simp [rising]
    | cons b l =>
      rw [rising, Bool.and_eq_true, ih, decide_eq_true_eq, List.pairwise_cons (a := a)]
      constructor
      · rintro ⟨hab, hp⟩
        refine ⟨fun c hc => ?_, hp⟩
        rcases List.mem_cons.mp hc with rfl | hc
        · exact hab
        · exact Nat.lt_trans hab ((List.pairwise_cons.mp hp).1 c hc)
      · rintro ⟨ha, hp⟩
        exact ⟨ha b (List.mem_cons_self ..), hp⟩

theorem cellsPut_keys_mem (l : List Host.Cell) (a : Nat) (v : Byte) : ∀ c ∈ cellsPut l a v, c.1 = a ∨ c ∈ l := by
  induction l with
  | nil => intro c hc; unfold cellsPut at hc; split at hc <;> simp_all
  | cons e l ih =>
    obtain ⟨k, w⟩ := e
    intro c hc
    unfold cellsPut at hc
    split at hc
    · split at hc
      · exact Or.inr hc
      · rcases List.mem_cons.mp hc with rfl | hc
        · exact Or.inl rfl
        · exact Or.inr hc
    · split at hc
      · split at hc
        · exact Or.inr (List.mem_cons_of_mem _ hc)
        · rcases List.mem_cons.mp hc with rfl | hc
          · exact Or.inl rfl
          · exact Or.inr (List.mem_cons_of_mem _ hc)
      · rcases List.mem_cons.mp hc with rfl | hc
        · exact Or.inr (List.mem_cons_self ..)
        · exact (ih c hc).imp id (List.mem_cons_of_mem _)

theorem cellsPut_rising (l : List Host.Cell) (a : Nat) (v : Byte) (h : (l.map (·.1)).Pairwise (· < ·)) :
    ((cellsPut l a v).map (·.1)).Pairwise (· < ·) := by
  induction l with
  | nil => unfold cellsPut; split <;> simp
  | cons e l ih =>
    obtain ⟨k, w⟩ := e
    rw [List.map_cons, List.pairwise_cons] at h
    unfold cellsPut
    split
    · rename_i hk
      split
      · rw [List.map_cons, List.pairwise_cons]; exact h
      · rw [List.map_cons, List.map_cons, List.pairwise_cons, List.pairwise_cons]
        refine ⟨fun c hc => ?_, h⟩
        rcases List.mem_cons.mp hc with rfl | hc
        · exact hk
        · exact Nat.lt_trans hk (h.1 c hc)
    · split
      · rename_i hk
        split
        · exact h.2
        · rw [List.map_cons, List.pairwise_cons, hk]; exact h
      · rename_i h1 h2
        rw [List.map_cons, List.pairwise_cons]
        refine ⟨fun c hc => ?_, ih h.2⟩
        obtain ⟨d, hd, rfl⟩ := List.mem_map.mp hc
        rcases cellsPut_keys_mem l a v d hd with hd | hd
        · show k < d.1
          omega
        · exact h.1 _ (List.mem_map_of_mem hd)

theorem cellsPut_listed (l : List Host.Cell) (a : Nat) (v : Byte) (h : ∀ c ∈ l, c.2 ≠ Mem.unlisted) :
    ∀ c ∈ cellsPut l a v, c.2 ≠ Mem.unlisted := by
  induction l with
  | nil => intro c hc; unfold cellsPut at hc; split at hc <;> simp_all
  | cons e l ih =>
    obtain ⟨k, w⟩ := e
    have hl := fun c hc => h c (List.mem_cons_of_mem _ hc)
    intro c hc
    unfold cellsPut at hc
    split at hc
    · split at hc
      · exact h c hc
      · rcases List.mem_cons.mp hc with rfl | hc
        · assumption
        · exact h c hc
    · split at hc
      · split at hc
        · exact hl c hc
        · rcases List.mem_cons.mp hc with rfl | hc
          · assumption
          · exact hl c hc
      · rcases List.mem_cons.mp hc with rfl | hc
        · exact h _ (List.mem_cons_self ..)
        · exact ih hl c hc

theorem linePut_mem (l : List Nat) (a : Nat) : ∀ c ∈ linePut l a, c = a ∨ c ∈ l := by
  induction l with
  | nil => simp [linePut]
  | cons k l ih =>
    intro c hc
    unfold linePut at hc
    split at hc
    · simpa using hc
    · split at hc
      · exact Or.inr hc
      · rcases List.mem_cons.mp hc with rfl | hc
        · exact Or.inr (List.mem_cons_self ..)
        · exact (ih c hc).imp id (List.mem_cons_of_mem _)

theorem linePut_rising (l : List Nat) (a : Nat) (h : l.Pairwise (· < ·)) : (linePut l a).Pairwise (· < ·) := by
  induction l with
  | nil => simp [linePut]
  | cons k l ih =>
    have hk := List.pairwise_cons.mp h
    unfold linePut
    split
    · rename_i ha
      refine List.pairwise_cons.mpr ⟨fun c hc => ?_, h⟩
      rcases List.mem_cons.mp hc with rfl | hc
      · exact ha
      · exact Nat.lt_trans ha (hk.1 c hc)
    · split
      · exact h
      · refine List.pairwise_cons.mpr ⟨fun c hc => ?_, ih hk.2⟩
        rcases linePut_mem l a c hc with rfl | hc
        · omega
        · exact hk.1 c hc

theorem lineDel_sublist (l : List Nat) (a : Nat) : (lineDel l a).Sublist l := by
  induction l with
  | nil => exact List.Sublist.refl _
  | cons k l ih =>
    unfold lineDel
    split
    · exact List.sublist_cons_self ..
    · exact ih.cons_cons _

/-- The canonical form in parts. -/
theorem Mem.wf_iff (m : Mem) : m.wf = true ↔
    (m.cells.map (·.1)).Pairwise (· < ·) ∧ (∀ c ∈ m.cells, c.2 ≠ Mem.unlisted) ∧ m.pois.Pairwise (· < ·) := by
  simp [Mem.wf, rising_iff, and_assoc]

theorem Mem.wf_empty : Mem.empty.wf = true := rfl

theorem Mem.wf_putByte (m : Mem) (a : Nat) (v : Byte) (h : m.wf = true) : (m.putByte a v).wf = true := by
  rw [Mem.wf_iff] at h ⊢
  exact ⟨cellsPut_rising _ _ _ h.1, cellsPut_listed _ _ _ h.2.1, h.2.2⟩

theorem Mem.wf_setPois (m : Mem) (l : Nat) (p : Bool) (h : m.wf = true) : (m.setPois l p).wf = true := by
  rw [Mem.wf_iff] at h ⊢
  refine ⟨h.1, h.2.1, ?_⟩
  unfold Mem.setPois
  cases p
  · exact h.2.2.sublist (lineDel_sublist _ _)
  · exact linePut_rising _ _ h.2.2

/-- A fold keeps what each of its steps keeps. -/
theorem foldl_keeps {α β : Type} (P : β → Prop) (f : β → α → β) (l : List α) (b : β) (hb : P b)
    (hf : ∀ b a, P b → P (f b a)) : P (l.foldl f b) := by
  induction l generalizing b with
  | nil => exact hb
  | cons a l ih => exact ih _ (hf b a hb)

theorem Mem.wf_putWord (m : Mem) (a : Nat) (w : Word) (h : m.wf = true) : (m.putWord a w).wf = true :=
  foldl_keeps (fun m => m.wf = true) _ _ _ h (fun m _ hm => Mem.wf_putByte m _ _ hm)

theorem Mem.wf_commit (m : Mem) (ws : List WWrite) (h : m.wf = true) : (m.commit ws).wf = true :=
  foldl_keeps (fun m => m.wf = true) _ _ _
    (foldl_keeps (fun m => m.wf = true) _ _ _ h (fun m _ hm => Mem.wf_putWord m _ _ hm))
    (fun m _ hm => Mem.wf_setPois m _ _ hm)

theorem Mem.byte_putByte (m : Mem) (a : Nat) (v : Byte) (h : m.wf = true) : (m.putByte a v).byte a = v := by
  rw [Mem.wf, Bool.and_eq_true, Bool.and_eq_true] at h
  exact cellsGet_put_self _ _ _ h.1.1

theorem Mem.byte_putWord_ne (m : Mem) {a b : Nat} (w : Word) (h : b < a ∨ a + 8 ≤ b) : (m.putWord a w).byte b = m.byte b := by
  have : ∀ (l : List Nat) (m : Mem), (∀ i ∈ l, i < 8) →
      (l.foldl (fun m i => m.putByte (a + i) ((w >>> (8 * i)).setWidth 8)) m).byte b = m.byte b := by
    intro l
    induction l with
    | nil => intro m _; rfl
    | cons i l ih =>
      intro m hl
      have hi := hl i (List.mem_cons_self ..)
      rw [List.foldl_cons, ih _ (fun j hj => hl j (List.mem_cons_of_mem _ hj))]
      exact Mem.byte_putByte_ne m _ (by omega)
  exact this _ m (fun i hi => List.mem_range.mp hi)

theorem Mem.byte_commit_ne (m : Mem) (ws : List WWrite) {b : Nat} (h : ∀ w ∈ ws, b < w.1 ∨ w.1 + 8 ≤ b) :
    (m.commit ws).byte b = m.byte b := by
  have lines : ∀ (l : List Nat) (f : Mem → Nat → Bool) (m : Mem),
      (l.foldl (fun m l => m.setPois l (f m l)) m).byte b = m.byte b := by
    intro l f
    induction l with
    | nil => intro m; rfl
    | cons i l ih => intro m; rw [List.foldl_cons, ih, Mem.byte_setPois]
  have words : ∀ (ws : List WWrite) (m : Mem), (∀ w ∈ ws, b < w.1 ∨ w.1 + 8 ≤ b) →
      (ws.foldl (fun m w => m.putWord w.1 w.2.1) m).byte b = m.byte b := by
    intro ws
    induction ws with
    | nil => intro m _; rfl
    | cons w ws ih =>
      intro m hw
      rw [List.foldl_cons, ih _ (fun v hv => hw v (List.mem_cons_of_mem _ hv))]
      exact Mem.byte_putWord_ne m _ (hw w (List.mem_cons_self ..))
  rw [Mem.commit]
  exact (lines _ (fun m l => linePois ws l (m.pois.contains l)) _).trans (words ws m h)

end Sys2Proof.Machine
end

