-- ==== Sys2Proof/Laws/State.lean ====
section
/-! SUPPORT. What each update of the state leaves as it was, field by field, and keyed lists: reads after writes. -/

namespace Sys2Proof

/-! ## Keyed lists -/

theorem KV.get?_put_self {α β : Type} [DecidableEq α] (m : KV α β) (a : α) (b : β) : (KV.put m a b).get? a = some b := by
  induction m with
  | nil => simp [KV.put, KV.get?]
  | cons e m ih =>
    obtain ⟨k, v⟩ := e
    by_cases h : k = a <;> simp [KV.put, KV.get?, h, ih]

theorem KV.get?_put_ne {α β : Type} [DecidableEq α] (m : KV α β) {a c : α} (b : β) (h : c ≠ a) :
    (KV.put m a b).get? c = m.get? c := by
  induction m with
  | nil => simp [KV.put, KV.get?, Ne.symm h]
  | cons e m ih =>
    obtain ⟨k, v⟩ := e
    by_cases hk : k = a
    · subst hk; simp [KV.put, KV.get?, Ne.symm h]
    · rw [KV.put, if_neg hk, KV.get?, KV.get?, ih]

theorem KV.getD_put_self {α β : Type} [DecidableEq α] (m : KV α β) (a : α) (b d : β) : (KV.put m a b).getD a d = b := by
  simp [KV.getD, KV.get?_put_self]

theorem KV.getD_put_ne {α β : Type} [DecidableEq α] (m : KV α β) {a c : α} (b d : β) (h : c ≠ a) :
    (KV.put m a b).getD c d = m.getD c d := by
  simp [KV.getD, KV.get?_put_ne m b h]

theorem KV.get?_del_self {α β : Type} [DecidableEq α] (m : KV α β) (a : α) : (KV.del m a).get? a = none := by
  induction m with
  | nil => rfl
  | cons e m ih =>
    obtain ⟨k, v⟩ := e
    by_cases h : k = a
    · simpa [KV.del, h] using ih
    · simpa [KV.del, KV.get?, h] using ih

end Sys2Proof

namespace Sys2Proof.Machine

open Sys2Proof

/-! ## Parts of the state: reads after writes -/

theorem State.agent_setAgent (s : State) (k : AgentKey) (a : Agent) : (s.setAgent k a).agent k = a := KV.getD_put_self ..

theorem State.agent_setAgent_ne (s : State) {k j : AgentKey} (a : Agent) (h : j ≠ k) : (s.setAgent k a).agent j = s.agent j :=
  KV.getD_put_ne _ _ _ h

theorem State.strand_setStrand (s : State) (k : StrandKey) (x : Strand) : (s.setStrand k x).strand k = x := KV.getD_put_self ..

theorem State.strand_setStrand_ne (s : State) {k j : StrandKey} (x : Strand) (h : j ≠ k) :
    (s.setStrand k x).strand j = s.strand j := KV.getD_put_ne _ _ _ h

theorem State.part_setPart (s : State) (p : Nat) (x : Part) : (s.setPart p x).part p = x := KV.getD_put_self ..

theorem State.part_setPart_ne (s : State) {p q : Nat} (x : Part) (h : q ≠ p) : (s.setPart p x).part q = s.part q :=
  KV.getD_put_ne _ _ _ h

theorem State.vcp_setVcp (s : State) (v : Nat) (x : Vcp) : (s.setVcp v x).vcp v = x := KV.getD_put_self ..

theorem State.vcp_setVcp_ne (s : State) {v u : Nat} (x : Vcp) (h : u ≠ v) : (s.setVcp v x).vcp u = s.vcp u :=
  KV.getD_put_ne _ _ _ h

theorem Agent.core_setCore (a : Agent) (c : Nat) (x : Core) : (a.setCore c x).core c = x := KV.getD_put_self ..

theorem Agent.core_setCore_ne (a : Agent) {c d : Nat} (x : Core) (h : d ≠ c) : (a.setCore c x).core d = a.core d :=
  KV.getD_put_ne _ _ _ h

theorem State.me_setMe (s : State) (a : Agent) : (s.setMe a).me = a := State.agent_setAgent ..

theorem State.agent_setMe_ne (s : State) {j : AgentKey} (a : Agent) (h : j ≠ s.cur) : (s.setMe a).agent j = s.agent j :=
  State.agent_setAgent_ne s a h

theorem State.sqr_setSqr (s : State) (q : Sqr) : (s.setSqr q).sqr = q := by simp [State.sqr, State.setSqr, State.me_setMe]

theorem State.sqr_pend (s : State) (p : Pend) : (s.pend p).sqr = { s.sqr with pend := s.sqr.pend ++ [p] } := State.sqr_setSqr ..

theorem Sqr.xr_zero (q : Sqr) : q.xr 0 = 0 := rfl

/-! ## setAgent -/

@[simp] theorem State.setAgent_now (s : State) (k : AgentKey) (a : Agent) : (s.setAgent k a).now = s.now := rfl
@[simp] theorem State.setAgent_fresh (s : State) (k : AgentKey) (a : Agent) : (s.setAgent k a).fresh = s.fresh := rfl
@[simp] theorem State.setAgent_serial (s : State) (k : AgentKey) (a : Agent) : (s.setAgent k a).serial = s.serial := rfl
@[simp] theorem State.setAgent_pending (s : State) (k : AgentKey) (a : Agent) : (s.setAgent k a).pending = s.pending := rfl
@[simp] theorem State.setAgent_cyc (s : State) (k : AgentKey) (a : Agent) : (s.setAgent k a).cyc = s.cyc := rfl
@[simp] theorem State.setAgent_cur (s : State) (k : AgentKey) (a : Agent) : (s.setAgent k a).cur = s.cur := rfl
@[simp] theorem State.setAgent_mem (s : State) (k : AgentKey) (a : Agent) : (s.setAgent k a).mem = s.mem := rfl
@[simp] theorem State.setAgent_wlog (s : State) (k : AgentKey) (a : Agent) : (s.setAgent k a).wlog = s.wlog := rfl
@[simp] theorem State.setAgent_flags (s : State) (k : AgentKey) (a : Agent) : (s.setAgent k a).flags = s.flags := rfl
@[simp] theorem State.setAgent_gcorr (s : State) (k : AgentKey) (a : Agent) : (s.setAgent k a).gcorr = s.gcorr := rfl
@[simp] theorem State.setAgent_hostReads (s : State) (k : AgentKey) (a : Agent) : (s.setAgent k a).hostReads = s.hostReads := rfl
@[simp] theorem State.setAgent_fmaps (s : State) (k : AgentKey) (a : Agent) : (s.setAgent k a).fmaps = s.fmaps := rfl
@[simp] theorem State.setAgent_host (s : State) (k : AgentKey) (a : Agent) : (s.setAgent k a).host = s.host := rfl
@[simp] theorem State.setAgent_phys (s : State) (k : AgentKey) (a : Agent) : (s.setAgent k a).phys = s.phys := rfl
@[simp] theorem State.setAgent_memstat (s : State) (k : AgentKey) (a : Agent) : (s.setAgent k a).memstat = s.memstat := rfl
@[simp] theorem State.setAgent_parts (s : State) (k : AgentKey) (a : Agent) : (s.setAgent k a).parts = s.parts := rfl
@[simp] theorem State.setAgent_strands (s : State) (k : AgentKey) (a : Agent) : (s.setAgent k a).strands = s.strands := rfl
@[simp] theorem State.setAgent_fab (s : State) (k : AgentKey) (a : Agent) : (s.setAgent k a).fab = s.fab := rfl
@[simp] theorem State.setAgent_vcps (s : State) (k : AgentKey) (a : Agent) : (s.setAgent k a).vcps = s.vcps := rfl
@[simp] theorem State.setAgent_events (s : State) (k : AgentKey) (a : Agent) : (s.setAgent k a).events = s.events := rfl
@[simp] theorem State.setAgent_curVcp (s : State) (k : AgentKey) (a : Agent) : (s.setAgent k a).curVcp = s.curVcp := rfl
@[simp] theorem State.setAgent_pageq (s : State) (k : AgentKey) (a : Agent) : (s.setAgent k a).pageq = s.pageq := rfl
@[simp] theorem State.setAgent_unposted (s : State) (k : AgentKey) (a : Agent) : (s.setAgent k a).unposted = s.unposted := rfl
@[simp] theorem State.setAgent_link (s : State) (k : AgentKey) (a : Agent) : (s.setAgent k a).link = s.link := rfl
@[simp] theorem State.setAgent_mgmt (s : State) (k : AgentKey) (a : Agent) : (s.setAgent k a).mgmt = s.mgmt := rfl
@[simp] theorem State.setAgent_history (s : State) (k : AgentKey) (a : Agent) : (s.setAgent k a).history = s.history := rfl
@[simp] theorem State.setAgent_strand (s : State) (k : AgentKey) (a : Agent) (k' : StrandKey) : (s.setAgent k a).strand k' = s.strand k' := rfl
@[simp] theorem State.setAgent_part (s : State) (k : AgentKey) (a : Agent) (p' : Nat) : (s.setAgent k a).part p' = s.part p' := rfl
@[simp] theorem State.setAgent_vcp (s : State) (k : AgentKey) (a : Agent) (v' : Nat) : (s.setAgent k a).vcp v' = s.vcp v' := rfl

/-! ## setStrand -/

@[simp] theorem State.setStrand_now (s : State) (k : StrandKey) (x : Strand) : (s.setStrand k x).now = s.now := rfl
@[simp] theorem State.setStrand_fresh (s : State) (k : StrandKey) (x : Strand) : (s.setStrand k x).fresh = s.fresh := rfl
@[simp] theorem State.setStrand_serial (s : State) (k : StrandKey) (x : Strand) : (s.setStrand k x).serial = s.serial := rfl
@[simp] theorem State.setStrand_pending (s : State) (k : StrandKey) (x : Strand) : (s.setStrand k x).pending = s.pending := rfl
@[simp] theorem State.setStrand_cyc (s : State) (k : StrandKey) (x : Strand) : (s.setStrand k x).cyc = s.cyc := rfl
@[simp] theorem State.setStrand_cur (s : State) (k : StrandKey) (x : Strand) : (s.setStrand k x).cur = s.cur := rfl
@[simp] theorem State.setStrand_mem (s : State) (k : StrandKey) (x : Strand) : (s.setStrand k x).mem = s.mem := rfl
@[simp] theorem State.setStrand_wlog (s : State) (k : StrandKey) (x : Strand) : (s.setStrand k x).wlog = s.wlog := rfl
@[simp] theorem State.setStrand_flags (s : State) (k : StrandKey) (x : Strand) : (s.setStrand k x).flags = s.flags := rfl
@[simp] theorem State.setStrand_gcorr (s : State) (k : StrandKey) (x : Strand) : (s.setStrand k x).gcorr = s.gcorr := rfl
@[simp] theorem State.setStrand_hostReads (s : State) (k : StrandKey) (x : Strand) : (s.setStrand k x).hostReads = s.hostReads := rfl
@[simp] theorem State.setStrand_fmaps (s : State) (k : StrandKey) (x : Strand) : (s.setStrand k x).fmaps = s.fmaps := rfl
@[simp] theorem State.setStrand_host (s : State) (k : StrandKey) (x : Strand) : (s.setStrand k x).host = s.host := rfl
@[simp] theorem State.setStrand_phys (s : State) (k : StrandKey) (x : Strand) : (s.setStrand k x).phys = s.phys := rfl
@[simp] theorem State.setStrand_memstat (s : State) (k : StrandKey) (x : Strand) : (s.setStrand k x).memstat = s.memstat := rfl
@[simp] theorem State.setStrand_parts (s : State) (k : StrandKey) (x : Strand) : (s.setStrand k x).parts = s.parts := rfl
@[simp] theorem State.setStrand_agents (s : State) (k : StrandKey) (x : Strand) : (s.setStrand k x).agents = s.agents := rfl
@[simp] theorem State.setStrand_fab (s : State) (k : StrandKey) (x : Strand) : (s.setStrand k x).fab = s.fab := rfl
@[simp] theorem State.setStrand_vcps (s : State) (k : StrandKey) (x : Strand) : (s.setStrand k x).vcps = s.vcps := rfl
@[simp] theorem State.setStrand_events (s : State) (k : StrandKey) (x : Strand) : (s.setStrand k x).events = s.events := rfl
@[simp] theorem State.setStrand_curVcp (s : State) (k : StrandKey) (x : Strand) : (s.setStrand k x).curVcp = s.curVcp := rfl
@[simp] theorem State.setStrand_pageq (s : State) (k : StrandKey) (x : Strand) : (s.setStrand k x).pageq = s.pageq := rfl
@[simp] theorem State.setStrand_unposted (s : State) (k : StrandKey) (x : Strand) : (s.setStrand k x).unposted = s.unposted := rfl
@[simp] theorem State.setStrand_link (s : State) (k : StrandKey) (x : Strand) : (s.setStrand k x).link = s.link := rfl
@[simp] theorem State.setStrand_mgmt (s : State) (k : StrandKey) (x : Strand) : (s.setStrand k x).mgmt = s.mgmt := rfl
@[simp] theorem State.setStrand_history (s : State) (k : StrandKey) (x : Strand) : (s.setStrand k x).history = s.history := rfl
@[simp] theorem State.setStrand_agent (s : State) (k : StrandKey) (x : Strand) (k' : AgentKey) : (s.setStrand k x).agent k' = s.agent k' := rfl
@[simp] theorem State.setStrand_part (s : State) (k : StrandKey) (x : Strand) (p' : Nat) : (s.setStrand k x).part p' = s.part p' := rfl
@[simp] theorem State.setStrand_vcp (s : State) (k : StrandKey) (x : Strand) (v' : Nat) : (s.setStrand k x).vcp v' = s.vcp v' := rfl

/-! ## setPart -/

@[simp] theorem State.setPart_now (s : State) (p : Nat) (x : Part) : (s.setPart p x).now = s.now := rfl
@[simp] theorem State.setPart_fresh (s : State) (p : Nat) (x : Part) : (s.setPart p x).fresh = s.fresh := rfl
@[simp] theorem State.setPart_serial (s : State) (p : Nat) (x : Part) : (s.setPart p x).serial = s.serial := rfl
@[simp] theorem State.setPart_pending (s : State) (p : Nat) (x : Part) : (s.setPart p x).pending = s.pending := rfl
@[simp] theorem State.setPart_cyc (s : State) (p : Nat) (x : Part) : (s.setPart p x).cyc = s.cyc := rfl
@[simp] theorem State.setPart_cur (s : State) (p : Nat) (x : Part) : (s.setPart p x).cur = s.cur := rfl
@[simp] theorem State.setPart_mem (s : State) (p : Nat) (x : Part) : (s.setPart p x).mem = s.mem := rfl
@[simp] theorem State.setPart_wlog (s : State) (p : Nat) (x : Part) : (s.setPart p x).wlog = s.wlog := rfl
@[simp] theorem State.setPart_flags (s : State) (p : Nat) (x : Part) : (s.setPart p x).flags = s.flags := rfl
@[simp] theorem State.setPart_gcorr (s : State) (p : Nat) (x : Part) : (s.setPart p x).gcorr = s.gcorr := rfl
@[simp] theorem State.setPart_hostReads (s : State) (p : Nat) (x : Part) : (s.setPart p x).hostReads = s.hostReads := rfl
@[simp] theorem State.setPart_fmaps (s : State) (p : Nat) (x : Part) : (s.setPart p x).fmaps = s.fmaps := rfl
@[simp] theorem State.setPart_host (s : State) (p : Nat) (x : Part) : (s.setPart p x).host = s.host := rfl
@[simp] theorem State.setPart_phys (s : State) (p : Nat) (x : Part) : (s.setPart p x).phys = s.phys := rfl
@[simp] theorem State.setPart_memstat (s : State) (p : Nat) (x : Part) : (s.setPart p x).memstat = s.memstat := rfl
@[simp] theorem State.setPart_strands (s : State) (p : Nat) (x : Part) : (s.setPart p x).strands = s.strands := rfl
@[simp] theorem State.setPart_agents (s : State) (p : Nat) (x : Part) : (s.setPart p x).agents = s.agents := rfl
@[simp] theorem State.setPart_fab (s : State) (p : Nat) (x : Part) : (s.setPart p x).fab = s.fab := rfl
@[simp] theorem State.setPart_vcps (s : State) (p : Nat) (x : Part) : (s.setPart p x).vcps = s.vcps := rfl
@[simp] theorem State.setPart_events (s : State) (p : Nat) (x : Part) : (s.setPart p x).events = s.events := rfl
@[simp] theorem State.setPart_curVcp (s : State) (p : Nat) (x : Part) : (s.setPart p x).curVcp = s.curVcp := rfl
@[simp] theorem State.setPart_pageq (s : State) (p : Nat) (x : Part) : (s.setPart p x).pageq = s.pageq := rfl
@[simp] theorem State.setPart_unposted (s : State) (p : Nat) (x : Part) : (s.setPart p x).unposted = s.unposted := rfl
@[simp] theorem State.setPart_link (s : State) (p : Nat) (x : Part) : (s.setPart p x).link = s.link := rfl
@[simp] theorem State.setPart_mgmt (s : State) (p : Nat) (x : Part) : (s.setPart p x).mgmt = s.mgmt := rfl
@[simp] theorem State.setPart_history (s : State) (p : Nat) (x : Part) : (s.setPart p x).history = s.history := rfl
@[simp] theorem State.setPart_agent (s : State) (p : Nat) (x : Part) (k' : AgentKey) : (s.setPart p x).agent k' = s.agent k' := rfl
@[simp] theorem State.setPart_strand (s : State) (p : Nat) (x : Part) (k' : StrandKey) : (s.setPart p x).strand k' = s.strand k' := rfl
@[simp] theorem State.setPart_vcp (s : State) (p : Nat) (x : Part) (v' : Nat) : (s.setPart p x).vcp v' = s.vcp v' := rfl

/-! ## setVcp -/

@[simp] theorem State.setVcp_now (s : State) (v : Nat) (x : Vcp) : (s.setVcp v x).now = s.now := rfl
@[simp] theorem State.setVcp_fresh (s : State) (v : Nat) (x : Vcp) : (s.setVcp v x).fresh = s.fresh := rfl
@[simp] theorem State.setVcp_serial (s : State) (v : Nat) (x : Vcp) : (s.setVcp v x).serial = s.serial := rfl
@[simp] theorem State.setVcp_pending (s : State) (v : Nat) (x : Vcp) : (s.setVcp v x).pending = s.pending := rfl
@[simp] theorem State.setVcp_cyc (s : State) (v : Nat) (x : Vcp) : (s.setVcp v x).cyc = s.cyc := rfl
@[simp] theorem State.setVcp_cur (s : State) (v : Nat) (x : Vcp) : (s.setVcp v x).cur = s.cur := rfl
@[simp] theorem State.setVcp_mem (s : State) (v : Nat) (x : Vcp) : (s.setVcp v x).mem = s.mem := rfl
@[simp] theorem State.setVcp_wlog (s : State) (v : Nat) (x : Vcp) : (s.setVcp v x).wlog = s.wlog := rfl
@[simp] theorem State.setVcp_flags (s : State) (v : Nat) (x : Vcp) : (s.setVcp v x).flags = s.flags := rfl
@[simp] theorem State.setVcp_gcorr (s : State) (v : Nat) (x : Vcp) : (s.setVcp v x).gcorr = s.gcorr := rfl
@[simp] theorem State.setVcp_hostReads (s : State) (v : Nat) (x : Vcp) : (s.setVcp v x).hostReads = s.hostReads := rfl
@[simp] theorem State.setVcp_fmaps (s : State) (v : Nat) (x : Vcp) : (s.setVcp v x).fmaps = s.fmaps := rfl
@[simp] theorem State.setVcp_host (s : State) (v : Nat) (x : Vcp) : (s.setVcp v x).host = s.host := rfl
@[simp] theorem State.setVcp_phys (s : State) (v : Nat) (x : Vcp) : (s.setVcp v x).phys = s.phys := rfl
@[simp] theorem State.setVcp_memstat (s : State) (v : Nat) (x : Vcp) : (s.setVcp v x).memstat = s.memstat := rfl
@[simp] theorem State.setVcp_parts (s : State) (v : Nat) (x : Vcp) : (s.setVcp v x).parts = s.parts := rfl
@[simp] theorem State.setVcp_strands (s : State) (v : Nat) (x : Vcp) : (s.setVcp v x).strands = s.strands := rfl
@[simp] theorem State.setVcp_agents (s : State) (v : Nat) (x : Vcp) : (s.setVcp v x).agents = s.agents := rfl
@[simp] theorem State.setVcp_fab (s : State) (v : Nat) (x : Vcp) : (s.setVcp v x).fab = s.fab := rfl
@[simp] theorem State.setVcp_events (s : State) (v : Nat) (x : Vcp) : (s.setVcp v x).events = s.events := rfl
@[simp] theorem State.setVcp_curVcp (s : State) (v : Nat) (x : Vcp) : (s.setVcp v x).curVcp = s.curVcp := rfl
@[simp] theorem State.setVcp_pageq (s : State) (v : Nat) (x : Vcp) : (s.setVcp v x).pageq = s.pageq := rfl
@[simp] theorem State.setVcp_unposted (s : State) (v : Nat) (x : Vcp) : (s.setVcp v x).unposted = s.unposted := rfl
@[simp] theorem State.setVcp_link (s : State) (v : Nat) (x : Vcp) : (s.setVcp v x).link = s.link := rfl
@[simp] theorem State.setVcp_mgmt (s : State) (v : Nat) (x : Vcp) : (s.setVcp v x).mgmt = s.mgmt := rfl
@[simp] theorem State.setVcp_history (s : State) (v : Nat) (x : Vcp) : (s.setVcp v x).history = s.history := rfl
@[simp] theorem State.setVcp_agent (s : State) (v : Nat) (x : Vcp) (k' : AgentKey) : (s.setVcp v x).agent k' = s.agent k' := rfl
@[simp] theorem State.setVcp_strand (s : State) (v : Nat) (x : Vcp) (k' : StrandKey) : (s.setVcp v x).strand k' = s.strand k' := rfl
@[simp] theorem State.setVcp_part (s : State) (v : Nat) (x : Vcp) (p' : Nat) : (s.setVcp v x).part p' = s.part p' := rfl

/-! ## setMe -/

@[simp] theorem State.setMe_now (s : State) (a : Agent) : (s.setMe a).now = s.now := rfl
@[simp] theorem State.setMe_fresh (s : State) (a : Agent) : (s.setMe a).fresh = s.fresh := rfl
@[simp] theorem State.setMe_serial (s : State) (a : Agent) : (s.setMe a).serial = s.serial := rfl
@[simp] theorem State.setMe_pending (s : State) (a : Agent) : (s.setMe a).pending = s.pending := rfl
@[simp] theorem State.setMe_cyc (s : State) (a : Agent) : (s.setMe a).cyc = s.cyc := rfl
@[simp] theorem State.setMe_cur (s : State) (a : Agent) : (s.setMe a).cur = s.cur := rfl
@[simp] theorem State.setMe_mem (s : State) (a : Agent) : (s.setMe a).mem = s.mem := rfl
@[simp] theorem State.setMe_wlog (s : State) (a : Agent) : (s.setMe a).wlog = s.wlog := rfl
@[simp] theorem State.setMe_flags (s : State) (a : Agent) : (s.setMe a).flags = s.flags := rfl
@[simp] theorem State.setMe_gcorr (s : State) (a : Agent) : (s.setMe a).gcorr = s.gcorr := rfl
@[simp] theorem State.setMe_hostReads (s : State) (a : Agent) : (s.setMe a).hostReads = s.hostReads := rfl
@[simp] theorem State.setMe_fmaps (s : State) (a : Agent) : (s.setMe a).fmaps = s.fmaps := rfl
@[simp] theorem State.setMe_host (s : State) (a : Agent) : (s.setMe a).host = s.host := rfl
@[simp] theorem State.setMe_phys (s : State) (a : Agent) : (s.setMe a).phys = s.phys := rfl
@[simp] theorem State.setMe_memstat (s : State) (a : Agent) : (s.setMe a).memstat = s.memstat := rfl
@[simp] theorem State.setMe_parts (s : State) (a : Agent) : (s.setMe a).parts = s.parts := rfl
@[simp] theorem State.setMe_strands (s : State) (a : Agent) : (s.setMe a).strands = s.strands := rfl
@[simp] theorem State.setMe_fab (s : State) (a : Agent) : (s.setMe a).fab = s.fab := rfl
@[simp] theorem State.setMe_vcps (s : State) (a : Agent) : (s.setMe a).vcps = s.vcps := rfl
@[simp] theorem State.setMe_events (s : State) (a : Agent) : (s.setMe a).events = s.events := rfl
@[simp] theorem State.setMe_curVcp (s : State) (a : Agent) : (s.setMe a).curVcp = s.curVcp := rfl
@[simp] theorem State.setMe_pageq (s : State) (a : Agent) : (s.setMe a).pageq = s.pageq := rfl
@[simp] theorem State.setMe_unposted (s : State) (a : Agent) : (s.setMe a).unposted = s.unposted := rfl
@[simp] theorem State.setMe_link (s : State) (a : Agent) : (s.setMe a).link = s.link := rfl
@[simp] theorem State.setMe_mgmt (s : State) (a : Agent) : (s.setMe a).mgmt = s.mgmt := rfl
@[simp] theorem State.setMe_history (s : State) (a : Agent) : (s.setMe a).history = s.history := rfl
@[simp] theorem State.setMe_strand (s : State) (a : Agent) (k' : StrandKey) : (s.setMe a).strand k' = s.strand k' := rfl
@[simp] theorem State.setMe_part (s : State) (a : Agent) (p' : Nat) : (s.setMe a).part p' = s.part p' := rfl
@[simp] theorem State.setMe_vcp (s : State) (a : Agent) (v' : Nat) : (s.setMe a).vcp v' = s.vcp v' := rfl

/-! ## setSqr -/

@[simp] theorem State.setSqr_now (s : State) (q : Sqr) : (s.setSqr q).now = s.now := rfl
@[simp] theorem State.setSqr_fresh (s : State) (q : Sqr) : (s.setSqr q).fresh = s.fresh := rfl
@[simp] theorem State.setSqr_serial (s : State) (q : Sqr) : (s.setSqr q).serial = s.serial := rfl
@[simp] theorem State.setSqr_pending (s : State) (q : Sqr) : (s.setSqr q).pending = s.pending := rfl
@[simp] theorem State.setSqr_cyc (s : State) (q : Sqr) : (s.setSqr q).cyc = s.cyc := rfl
@[simp] theorem State.setSqr_cur (s : State) (q : Sqr) : (s.setSqr q).cur = s.cur := rfl
@[simp] theorem State.setSqr_mem (s : State) (q : Sqr) : (s.setSqr q).mem = s.mem := rfl
@[simp] theorem State.setSqr_wlog (s : State) (q : Sqr) : (s.setSqr q).wlog = s.wlog := rfl
@[simp] theorem State.setSqr_flags (s : State) (q : Sqr) : (s.setSqr q).flags = s.flags := rfl
@[simp] theorem State.setSqr_gcorr (s : State) (q : Sqr) : (s.setSqr q).gcorr = s.gcorr := rfl
@[simp] theorem State.setSqr_hostReads (s : State) (q : Sqr) : (s.setSqr q).hostReads = s.hostReads := rfl
@[simp] theorem State.setSqr_fmaps (s : State) (q : Sqr) : (s.setSqr q).fmaps = s.fmaps := rfl
@[simp] theorem State.setSqr_host (s : State) (q : Sqr) : (s.setSqr q).host = s.host := rfl
@[simp] theorem State.setSqr_phys (s : State) (q : Sqr) : (s.setSqr q).phys = s.phys := rfl
@[simp] theorem State.setSqr_memstat (s : State) (q : Sqr) : (s.setSqr q).memstat = s.memstat := rfl
@[simp] theorem State.setSqr_parts (s : State) (q : Sqr) : (s.setSqr q).parts = s.parts := rfl
@[simp] theorem State.setSqr_strands (s : State) (q : Sqr) : (s.setSqr q).strands = s.strands := rfl
@[simp] theorem State.setSqr_fab (s : State) (q : Sqr) : (s.setSqr q).fab = s.fab := rfl
@[simp] theorem State.setSqr_vcps (s : State) (q : Sqr) : (s.setSqr q).vcps = s.vcps := rfl
@[simp] theorem State.setSqr_events (s : State) (q : Sqr) : (s.setSqr q).events = s.events := rfl
@[simp] theorem State.setSqr_curVcp (s : State) (q : Sqr) : (s.setSqr q).curVcp = s.curVcp := rfl
@[simp] theorem State.setSqr_pageq (s : State) (q : Sqr) : (s.setSqr q).pageq = s.pageq := rfl
@[simp] theorem State.setSqr_unposted (s : State) (q : Sqr) : (s.setSqr q).unposted = s.unposted := rfl
@[simp] theorem State.setSqr_link (s : State) (q : Sqr) : (s.setSqr q).link = s.link := rfl
@[simp] theorem State.setSqr_mgmt (s : State) (q : Sqr) : (s.setSqr q).mgmt = s.mgmt := rfl
@[simp] theorem State.setSqr_history (s : State) (q : Sqr) : (s.setSqr q).history = s.history := rfl
@[simp] theorem State.setSqr_strand (s : State) (q : Sqr) (k' : StrandKey) : (s.setSqr q).strand k' = s.strand k' := rfl
@[simp] theorem State.setSqr_part (s : State) (q : Sqr) (p' : Nat) : (s.setSqr q).part p' = s.part p' := rfl
@[simp] theorem State.setSqr_vcp (s : State) (q : Sqr) (v' : Nat) : (s.setSqr q).vcp v' = s.vcp v' := rfl

/-! ## pend -/

@[simp] theorem State.pend_now (s : State) (p : Pend) : (s.pend p).now = s.now := rfl
@[simp] theorem State.pend_fresh (s : State) (p : Pend) : (s.pend p).fresh = s.fresh := rfl
@[simp] theorem State.pend_serial (s : State) (p : Pend) : (s.pend p).serial = s.serial := rfl
@[simp] theorem State.pend_pending (s : State) (p : Pend) : (s.pend p).pending = s.pending := rfl
@[simp] theorem State.pend_cyc (s : State) (p : Pend) : (s.pend p).cyc = s.cyc := rfl
@[simp] theorem State.pend_cur (s : State) (p : Pend) : (s.pend p).cur = s.cur := rfl
@[simp] theorem State.pend_mem (s : State) (p : Pend) : (s.pend p).mem = s.mem := rfl
@[simp] theorem State.pend_wlog (s : State) (p : Pend) : (s.pend p).wlog = s.wlog := rfl
@[simp] theorem State.pend_flags (s : State) (p : Pend) : (s.pend p).flags = s.flags := rfl
@[simp] theorem State.pend_gcorr (s : State) (p : Pend) : (s.pend p).gcorr = s.gcorr := rfl
@[simp] theorem State.pend_hostReads (s : State) (p : Pend) : (s.pend p).hostReads = s.hostReads := rfl
@[simp] theorem State.pend_fmaps (s : State) (p : Pend) : (s.pend p).fmaps = s.fmaps := rfl
@[simp] theorem State.pend_host (s : State) (p : Pend) : (s.pend p).host = s.host := rfl
@[simp] theorem State.pend_phys (s : State) (p : Pend) : (s.pend p).phys = s.phys := rfl
@[simp] theorem State.pend_memstat (s : State) (p : Pend) : (s.pend p).memstat = s.memstat := rfl
@[simp] theorem State.pend_parts (s : State) (p : Pend) : (s.pend p).parts = s.parts := rfl
@[simp] theorem State.pend_strands (s : State) (p : Pend) : (s.pend p).strands = s.strands := rfl
@[simp] theorem State.pend_fab (s : State) (p : Pend) : (s.pend p).fab = s.fab := rfl
@[simp] theorem State.pend_vcps (s : State) (p : Pend) : (s.pend p).vcps = s.vcps := rfl
@[simp] theorem State.pend_events (s : State) (p : Pend) : (s.pend p).events = s.events := rfl
@[simp] theorem State.pend_curVcp (s : State) (p : Pend) : (s.pend p).curVcp = s.curVcp := rfl
@[simp] theorem State.pend_pageq (s : State) (p : Pend) : (s.pend p).pageq = s.pageq := rfl
@[simp] theorem State.pend_unposted (s : State) (p : Pend) : (s.pend p).unposted = s.unposted := rfl
@[simp] theorem State.pend_link (s : State) (p : Pend) : (s.pend p).link = s.link := rfl
@[simp] theorem State.pend_mgmt (s : State) (p : Pend) : (s.pend p).mgmt = s.mgmt := rfl
@[simp] theorem State.pend_history (s : State) (p : Pend) : (s.pend p).history = s.history := rfl
@[simp] theorem State.pend_strand (s : State) (p : Pend) (k' : StrandKey) : (s.pend p).strand k' = s.strand k' := rfl
@[simp] theorem State.pend_part (s : State) (p : Pend) (p' : Nat) : (s.pend p).part p' = s.part p' := rfl
@[simp] theorem State.pend_vcp (s : State) (p : Pend) (v' : Nat) : (s.pend p).vcp v' = s.vcp v' := rfl

/-! ## putHost -/

@[simp] theorem State.putHost_now (s : State) (i : Nat) (w : Word) : (s.putHost i w).now = s.now := rfl
@[simp] theorem State.putHost_fresh (s : State) (i : Nat) (w : Word) : (s.putHost i w).fresh = s.fresh := rfl
@[simp] theorem State.putHost_serial (s : State) (i : Nat) (w : Word) : (s.putHost i w).serial = s.serial := rfl
@[simp] theorem State.putHost_pending (s : State) (i : Nat) (w : Word) : (s.putHost i w).pending = s.pending := rfl
@[simp] theorem State.putHost_cyc (s : State) (i : Nat) (w : Word) : (s.putHost i w).cyc = s.cyc := rfl
@[simp] theorem State.putHost_cur (s : State) (i : Nat) (w : Word) : (s.putHost i w).cur = s.cur := rfl
@[simp] theorem State.putHost_mem (s : State) (i : Nat) (w : Word) : (s.putHost i w).mem = s.mem := rfl
@[simp] theorem State.putHost_wlog (s : State) (i : Nat) (w : Word) : (s.putHost i w).wlog = s.wlog := rfl
@[simp] theorem State.putHost_flags (s : State) (i : Nat) (w : Word) : (s.putHost i w).flags = s.flags := rfl
@[simp] theorem State.putHost_gcorr (s : State) (i : Nat) (w : Word) : (s.putHost i w).gcorr = s.gcorr := rfl
@[simp] theorem State.putHost_hostReads (s : State) (i : Nat) (w : Word) : (s.putHost i w).hostReads = s.hostReads := rfl
@[simp] theorem State.putHost_fmaps (s : State) (i : Nat) (w : Word) : (s.putHost i w).fmaps = s.fmaps := rfl
@[simp] theorem State.putHost_phys (s : State) (i : Nat) (w : Word) : (s.putHost i w).phys = s.phys := rfl
@[simp] theorem State.putHost_memstat (s : State) (i : Nat) (w : Word) : (s.putHost i w).memstat = s.memstat := rfl
@[simp] theorem State.putHost_parts (s : State) (i : Nat) (w : Word) : (s.putHost i w).parts = s.parts := rfl
@[simp] theorem State.putHost_strands (s : State) (i : Nat) (w : Word) : (s.putHost i w).strands = s.strands := rfl
@[simp] theorem State.putHost_agents (s : State) (i : Nat) (w : Word) : (s.putHost i w).agents = s.agents := rfl
@[simp] theorem State.putHost_fab (s : State) (i : Nat) (w : Word) : (s.putHost i w).fab = s.fab := rfl
@[simp] theorem State.putHost_vcps (s : State) (i : Nat) (w : Word) : (s.putHost i w).vcps = s.vcps := rfl
@[simp] theorem State.putHost_events (s : State) (i : Nat) (w : Word) : (s.putHost i w).events = s.events := rfl
@[simp] theorem State.putHost_curVcp (s : State) (i : Nat) (w : Word) : (s.putHost i w).curVcp = s.curVcp := rfl
@[simp] theorem State.putHost_pageq (s : State) (i : Nat) (w : Word) : (s.putHost i w).pageq = s.pageq := rfl
@[simp] theorem State.putHost_unposted (s : State) (i : Nat) (w : Word) : (s.putHost i w).unposted = s.unposted := rfl
@[simp] theorem State.putHost_link (s : State) (i : Nat) (w : Word) : (s.putHost i w).link = s.link := rfl
@[simp] theorem State.putHost_mgmt (s : State) (i : Nat) (w : Word) : (s.putHost i w).mgmt = s.mgmt := rfl
@[simp] theorem State.putHost_history (s : State) (i : Nat) (w : Word) : (s.putHost i w).history = s.history := rfl
@[simp] theorem State.putHost_agent (s : State) (i : Nat) (w : Word) (k' : AgentKey) : (s.putHost i w).agent k' = s.agent k' := rfl
@[simp] theorem State.putHost_strand (s : State) (i : Nat) (w : Word) (k' : StrandKey) : (s.putHost i w).strand k' = s.strand k' := rfl
@[simp] theorem State.putHost_part (s : State) (i : Nat) (w : Word) (p' : Nat) : (s.putHost i w).part p' = s.part p' := rfl
@[simp] theorem State.putHost_vcp (s : State) (i : Nat) (w : Word) (v' : Nat) : (s.putHost i w).vcp v' = s.vcp v' := rfl

/-! ## A key drawn -/

@[simp] theorem State.draw_now (s : State) : s.draw.2.now = s.now := rfl
@[simp] theorem State.draw_fresh (s : State) : s.draw.2.fresh = s.fresh + 1 := rfl
@[simp] theorem State.draw_serial (s : State) : s.draw.2.serial = s.serial := rfl
@[simp] theorem State.draw_pending (s : State) : s.draw.2.pending = s.pending := rfl
@[simp] theorem State.draw_cyc (s : State) : s.draw.2.cyc = s.cyc := rfl
@[simp] theorem State.draw_cur (s : State) : s.draw.2.cur = s.cur := rfl
@[simp] theorem State.draw_mem (s : State) : s.draw.2.mem = s.mem := rfl
@[simp] theorem State.draw_wlog (s : State) : s.draw.2.wlog = s.wlog := rfl
@[simp] theorem State.draw_flags (s : State) : s.draw.2.flags = s.flags := rfl
@[simp] theorem State.draw_gcorr (s : State) : s.draw.2.gcorr = s.gcorr := rfl
@[simp] theorem State.draw_hostReads (s : State) : s.draw.2.hostReads = s.hostReads := rfl
@[simp] theorem State.draw_fmaps (s : State) : s.draw.2.fmaps = s.fmaps := rfl
@[simp] theorem State.draw_host (s : State) : s.draw.2.host = s.host := rfl
@[simp] theorem State.draw_phys (s : State) : s.draw.2.phys = s.phys := rfl
@[simp] theorem State.draw_memstat (s : State) : s.draw.2.memstat = s.memstat := rfl
@[simp] theorem State.draw_parts (s : State) : s.draw.2.parts = s.parts := rfl
@[simp] theorem State.draw_strands (s : State) : s.draw.2.strands = s.strands := rfl
@[simp] theorem State.draw_agents (s : State) : s.draw.2.agents = s.agents := rfl
@[simp] theorem State.draw_fab (s : State) : s.draw.2.fab = s.fab := rfl
@[simp] theorem State.draw_vcps (s : State) : s.draw.2.vcps = s.vcps := rfl
@[simp] theorem State.draw_events (s : State) : s.draw.2.events = s.events := rfl
@[simp] theorem State.draw_curVcp (s : State) : s.draw.2.curVcp = s.curVcp := rfl
@[simp] theorem State.draw_pageq (s : State) : s.draw.2.pageq = s.pageq := rfl
@[simp] theorem State.draw_unposted (s : State) : s.draw.2.unposted = s.unposted := rfl
@[simp] theorem State.draw_link (s : State) : s.draw.2.link = s.link := rfl
@[simp] theorem State.draw_mgmt (s : State) : s.draw.2.mgmt = s.mgmt := rfl
@[simp] theorem State.draw_history (s : State) : s.draw.2.history = s.history := rfl
@[simp] theorem State.draw_agent (s : State) (k : AgentKey) : s.draw.2.agent k = s.agent k := rfl
@[simp] theorem State.draw_strand (s : State) (k : StrandKey) : s.draw.2.strand k = s.strand k := rfl
@[simp] theorem State.draw_part (s : State) (p : Nat) : s.draw.2.part p = s.part p := rfl
@[simp] theorem State.draw_vcp (s : State) (v : Nat) : s.draw.2.vcp v = s.vcp v := rfl

theorem State.xr_pend (s : State) (p : Pend) (r : BitVec 4) : (s.pend p).xr r = s.xr r := by
  simp [State.xr, State.sqr_pend, Sqr.xr]

end Sys2Proof.Machine
end

