-- ==== Sys2Proof/Laws/MemOps.lean ====
section
/-! SUPPORT. Every operation on device memory keeps its canonical form, and what a read step gives where no physical error
stands. -/

namespace Sys2Proof.Machine

open Sys2Proof

/-! ## Steps on the global image -/

theorem State.reset_mem_wf : State.reset.mem.wf = true := rfl

theorem Mem.wf_addErrs (m : Mem) (line : Nat) (es : List (Nat × Byte)) (h : m.wf = true) : (m.addErrs line es).wf = true := by
  unfold Mem.addErrs
  refine foldl_keeps (fun m : Mem => m.wf = true) _ _ _ h (fun m i hm => ?_)
  dsimp only
  split
  · exact hm
  · exact Mem.wf_putByte m _ _ hm

theorem State.storeFound_memOk (s : State) (line : Nat) (left : List (Nat × Byte)) (p : Bool) (h : s.memOk) :
    (s.storeFound line left p).memOk := Mem.wf_setPois _ _ _ (Mem.wf_addErrs _ _ _ h)

theorem State.touch_memOk (s : State) (a : Nat) (h : s.memOk) : (s.touch a).memOk := by
  unfold State.touch
  dsimp only
  split
  · exact h
  · split
    · split
      · exact h
      · exact State.storeFound_memOk { s with gcorr := s.gcorr + 1 } _ _ _ h
    · split
      · exact h
      · exact State.storeFound_memOk s _ _ _ h

/-- Where no physical error stands, a read leaves the stored bits (R224). -/
theorem State.touch_of_phys_nil (s : State) (a : Nat) (h : s.phys = []) : s.touch a = s := by simp [State.touch, devErrs, h]

theorem State.gRead_memOk (s : State) (a : Nat) (h : s.memOk) : (s.gRead a).2.memOk := State.touch_memOk s a h

theorem State.gRead_of_phys_nil (s : State) (a : Nat) (h : s.phys = []) : s.gRead a = ((s.mem.word a, s.mem.poisAt a), s) := by
  simp [State.gRead, State.touch_of_phys_nil s a h]

theorem State.merging_memOk (s : State) (ws : List WWrite) (h : s.memOk) : (s.merging ws).memOk := by
  refine foldl_keeps State.memOk _ _ _ h (fun s l hs => ?_)
  split
  · exact hs
  · exact State.touch_memOk s _ hs

/-- Where no physical error stands, a write of part of a line finds the line as it is (R224). -/
theorem State.merging_of_phys_nil (s : State) (ws : List WWrite) (h : s.phys = []) : s.merging ws = s := by
  unfold State.merging
  induction (ws.map (fun w => w.1 / 64)).eraseDups with
  | nil => rfl
  | cons w l ih => rw [List.foldl_cons, State.touch_of_phys_nil s _ h, ite_self, ih]

@[simp] theorem State.gEnter_mem (s : State) (ws : List WWrite) (m : Mem) (by_ : Option AgentKey) : (s.gEnter ws m by_).mem = m := rfl

theorem State.gWrite_memOk (s : State) (ws : List WWrite) (by_ : Option AgentKey) (h : s.memOk) : (s.gWrite ws by_).memOk :=
  Mem.wf_commit _ _ (State.merging_memOk s ws h)

/-- The write of one step leaves every byte outside its words, where no physical error stands (R197, R198). -/
theorem State.gWrite_byte_ne (s : State) (ws : List WWrite) (by_ : Option AgentKey) {b : Nat} (hp : s.phys = [])
    (h : ∀ w ∈ ws, b < w.1 ∨ w.1 + 8 ≤ b) : (s.gWrite ws by_).mem.byte b = s.mem.byte b := by
  unfold State.gWrite
  rw [State.gEnter_mem, State.merging_of_phys_nil s ws hp]
  exact Mem.byte_commit_ne _ _ h

/-! ## Words -/

theorem Mem.byte_putWord (m : Mem) (a : Nat) (w : Word) (i : Nat) (hi : i < 8) (h : m.wf = true) :
    (m.putWord a w).byte (a + i) = (w >>> (8 * i)).setWidth 8 := by
  have later : ∀ (l : List Nat) (m : Mem), i ∉ l →
      (l.foldl (fun m i => m.putByte (a + i) ((w >>> (8 * i)).setWidth 8)) m).byte (a + i) = m.byte (a + i) := by
    intro l
    induction l with
    | nil => intro m _; rfl
    | cons j l ih =>
      intro m hl
      rw [List.mem_cons, not_or] at hl
      rw [List.foldl_cons, ih _ hl.2]
      exact Mem.byte_putByte_ne m _ (by omega)
  have : ∀ (l : List Nat) (m : Mem), l.Nodup → i ∈ l → m.wf = true →
      (l.foldl (fun m i => m.putByte (a + i) ((w >>> (8 * i)).setWidth 8)) m).byte (a + i) = (w >>> (8 * i)).setWidth 8 := by
    intro l
    induction l with
    | nil => intro m _ hm; cases hm
    | cons j l ih =>
      intro m hn hm hw
      rw [List.nodup_cons] at hn
      rw [List.foldl_cons]
      rcases List.mem_cons.mp hm with rfl | hm
      · rw [later _ _ hn.1]; exact Mem.byte_putByte m _ _ hw
      · exact ih _ hn.2 hm (Mem.wf_putByte m _ _ hw)
  exact this _ m List.nodup_range (List.mem_range.mpr hi) h

/-- A word read after it is written gives the value written (R4, R197). -/
theorem Mem.word_putWord (m : Mem) (a : Nat) (w : Word) (h : m.wf = true) : (m.putWord a w).word a = w := by
  have b := fun i hi => Mem.byte_putWord m a w i hi h
  simp only [Mem.word, List.range_succ, List.range_zero, List.nil_append, List.cons_append, List.foldl_cons, List.foldl_nil]
  rw [b 0 (by omega), b 1 (by omega), b 2 (by omega), b 3 (by omega), b 4 (by omega), b 5 (by omega), b 6 (by omega), b 7 (by omega)]
  apply BitVec.eq_of_getLsbD_eq
  intro i hi
  have go : ∀ k, (BitVec.getLsbD (BitVec.setWidth 64 (BitVec.setWidth 8 (w >>> (8 * k))) <<< (8 * k)) i) =
      (decide (8 * k ≤ i ∧ i < 8 * k + 8) && w.getLsbD i) := by
    intro k
    rw [BitVec.getLsbD_shiftLeft, BitVec.getLsbD_setWidth, BitVec.getLsbD_setWidth, BitVec.getLsbD_ushiftRight]
    by_cases hk : 8 * k ≤ i
    · rw [show 8 * k + (i - 8 * k) = i by omega]
      by_cases hj : i < 8 * k + 8
      · simp [hi, hk, hj, show i - 8 * k < 64 by omega, show i - 8 * k < 8 by omega]
      · simp [hk, hj, show ¬ i - 8 * k < 8 by omega]
    · simp [hk]
  simp only [BitVec.getLsbD_or, go, BitVec.getLsbD_ofNat, BitVec.ofNat_eq_ofNat, Nat.zero_testBit, Bool.and_false, Bool.false_or]
  have all : (decide (8 * 0 ≤ i ∧ i < 8 * 0 + 8) || decide (8 * 1 ≤ i ∧ i < 8 * 1 + 8) || decide (8 * 2 ≤ i ∧ i < 8 * 2 + 8) ||
      decide (8 * 3 ≤ i ∧ i < 8 * 3 + 8) || decide (8 * 4 ≤ i ∧ i < 8 * 4 + 8) || decide (8 * 5 ≤ i ∧ i < 8 * 5 + 8) ||
      decide (8 * 6 ≤ i ∧ i < 8 * 6 + 8) || decide (8 * 7 ≤ i ∧ i < 8 * 7 + 8)) = true := by
    simp only [Bool.or_eq_true, decide_eq_true_eq]
    omega
  cases w.getLsbD i
  · simp only [Bool.and_false, Bool.or_false]
  · simpa only [Bool.and_true] using all

/-! ## Steps of agents -/

theorem State.memRead_memOk (s : State) (k : AgentKey) (a : Nat) (h : s.memOk) : (s.memRead k a).2.memOk := by
  unfold State.memRead
  split
  · exact h
  · split
    · exact State.gRead_memOk s a h
    · exact State.touch_memOk s a h

theorem State.memWrite_memOk (s : State) (k : AgentKey) (a : Nat) (w : Word) (p : Bool) (seen : Nat) (h : s.memOk) :
    (s.memWrite k a w p seen).memOk := h

theorem State.noteFlags_memOk {α : Type} (s : State) (l : List α) (f : State → α → State) (hf : ∀ s a, (f s a).mem = s.mem) (h : s.memOk) :
    (l.foldl f s).memOk :=
  foldl_keeps State.memOk _ _ _ h (fun s a hs => by unfold State.memOk; rw [hf]; exact hs)

theorem State.phaseStep_memOk (s : State) (k : AgentKey) (h : s.memOk) : (s.phaseStep k).memOk :=
  State.noteFlags_memOk _ _ _ (fun _ _ => rfl) (State.gWrite_memOk _ _ _ h)

theorem State.refresh_memOk (s : State) (k : AgentKey) (h : s.memOk) : (s.refresh k).memOk := h

/-! ## Accesses of several words (R197) -/

theorem State.readPieces_memOk (s : State) (k : Option AgentKey) (l : List (Nat × Nat)) (h : s.memOk) : (s.readPieces k l).2.memOk := by
  unfold State.readPieces
  refine foldl_keeps (fun r : List PByte × State => r.2.memOk) _ _ _ h (fun r p hr => ?_)
  cases k with
  | none => exact State.gRead_memOk r.2 _ hr
  | some k => exact State.memRead_memOk r.2 k _ hr

theorem State.readOn_memOk (s : State) (k : Option AgentKey) (a : Access) (h : s.memOk) : (s.readOn k a).2.memOk :=
  State.readPieces_memOk s.draw.2 k _ h

theorem State.writePieces_memOk (s : State) (k : AgentKey) (seen : Nat) (l : List (Nat × Nat)) (b : List PByte) (h : s.memOk) :
    (s.writePieces k seen l b).memOk := by
  induction l generalizing s b with
  | nil => exact h
  | cons p l ih => exact ih _ _ (State.memWrite_memOk s k _ _ _ _ h)

theorem State.writeOn_memOk (s : State) (k : AgentKey) (seen : Nat) (a : Access) (h : s.memOk) : (s.writeOn k seen a).2.memOk :=
  State.writePieces_memOk s.draw.2 k seen _ _ h

/-! ## Translation -/

theorem State.walk_memOk (s : State) (p : Nat) (d : Desc) (entry : Nat) (wr : Bool) (h : s.memOk) : (s.walk p d entry wr).2.memOk := by
  have h2 : ∀ a b, ((s.gRead a).2.gRead b).2.memOk := fun a b => State.gRead_memOk _ _ (State.gRead_memOk s _ h)
  unfold State.walk
  dsimp only
  split
  · exact h
  · split
    · exact h2 _ _
    · split
      · exact h2 _ _
      · split
        · exact h2 _ _
        · split <;> exact h2 _ _

theorem State.translate_memOk (s : State) (k : AgentKey) (u : By) (slot : Nat) (d : Desc) (entry : Nat) (wr : Bool) (h : s.memOk) :
    (s.translate k u slot d entry wr).2.memOk := by
  have hw := State.walk_memOk s.draw.2 k.part d entry wr h
  unfold State.translate
  split
  · exact h
  · split
    · exact State.walk_memOk s k.part d entry wr h
    · split
      · exact h
      · dsimp only
        split <;> first | exact h | exact hw | (dsimp only; split <;> first | exact hw | (split <;> exact hw))

theorem State.flatRuns_memOk (s : State) (k : AgentKey) (u : By) (slot : Nat) (d : Desc) (wr : Bool) (f x n : Nat) (h : s.memOk) :
    (s.flatRuns k u slot d wr f x n).2.memOk := by
  induction f generalizing s x n with
  | zero => exact h
  | succ f ih =>
    have ht := State.translate_memOk s k u slot d (x / 65536) wr h
    unfold State.flatRuns
    split
    · exact h
    · dsimp only
      split
      next heq => rw [heq] at ht; exact ht
      next heq => rw [heq] at ht; exact ht
      next heq => rw [heq] at ht; exact ht
      next m s1 heq =>
        rw [heq] at ht
        have hi := ih s1 (x + min n (65536 - x % 65536)) (n - min n (65536 - x % 65536)) ht
        split
        next heq2 => rw [heq2] at hi; exact hi
        · exact hi

theorem State.flatLoc_memOk (s : State) (k : AgentKey) (u : By) (slot : Nat) (d : Desc) (x n : Nat) (wr : Bool) (h : s.memOk) :
    (s.flatLoc k u slot d x n wr).2.memOk := by
  unfold State.flatLoc
  split
  · exact h
  · exact State.flatRuns_memOk s k u slot d wr _ _ _ h

theorem State.tileLoc_memOk (s : State) (k : AgentKey) (u : By) (slot : Nat) (d : Desc) (c : Word) (wr : Bool) (h : s.memOk) :
    (s.tileLoc k u slot d c wr).2.memOk := by
  have ht := State.translate_memOk s k u slot d (tileNumber d c / tilesPerFrame (dFmt d)) wr h
  unfold State.tileLoc
  split
  · exact h
  · dsimp only
    split
    all_goals rename_i heq; rw [heq] at ht; exact ht

/-! ## Steps of the front end -/

theorem State.td0Addr_memOk (s : State) (p : Nat) (d : Desc) (x : Nat) (h : s.memOk) : (s.td0Addr p d x).2.memOk := by
  have hw := State.walk_memOk s p d (x / 65536) false h
  unfold State.td0Addr
  split
  · exact h
  · split
    all_goals rename_i heq; rw [heq] at hw; exact hw

theorem State.hostRead_memOk (s : State) (p : Nat) (d : Desc) (x : Nat) (h : s.memOk) : (s.hostRead p d x).2.memOk := by
  have ht := State.td0Addr_memOk s p d x h
  unfold State.hostRead
  split
  all_goals rename_i heq; rw [heq] at ht
  · exact State.gRead_memOk _ _ ht
  · exact ht

theorem State.hostWrite_memOk (s : State) (p : Nat) (d : Desc) (x : Nat) (w : Word) (h : s.memOk) : (s.hostWrite p d x w).memOk := by
  have ht := State.td0Addr_memOk s p d x h
  unfold State.hostWrite
  split
  all_goals rename_i heq; rw [heq] at ht
  · exact State.gWrite_memOk _ _ _ ht
  · exact ht

theorem State.hostAdd_memOk (s : State) (p : Nat) (d : Desc) (x : Nat) (n : Word) (h : s.memOk) : (s.hostAdd p d x n).memOk := by
  have ht := State.td0Addr_memOk s p d x h
  unfold State.hostAdd
  split
  all_goals rename_i heq; rw [heq] at ht
  · exact State.gWrite_memOk _ _ _ (State.gRead_memOk _ _ ht)
  · exact ht

theorem State.hostWordsAt_memOk (s : State) (l : List Nat) (h : s.memOk) : (s.hostWordsAt l).2.memOk := by
  unfold State.hostWordsAt
  exact foldl_keeps (fun r : List Word × State => r.2.memOk) _ _ _ h (fun r _ hr => hr)

theorem State.hostWords_memOk (s : State) (got : List Word) (p : Nat) (d : Desc) (x n : Nat) (h : s.memOk) :
    (s.hostWords got p d x n).2.memOk := by
  refine foldl_keeps (fun r : List Word × State => r.2.memOk) _ _ _ h (fun r i hr => ?_)
  split
  · exact hr
  · exact State.hostRead_memOk _ _ _ _ hr

theorem State.hostWrites_memOk (s : State) (p : Nat) (d : Desc) (l : List (Nat × Word × Bool)) (h : s.memOk) : (s.hostWrites p d l).memOk :=
  foldl_keeps State.memOk _ _ _ h (fun _ _ hs => State.hostWrite_memOk _ _ _ _ _ hs)

theorem State.hostAdds_memOk (s : State) (p : Nat) (d : Desc) (l : List (Nat × Word × Bool)) (h : s.memOk) : (s.hostAdds p d l).memOk :=
  foldl_keeps State.memOk _ _ _ h (fun _ _ hs => State.hostAdd_memOk _ _ _ _ _ hs)

/-- A host write of one word keeps the canonical form, with the poison that the request sets first (R197, R209). -/
theorem State.setPois_memOk (s : State) (l : Nat) (p : Bool) (h : s.memOk) : State.memOk { s with mem := s.mem.setPois l p } :=
  Mem.wf_setPois _ _ _ h

/-! ## Operations that leave memory alone -/

@[simp] theorem State.memOk_setAgent (s : State) (k : AgentKey) (a : Agent) : (s.setAgent k a).memOk ↔ s.memOk := Iff.rfl
@[simp] theorem State.memOk_setStrand (s : State) (k : StrandKey) (x : Strand) : (s.setStrand k x).memOk ↔ s.memOk := Iff.rfl
@[simp] theorem State.memOk_setPart (s : State) (p : Nat) (x : Part) : (s.setPart p x).memOk ↔ s.memOk := Iff.rfl
@[simp] theorem State.memOk_setVcp (s : State) (v : Nat) (x : Vcp) : (s.setVcp v x).memOk ↔ s.memOk := Iff.rfl
@[simp] theorem State.memOk_setMe (s : State) (a : Agent) : (s.setMe a).memOk ↔ s.memOk := Iff.rfl
@[simp] theorem State.memOk_setSqr (s : State) (q : Sqr) : (s.setSqr q).memOk ↔ s.memOk := Iff.rfl
@[simp] theorem State.memOk_putHost (s : State) (a : Nat) (w : Word) : (s.putHost a w).memOk ↔ s.memOk := Iff.rfl

end Sys2Proof.Machine
end

