-- ==== Sys2Proof/Laws/PerInstr.lean ====
section
/-! SUPPORT. For every instruction: the word that encodes it fits the fields of R33, and owns as many LIT words as R36 counts for
that word. The steps that no word encodes have none. -/

namespace Sys2Proof.Laws

/-- The engine, opcode and body of an encoding fit their fields, and a word made of them owns its literals. -/
def Words.Statement (i : Instr) : Prop :=
  ∀ e op b ls, i.enc = some (e, op, b, ls) → e < 4 ∧ op < 256 ∧ b < 2 ^ 43 ∧
    ∀ w, wordEng w = e → wordOp w = op → wordBody w = b → litCount w = ls.length

theorem words_none (i : Instr) (h : i.enc = none) : Words.Statement i := by
  intro e op b ls h'; rw [h] at h'; cases h'

/-- A word whose engine and opcode own no literal. -/
theorem words_plain (i : Instr) (e op b : Nat) (h : i.enc = some (e, op, b, [])) (he : e < 4) (ho : op < 256) (hb : b < 2 ^ 43)
    (h0 : e = 0 → op ≠ 0x28) (h1 : e = 1 → op ≠ 0x0D ∧ ¬ ((0x20 ≤ op ∧ op < 0x60) ∨ op = 0x69)) : Words.Statement i := by
  intro e' op' b' ls h'
  rw [h] at h'; cases h'
  refine ⟨he, ho, hb, fun w e1 e2 e3 => ?_⟩
  simp only [litCount, e1, e2, e3, List.length_nil]
  match e, he with
  | 0, _ => simp [h0 rfl]
  | 1, _ => simp [h1 rfl]
  | 2, _ => rfl
  | 3, _ => rfl

/-- The bsrc field of a C1 body. -/
theorem c1_bsrc (a b c d e f g j k : Nat) : body layC1 [a, b, c, d, e, f, g, j, k] / 64 % 4 = f % 4 := by
  have hu := unpack_body layC1 [a, b, c, d, e, f, g, j, k] rfl
  simp only [layC1, unpack, List.zipWith_cons_cons, List.cons.injEq] at hu
  exact hu.2.2.2.2.2.1

/-- The im field of a C3 body. -/
theorem c3_im (a b c d e f : Nat) : body layC3 [a, b, c, d, e, f] / 2 ^ 29 % 2 = e % 2 := by
  have hu := unpack_body layC3 [a, b, c, d, e, f] rfl
  simp only [layC3, unpack, List.zipWith_cons_cons, List.cons.injEq] at hu
  exact hu.2.2.2.2.1

theorem BSrc.enc_lits (b : BSrc) : (if b.enc.2.1 % 4 = 2 then 1 else 0) = b.enc.2.2.length := by cases b <;> rfl

/-- A C1 word with a B operand, a fixed field, or none. -/
theorem words_c1 (i : Instr) (op : Nat) (g : Guard) (vd va : BitVec 10) (x : Nat × Nat × List (BitVec 32)) (rnd sat ty : Nat)
    (h : i.enc = some (1, op, c1 g vd va x rnd sat ty)) (hx : (if x.2.1 % 4 = 2 then 1 else 0) = x.2.2.length)
    (ho : (0x20 ≤ op ∧ op < 0x60) ∨ op = 0x69) : Words.Statement i := by
  intro e' op' b' ls h'
  rw [h] at h'; cases h'
  refine ⟨by omega, by omega, body_lt _ _ rfl, fun w e1 e2 e3 => ?_⟩
  have hd : op ≠ 0x0D := by omega
  simp only [litCount, e1, e2, e3, if_neg hd, if_pos ho]
  simp only [c1_bsrc]
  exact hx

theorem Words.nop : Words.Statement (.nop) := words_plain _ _ _ _ rfl (by omega) (by omega) (by omega) (by omega) (by omega)
theorem Words.start : Words.Statement (.start) := words_plain _ _ _ _ rfl (by omega) (by omega) (by omega) (by omega) (by omega)
theorem Words.halt : Words.Statement (.halt) := words_plain _ _ _ _ rfl (by omega) (by omega) (by omega) (by omega) (by omega)
theorem Words.yield (x0) : Words.Statement (.yield x0) := words_plain _ _ _ _ rfl (by omega) (by omega) (body_lt _ _ rfl) (by omega) (by omega)
theorem Words.swap (x0) : Words.Statement (.swap x0) := words_plain _ _ _ _ rfl (by omega) (by omega) (body_lt _ _ rfl) (by omega) (by omega)
theorem Words.ovlyp (x0 x1) : Words.Statement (.ovlyp x0 x1) := words_plain _ _ _ _ rfl (by omega) (by omega) (body_lt _ _ rfl) (by omega) (by omega)
theorem Words.ovlys : Words.Statement (.ovlys) := words_plain _ _ _ _ rfl (by omega) (by omega) (by omega) (by omega) (by omega)
theorem Words.br (x0 x1 x2 x3) : Words.Statement (.br x0 x1 x2 x3) := words_plain _ _ _ _ rfl (by omega) (by omega) (body_lt _ _ rfl) (by omega) (by omega)
theorem Words.call (x0 x1 x2 x3) : Words.Statement (.call x0 x1 x2 x3) := words_plain _ _ _ _ rfl (by omega) (by omega) (body_lt _ _ rfl) (by omega) (by omega)
theorem Words.ret : Words.Statement (.ret) := words_plain _ _ _ _ rfl (by omega) (by omega) (by omega) (by omega) (by omega)
theorem Words.bq (x0 x1 x2) : Words.Statement (.bq x0 x1 x2) := words_plain _ _ _ _ rfl (by omega) (by omega) (body_lt _ _ rfl) (by omega) (by omega)
theorem Words.repeat_ (x0 x1 x2 x3 x4) : Words.Statement (.repeat_ x0 x1 x2 x3 x4) := words_plain _ _ _ _ rfl (by omega) (by omega) (body_lt _ _ rfl) (by omega) (by omega)
theorem Words.leave : Words.Statement (.leave) := words_plain _ _ _ _ rfl (by omega) (by omega) (by omega) (by omega) (by omega)
theorem Words.xadd (x0 x1 x2) : Words.Statement (.xadd x0 x1 x2) := words_plain _ _ _ _ rfl (by omega) (by omega) (body_lt _ _ rfl) (by omega) (by omega)
theorem Words.xsub (x0 x1 x2) : Words.Statement (.xsub x0 x1 x2) := words_plain _ _ _ _ rfl (by omega) (by omega) (body_lt _ _ rfl) (by omega) (by omega)
theorem Words.xmul (x0 x1 x2) : Words.Statement (.xmul x0 x1 x2) := words_plain _ _ _ _ rfl (by omega) (by omega) (body_lt _ _ rfl) (by omega) (by omega)
theorem Words.xand (x0 x1 x2) : Words.Statement (.xand x0 x1 x2) := words_plain _ _ _ _ rfl (by omega) (by omega) (body_lt _ _ rfl) (by omega) (by omega)
theorem Words.xor_ (x0 x1 x2) : Words.Statement (.xor_ x0 x1 x2) := words_plain _ _ _ _ rfl (by omega) (by omega) (body_lt _ _ rfl) (by omega) (by omega)
theorem Words.xxor (x0 x1 x2) : Words.Statement (.xxor x0 x1 x2) := words_plain _ _ _ _ rfl (by omega) (by omega) (body_lt _ _ rfl) (by omega) (by omega)
theorem Words.xshl (x0 x1 x2) : Words.Statement (.xshl x0 x1 x2) := words_plain _ _ _ _ rfl (by omega) (by omega) (body_lt _ _ rfl) (by omega) (by omega)
theorem Words.xshr (x0 x1 x2) : Words.Statement (.xshr x0 x1 x2) := words_plain _ _ _ _ rfl (by omega) (by omega) (body_lt _ _ rfl) (by omega) (by omega)
theorem Words.xsra (x0 x1 x2) : Words.Statement (.xsra x0 x1 x2) := words_plain _ _ _ _ rfl (by omega) (by omega) (body_lt _ _ rfl) (by omega) (by omega)
theorem Words.xmin (x0 x1 x2) : Words.Statement (.xmin x0 x1 x2) := words_plain _ _ _ _ rfl (by omega) (by omega) (body_lt _ _ rfl) (by omega) (by omega)
theorem Words.xmax (x0 x1 x2) : Words.Statement (.xmax x0 x1 x2) := words_plain _ _ _ _ rfl (by omega) (by omega) (body_lt _ _ rfl) (by omega) (by omega)
theorem Words.xcmp (x0 x1 x2) : Words.Statement (.xcmp x0 x1 x2) := words_plain _ _ _ _ rfl (by omega) (by omega) (body_lt _ _ rfl) (by omega) (by omega)
theorem Words.xaddi (x0 x1 x2) : Words.Statement (.xaddi x0 x1 x2) := words_plain _ _ _ _ rfl (by omega) (by omega) (body_lt _ _ rfl) (by omega) (by omega)
theorem Words.xandi (x0 x1 x2) : Words.Statement (.xandi x0 x1 x2) := words_plain _ _ _ _ rfl (by omega) (by omega) (body_lt _ _ rfl) (by omega) (by omega)
theorem Words.xori (x0 x1 x2) : Words.Statement (.xori x0 x1 x2) := words_plain _ _ _ _ rfl (by omega) (by omega) (body_lt _ _ rfl) (by omega) (by omega)
theorem Words.xxori (x0 x1 x2) : Words.Statement (.xxori x0 x1 x2) := words_plain _ _ _ _ rfl (by omega) (by omega) (body_lt _ _ rfl) (by omega) (by omega)
theorem Words.xshli (x0 x1 x2) : Words.Statement (.xshli x0 x1 x2) := words_plain _ _ _ _ rfl (by omega) (by omega) (body_lt _ _ rfl) (by omega) (by omega)
theorem Words.xshri (x0 x1 x2) : Words.Statement (.xshri x0 x1 x2) := words_plain _ _ _ _ rfl (by omega) (by omega) (body_lt _ _ rfl) (by omega) (by omega)
theorem Words.xsrai (x0 x1 x2) : Words.Statement (.xsrai x0 x1 x2) := words_plain _ _ _ _ rfl (by omega) (by omega) (body_lt _ _ rfl) (by omega) (by omega)
theorem Words.xli (x0 x1) : Words.Statement (.xli x0 x1) := words_plain _ _ _ _ rfl (by omega) (by omega) (body_lt _ _ rfl) (by omega) (by omega)
theorem Words.xlil (x0 x1) : Words.Statement (.xlil x0 x1) := by
  intro e op b ls h; cases h
  refine ⟨by omega, by omega, body_lt _ _ rfl, fun w e1 e2 _ => ?_⟩
  simp [litCount, e1, e2]
theorem Words.inj (x0 x1 x2) : Words.Statement (.inj x0 x1 x2) := words_plain _ _ _ _ rfl (by omega) (by omega) (body_lt _ _ rfl) (by omega) (by omega)
theorem Words.cap (x0 x1 x2) : Words.Statement (.cap x0 x1 x2) := words_plain _ _ _ _ rfl (by omega) (by omega) (body_lt _ _ rfl) (by omega) (by omega)
theorem Words.popt (x0 x1 x2) : Words.Statement (.popt x0 x1 x2) := words_plain _ _ _ _ rfl (by omega) (by omega) (body_lt _ _ rfl) (by omega) (by omega)
theorem Words.pusht (x0 x1 x2) : Words.Statement (.pusht x0 x1 x2) := words_plain _ _ _ _ rfl (by omega) (by omega) (body_lt _ _ rfl) (by omega) (by omega)
theorem Words.qpop (x0 x1 x2) : Words.Statement (.qpop x0 x1 x2) := words_plain _ _ _ _ rfl (by omega) (by omega) (body_lt _ _ rfl) (by omega) (by omega)
theorem Words.qstat (x0 x1) : Words.Statement (.qstat x0 x1) := words_plain _ _ _ _ rfl (by omega) (by omega) (body_lt _ _ rfl) (by omega) (by omega)
theorem Words.lds (x0 x1 x2) : Words.Statement (.lds x0 x1 x2) := words_plain _ _ _ _ rfl (by omega) (by omega) (body_lt _ _ rfl) (by omega) (by omega)
theorem Words.sts (x0 x1 x2) : Words.Statement (.sts x0 x1 x2) := words_plain _ _ _ _ rfl (by omega) (by omega) (body_lt _ _ rfl) (by omega) (by omega)
theorem Words.phase (x0 x1) : Words.Statement (.phase x0 x1) := words_plain _ _ _ _ rfl (by omega) (by omega) (body_lt _ _ rfl) (by omega) (by omega)
theorem Words.waittc (x0 x1 x2 x3) : Words.Statement (.waittc x0 x1 x2 x3) := words_plain _ _ _ _ rfl (by omega) (by omega) (body_lt _ _ rfl) (by omega) (by omega)
theorem Words.gettc (x0 x1) : Words.Statement (.gettc x0 x1) := words_plain _ _ _ _ rfl (by omega) (by omega) (body_lt _ _ rfl) (by omega) (by omega)
theorem Words.xtoa (x0 x1) : Words.Statement (.xtoa x0 x1) := words_plain _ _ _ _ rfl (by omega) (by omega) (body_lt _ _ rfl) (by omega) (by omega)
theorem Words.atox (x0 x1) : Words.Statement (.atox x0 x1) := words_plain _ _ _ _ rfl (by omega) (by omega) (body_lt _ _ rfl) (by omega) (by omega)
theorem Words.rotset (x0 x1) : Words.Statement (.rotset x0 x1) := words_plain _ _ _ _ rfl (by omega) (by omega) (body_lt _ _ rfl) (by omega) (by omega)
theorem Words.getsys (x0 x1) : Words.Statement (.getsys x0 x1) := words_plain _ _ _ _ rfl (by omega) (by omega) (body_lt _ _ rfl) (by omega) (by omega)
theorem Words.setfpc (x0) : Words.Statement (.setfpc x0) := words_plain _ _ _ _ rfl (by omega) (by omega) (body_lt _ _ rfl) (by omega) (by omega)
theorem Words.setovf (x0) : Words.Statement (.setovf x0) := words_plain _ _ _ _ rfl (by omega) (by omega) (body_lt _ _ rfl) (by omega) (by omega)
theorem Words.sadd (x0 x1 x2 x3) : Words.Statement (.sadd x0 x1 x2 x3) := by
  cases x3 <;> exact words_plain _ _ _ _ rfl (by omega) (by omega) (body_lt _ _ rfl) (by omega) (by omega)
theorem Words.ssub (x0 x1 x2 x3) : Words.Statement (.ssub x0 x1 x2 x3) := by
  cases x3 <;> exact words_plain _ _ _ _ rfl (by omega) (by omega) (body_lt _ _ rfl) (by omega) (by omega)
theorem Words.smul (x0 x1 x2 x3) : Words.Statement (.smul x0 x1 x2 x3) := by
  cases x3 <;> exact words_plain _ _ _ _ rfl (by omega) (by omega) (body_lt _ _ rfl) (by omega) (by omega)
theorem Words.sand (x0 x1 x2 x3) : Words.Statement (.sand x0 x1 x2 x3) := by
  cases x3 <;> exact words_plain _ _ _ _ rfl (by omega) (by omega) (body_lt _ _ rfl) (by omega) (by omega)
theorem Words.sor (x0 x1 x2 x3) : Words.Statement (.sor x0 x1 x2 x3) := by
  cases x3 <;> exact words_plain _ _ _ _ rfl (by omega) (by omega) (body_lt _ _ rfl) (by omega) (by omega)
theorem Words.sxor (x0 x1 x2 x3) : Words.Statement (.sxor x0 x1 x2 x3) := by
  cases x3 <;> exact words_plain _ _ _ _ rfl (by omega) (by omega) (body_lt _ _ rfl) (by omega) (by omega)
theorem Words.sshl (x0 x1 x2 x3) : Words.Statement (.sshl x0 x1 x2 x3) := by
  cases x3 <;> exact words_plain _ _ _ _ rfl (by omega) (by omega) (body_lt _ _ rfl) (by omega) (by omega)
theorem Words.sshr (x0 x1 x2 x3) : Words.Statement (.sshr x0 x1 x2 x3) := by
  cases x3 <;> exact words_plain _ _ _ _ rfl (by omega) (by omega) (body_lt _ _ rfl) (by omega) (by omega)
theorem Words.ssra (x0 x1 x2 x3) : Words.Statement (.ssra x0 x1 x2 x3) := by
  cases x3 <;> exact words_plain _ _ _ _ rfl (by omega) (by omega) (body_lt _ _ rfl) (by omega) (by omega)
theorem Words.smin (x0 x1 x2 x3) : Words.Statement (.smin x0 x1 x2 x3) := by
  cases x3 <;> exact words_plain _ _ _ _ rfl (by omega) (by omega) (body_lt _ _ rfl) (by omega) (by omega)
theorem Words.smax (x0 x1 x2 x3) : Words.Statement (.smax x0 x1 x2 x3) := by
  cases x3 <;> exact words_plain _ _ _ _ rfl (by omega) (by omega) (body_lt _ _ rfl) (by omega) (by omega)
theorem Words.smovx (x0 x1 x2) : Words.Statement (.smovx x0 x1 x2) := words_plain _ _ _ _ rfl (by omega) (by omega) (body_lt _ _ rfl) (by omega) (by omega)
theorem Words.sget (x0 x1 x2) : Words.Statement (.sget x0 x1 x2) := words_plain _ _ _ _ rfl (by omega) (by omega) (body_lt _ _ rfl) (by omega) (by omega)
theorem Words.sli (x0 x1 x2) : Words.Statement (.sli x0 x1 x2) := by
  intro e op b ls h
  cases x2 <;> cases h <;> refine ⟨by omega, by omega, body_lt _ _ rfl, fun w e1 e2 e3 => ?_⟩ <;>
    simp only [litCount, e1, e2, e3, c3, c3_im] <;> rfl
theorem Words.scmp (x0 x1 x2 x3 x4) : Words.Statement (.scmp x0 x1 x2 x3 x4) := words_plain _ _ _ _ rfl (by omega) (by omega) (body_lt _ _ rfl) (by omega) (by omega)
theorem Words.pand (x0 x1 x2 x3) : Words.Statement (.pand x0 x1 x2 x3) := words_plain _ _ _ _ rfl (by omega) (by omega) (body_lt _ _ rfl) (by omega) (by omega)
theorem Words.por (x0 x1 x2 x3) : Words.Statement (.por x0 x1 x2 x3) := words_plain _ _ _ _ rfl (by omega) (by omega) (body_lt _ _ rfl) (by omega) (by omega)
theorem Words.pxor (x0 x1 x2 x3) : Words.Statement (.pxor x0 x1 x2 x3) := words_plain _ _ _ _ rfl (by omega) (by omega) (body_lt _ _ rfl) (by omega) (by omega)
theorem Words.pnot (x0 x1 x2) : Words.Statement (.pnot x0 x1 x2) := words_plain _ _ _ _ rfl (by omega) (by omega) (body_lt _ _ rfl) (by omega) (by omega)
theorem Words.vany (x0 x1 x2) : Words.Statement (.vany x0 x1 x2) := words_plain _ _ _ _ rfl (by omega) (by omega) (body_lt _ _ rfl) (by omega) (by omega)
theorem Words.vall (x0 x1 x2) : Words.Statement (.vall x0 x1 x2) := words_plain _ _ _ _ rfl (by omega) (by omega) (body_lt _ _ rfl) (by omega) (by omega)
theorem Words.vadd (x0 x1 x2 x3 x4 x5) : Words.Statement (.vadd x0 x1 x2 x3 x4 x5) := words_c1 _ _ _ _ _ _ _ _ _ rfl (BSrc.enc_lits _) (by omega)
theorem Words.vsub (x0 x1 x2 x3 x4 x5) : Words.Statement (.vsub x0 x1 x2 x3 x4 x5) := words_c1 _ _ _ _ _ _ _ _ _ rfl (BSrc.enc_lits _) (by omega)
theorem Words.vmul (x0 x1 x2 x3 x4 x5) : Words.Statement (.vmul x0 x1 x2 x3 x4 x5) := words_c1 _ _ _ _ _ _ _ _ _ rfl (BSrc.enc_lits _) (by omega)
theorem Words.vfma (x0 x1 x2 x3 x4 x5) : Words.Statement (.vfma x0 x1 x2 x3 x4 x5) := words_c1 _ _ _ _ _ _ _ _ _ rfl (BSrc.enc_lits _) (by omega)
theorem Words.vfms (x0 x1 x2 x3 x4 x5) : Words.Statement (.vfms x0 x1 x2 x3 x4 x5) := words_c1 _ _ _ _ _ _ _ _ _ rfl (BSrc.enc_lits _) (by omega)
theorem Words.vfmh (x0 x1 x2 x3 x4 x5) : Words.Statement (.vfmh x0 x1 x2 x3 x4 x5) := words_c1 _ _ _ _ _ _ _ _ _ rfl (BSrc.enc_lits _) (by omega)
theorem Words.vmin (x0 x1 x2 x3 x4 x5) : Words.Statement (.vmin x0 x1 x2 x3 x4 x5) := words_c1 _ _ _ _ _ _ _ _ _ rfl (BSrc.enc_lits _) (by omega)
theorem Words.vmax (x0 x1 x2 x3 x4 x5) : Words.Statement (.vmax x0 x1 x2 x3 x4 x5) := words_c1 _ _ _ _ _ _ _ _ _ rfl (BSrc.enc_lits _) (by omega)
theorem Words.vabs (x0 x1 x2 x3) : Words.Statement (.vabs x0 x1 x2 x3) := words_c1 _ _ _ _ _ _ _ _ _ rfl rfl (by omega)
theorem Words.vneg (x0 x1 x2 x3) : Words.Statement (.vneg x0 x1 x2 x3) := words_c1 _ _ _ _ _ _ _ _ _ rfl rfl (by omega)
theorem Words.vcmp (x0 x1 x2 x3 x4 x5) : Words.Statement (.vcmp x0 x1 x2 x3 x4 x5) := words_c1 _ _ _ _ _ _ _ _ _ rfl (BSrc.enc_lits _) (by omega)
theorem Words.vsel (x0 x1 x2 x3 x4) : Words.Statement (.vsel x0 x1 x2 x3 x4) := words_c1 _ _ _ _ _ _ _ _ _ rfl (BSrc.enc_lits _) (by omega)
theorem Words.vrcp (x0 x1 x2 x3 x4) : Words.Statement (.vrcp x0 x1 x2 x3 x4) := words_c1 _ _ _ _ _ _ _ _ _ rfl rfl (by omega)
theorem Words.vrsq (x0 x1 x2 x3 x4) : Words.Statement (.vrsq x0 x1 x2 x3 x4) := words_c1 _ _ _ _ _ _ _ _ _ rfl rfl (by omega)
theorem Words.vsqrt (x0 x1 x2 x3 x4) : Words.Statement (.vsqrt x0 x1 x2 x3 x4) := words_c1 _ _ _ _ _ _ _ _ _ rfl rfl (by omega)
theorem Words.vexp2 (x0 x1 x2 x3 x4) : Words.Statement (.vexp2 x0 x1 x2 x3 x4) := words_c1 _ _ _ _ _ _ _ _ _ rfl rfl (by omega)
theorem Words.vlog2 (x0 x1 x2 x3 x4) : Words.Statement (.vlog2 x0 x1 x2 x3 x4) := words_c1 _ _ _ _ _ _ _ _ _ rfl rfl (by omega)
theorem Words.vtanh (x0 x1 x2 x3 x4) : Words.Statement (.vtanh x0 x1 x2 x3 x4) := words_c1 _ _ _ _ _ _ _ _ _ rfl rfl (by omega)
theorem Words.vsigm (x0 x1 x2 x3 x4) : Words.Statement (.vsigm x0 x1 x2 x3 x4) := words_c1 _ _ _ _ _ _ _ _ _ rfl rfl (by omega)
theorem Words.vsin (x0 x1 x2 x3 x4) : Words.Statement (.vsin x0 x1 x2 x3 x4) := words_c1 _ _ _ _ _ _ _ _ _ rfl rfl (by omega)
theorem Words.vcos (x0 x1 x2 x3 x4) : Words.Statement (.vcos x0 x1 x2 x3 x4) := words_c1 _ _ _ _ _ _ _ _ _ rfl rfl (by omega)
theorem Words.viadd (x0 x1 x2 x3 x4 x5) : Words.Statement (.viadd x0 x1 x2 x3 x4 x5) := words_c1 _ _ _ _ _ _ _ _ _ rfl (BSrc.enc_lits _) (by omega)
theorem Words.visub (x0 x1 x2 x3 x4 x5) : Words.Statement (.visub x0 x1 x2 x3 x4 x5) := words_c1 _ _ _ _ _ _ _ _ _ rfl (BSrc.enc_lits _) (by omega)
theorem Words.vimul (x0 x1 x2 x3 x4 x5) : Words.Statement (.vimul x0 x1 x2 x3 x4 x5) := words_c1 _ _ _ _ _ _ _ _ _ rfl (BSrc.enc_lits _) (by omega)
theorem Words.vand (x0 x1 x2 x3 x4) : Words.Statement (.vand x0 x1 x2 x3 x4) := words_c1 _ _ _ _ _ _ _ _ _ rfl (BSrc.enc_lits _) (by omega)
theorem Words.vor (x0 x1 x2 x3 x4) : Words.Statement (.vor x0 x1 x2 x3 x4) := words_c1 _ _ _ _ _ _ _ _ _ rfl (BSrc.enc_lits _) (by omega)
theorem Words.vxor (x0 x1 x2 x3 x4) : Words.Statement (.vxor x0 x1 x2 x3 x4) := words_c1 _ _ _ _ _ _ _ _ _ rfl (BSrc.enc_lits _) (by omega)
theorem Words.vshl (x0 x1 x2 x3 x4) : Words.Statement (.vshl x0 x1 x2 x3 x4) := words_c1 _ _ _ _ _ _ _ _ _ rfl (BSrc.enc_lits _) (by omega)
theorem Words.vshr (x0 x1 x2 x3 x4) : Words.Statement (.vshr x0 x1 x2 x3 x4) := words_c1 _ _ _ _ _ _ _ _ _ rfl (BSrc.enc_lits _) (by omega)
theorem Words.vsra (x0 x1 x2 x3 x4) : Words.Statement (.vsra x0 x1 x2 x3 x4) := words_c1 _ _ _ _ _ _ _ _ _ rfl (BSrc.enc_lits _) (by omega)
theorem Words.vimin (x0 x1 x2 x3 x4) : Words.Statement (.vimin x0 x1 x2 x3 x4) := words_c1 _ _ _ _ _ _ _ _ _ rfl (BSrc.enc_lits _) (by omega)
theorem Words.vimax (x0 x1 x2 x3 x4) : Words.Statement (.vimax x0 x1 x2 x3 x4) := words_c1 _ _ _ _ _ _ _ _ _ rfl (BSrc.enc_lits _) (by omega)
theorem Words.vicmp (x0 x1 x2 x3 x4 x5) : Words.Statement (.vicmp x0 x1 x2 x3 x4 x5) := words_c1 _ _ _ _ _ _ _ _ _ rfl (BSrc.enc_lits _) (by omega)
theorem Words.vcvt (x0 x1 x2 x3 x4 x5 x6) : Words.Statement (.vcvt x0 x1 x2 x3 x4 x5 x6) := words_c1 _ _ _ _ _ _ _ _ _ rfl rfl (by omega)
theorem Words.vfxc (x0 x1 x2) : Words.Statement (.vfxc x0 x1 x2) := words_c1 _ _ _ _ _ _ _ _ _ rfl rfl (by omega)
theorem Words.vfxa (x0 x1 x2 x3) : Words.Statement (.vfxa x0 x1 x2 x3) := by
  cases x3 with
  | row v => exact words_c1 _ _ _ _ _ (v.toNat, 0, []) _ _ _ rfl rfl (by omega)
  | slot v => exact words_c1 _ _ _ _ _ (v.toNat, 3, []) _ _ _ rfl rfl (by omega)
theorem Words.vfxf (x0 x1 x2 x3) : Words.Statement (.vfxf x0 x1 x2 x3) := words_c1 _ _ _ _ _ _ _ _ _ rfl rfl (by omega)
theorem Words.vrsum (x0 x1 x2 x3 x4 x5) : Words.Statement (.vrsum x0 x1 x2 x3 x4 x5) := words_c1 _ _ _ _ _ _ _ _ _ rfl rfl (by omega)
theorem Words.vrmax (x0 x1 x2 x3) : Words.Statement (.vrmax x0 x1 x2 x3) := words_c1 _ _ _ _ _ _ _ _ _ rfl rfl (by omega)
theorem Words.vrmin (x0 x1 x2 x3) : Words.Statement (.vrmin x0 x1 x2 x3) := words_c1 _ _ _ _ _ _ _ _ _ rfl rfl (by omega)
theorem Words.vperm (x0 x1 x2 x3 x4) : Words.Statement (.vperm x0 x1 x2 x3 x4) := words_c1 _ _ _ _ _ _ _ _ _ rfl (BSrc.enc_lits _) (by omega)
theorem Words.vbcast (x0 x1 x2 x3 x4) : Words.Statement (.vbcast x0 x1 x2 x3 x4) := words_c1 _ _ _ _ _ _ _ _ _ rfl rfl (by omega)
theorem Words.vrot (x0 x1 x2 x3 x4) : Words.Statement (.vrot x0 x1 x2 x3 x4) := words_c1 _ _ _ _ _ _ _ _ _ rfl rfl (by omega)
theorem Words.vladd (x0 x1 x2 x3 x4 x5) : Words.Statement (.vladd x0 x1 x2 x3 x4 x5) := words_c1 _ _ _ _ _ _ _ _ _ rfl rfl (by omega)
theorem Words.vfxl (x0 x1 x2 x3) : Words.Statement (.vfxl x0 x1 x2 x3) := words_c1 _ _ _ _ _ _ _ _ _ rfl rfl (by omega)
theorem Words.vaddi (x0 x1 x2 x3) : Words.Statement (.vaddi x0 x1 x2 x3) := words_plain _ _ _ _ rfl (by omega) (by omega) (body_lt _ _ rfl) (by omega) (by omega)
theorem Words.vmuli (x0 x1 x2 x3) : Words.Statement (.vmuli x0 x1 x2 x3) := words_plain _ _ _ _ rfl (by omega) (by omega) (body_lt _ _ rfl) (by omega) (by omega)
theorem Words.vfmhi (x0 x1 x2 x3) : Words.Statement (.vfmhi x0 x1 x2 x3) := words_plain _ _ _ _ rfl (by omega) (by omega) (body_lt _ _ rfl) (by omega) (by omega)
theorem Words.vmini (x0 x1 x2 x3) : Words.Statement (.vmini x0 x1 x2 x3) := words_plain _ _ _ _ rfl (by omega) (by omega) (body_lt _ _ rfl) (by omega) (by omega)
theorem Words.vmaxi (x0 x1 x2 x3) : Words.Statement (.vmaxi x0 x1 x2 x3) := words_plain _ _ _ _ rfl (by omega) (by omega) (body_lt _ _ rfl) (by omega) (by omega)
theorem Words.viaddi (x0 x1 x2 x3) : Words.Statement (.viaddi x0 x1 x2 x3) := words_plain _ _ _ _ rfl (by omega) (by omega) (body_lt _ _ rfl) (by omega) (by omega)
theorem Words.vandi (x0 x1 x2 x3) : Words.Statement (.vandi x0 x1 x2 x3) := words_plain _ _ _ _ rfl (by omega) (by omega) (body_lt _ _ rfl) (by omega) (by omega)
theorem Words.vshli (x0 x1 x2 x3) : Words.Statement (.vshli x0 x1 x2 x3) := words_plain _ _ _ _ rfl (by omega) (by omega) (body_lt _ _ rfl) (by omega) (by omega)
theorem Words.vli (x0 x1 x2) : Words.Statement (.vli x0 x1 x2) := words_plain _ _ _ _ rfl (by omega) (by omega) (body_lt _ _ rfl) (by omega) (by omega)
theorem Words.vmov (x0 x1 x2 x3) : Words.Statement (.vmov x0 x1 x2 x3) := words_c1 _ _ _ _ _ _ _ _ _ rfl (BSrc.enc_lits _) (by omega)
theorem Words.mma (x0 x1 x2 x3 x4 x5 x6 x7 x8) : Words.Statement (.mma x0 x1 x2 x3 x4 x5 x6 x7 x8) := by
  cases x6 <;> exact words_plain _ _ _ _ rfl (by omega) (by omega) (body_lt _ _ rfl) (by omega) (by omega)
theorem Words.mzero (x0 x1) : Words.Statement (.mzero x0 x1) := words_plain _ _ _ _ rfl (by omega) (by omega) (body_lt _ _ rfl) (by omega) (by omega)
theorem Words.mtrn (x0 x1 x2) : Words.Statement (.mtrn x0 x1 x2) := words_plain _ _ _ _ rfl (by omega) (by omega) (body_lt _ _ rfl) (by omega) (by omega)
theorem Words.vgetl (x0 x1 x2 x3) : Words.Statement (.vgetl x0 x1 x2 x3) := words_plain _ _ _ _ rfl (by omega) (by omega) (body_lt _ _ rfl) (by omega) (by omega)
theorem Words.vputl (x0 x1 x2 x3) : Words.Statement (.vputl x0 x1 x2 x3) := words_plain _ _ _ _ rfl (by omega) (by omega) (body_lt _ _ rfl) (by omega) (by omega)
theorem Words.fldv (x0 x1 x2 x3 x4) : Words.Statement (.fldv x0 x1 x2 x3 x4) := words_plain _ _ _ _ rfl (by omega) (by omega) (body_lt _ _ rfl) (by omega) (by omega)
theorem Words.fstv (x0 x1 x2 x3 x4) : Words.Statement (.fstv x0 x1 x2 x3 x4) := words_plain _ _ _ _ rfl (by omega) (by omega) (body_lt _ _ rfl) (by omega) (by omega)
theorem Words.fldm (x0 x1 x2 x3 x4) : Words.Statement (.fldm x0 x1 x2 x3 x4) := words_plain _ _ _ _ rfl (by omega) (by omega) (body_lt _ _ rfl) (by omega) (by omega)
theorem Words.fstm (x0 x1 x2 x3 x4) : Words.Statement (.fstm x0 x1 x2 x3 x4) := words_plain _ _ _ _ rfl (by omega) (by omega) (body_lt _ _ rfl) (by omega) (by omega)
theorem Words.amov (x0 x1 x2) : Words.Statement (.amov x0 x1 x2) := words_plain _ _ _ _ rfl (by omega) (by omega) (body_lt _ _ rfl) (by omega) (by omega)
theorem Words.aaddi (x0 x1 x2 x3) : Words.Statement (.aaddi x0 x1 x2 x3) := words_plain _ _ _ _ rfl (by omega) (by omega) (body_lt _ _ rfl) (by omega) (by omega)
theorem Words.asetf (x0 x1 x2) : Words.Statement (.asetf x0 x1 x2) := words_plain _ _ _ _ rfl (by omega) (by omega) (body_lt _ _ rfl) (by omega) (by omega)
theorem Words.aincf (x0 x1 x2) : Words.Statement (.aincf x0 x1 x2) := words_plain _ _ _ _ rfl (by omega) (by omega) (body_lt _ _ rfl) (by omega) (by omega)
theorem Words.aadd (x0 x1 x2 x3) : Words.Statement (.aadd x0 x1 x2 x3) := words_plain _ _ _ _ rfl (by omega) (by omega) (body_lt _ _ rfl) (by omega) (by omega)
theorem Words.acol (x0 x1 x2 x3) : Words.Statement (.acol x0 x1 x2 x3) := words_plain _ _ _ _ rfl (by omega) (by omega) (body_lt _ _ rfl) (by omega) (by omega)
theorem Words.feed (x0 x1) : Words.Statement (.feed x0 x1) := words_plain _ _ _ _ rfl (by omega) (by omega) (body_lt _ _ rfl) (by omega) (by omega)
theorem Words.drain (x0 x1) : Words.Statement (.drain x0 x1) := words_plain _ _ _ _ rfl (by omega) (by omega) (body_lt _ _ rfl) (by omega) (by omega)
theorem Words.fillf (x0 x1 x2) : Words.Statement (.fillf x0 x1 x2) := words_plain _ _ _ _ rfl (by omega) (by omega) (body_lt _ _ rfl) (by omega) (by omega)
theorem Words.spillf (x0 x1 x2) : Words.Statement (.spillf x0 x1 x2) := words_plain _ _ _ _ rfl (by omega) (by omega) (body_lt _ _ rfl) (by omega) (by omega)
theorem Words.tld (x0 x1 x2) : Words.Statement (.tld x0 x1 x2) := words_plain _ _ _ _ rfl (by omega) (by omega) (body_lt _ _ rfl) (by omega) (by omega)
theorem Words.tst (x0 x1 x2) : Words.Statement (.tst x0 x1 x2) := words_plain _ _ _ _ rfl (by omega) (by omega) (body_lt _ _ rfl) (by omega) (by omega)
theorem Words.kbld (x0 x1 x2) : Words.Statement (.kbld x0 x1 x2) := words_plain _ _ _ _ rfl (by omega) (by omega) (body_lt _ _ rfl) (by omega) (by omega)
theorem Words.tdesc (x0 x1) : Words.Statement (.tdesc x0 x1) := words_plain _ _ _ _ rfl (by omega) (by omega) (body_lt _ _ rfl) (by omega) (by omega)
theorem Words.pref (x0) : Words.Statement (.pref x0) := words_plain _ _ _ _ rfl (by omega) (by omega) (body_lt _ _ rfl) (by omega) (by omega)
theorem Words.atadd (x0) : Words.Statement (.atadd x0) := words_plain _ _ _ _ rfl (by omega) (by omega) (body_lt _ _ rfl) (by omega) (by omega)
theorem Words.atcas (x0) : Words.Statement (.atcas x0) := words_plain _ _ _ _ rfl (by omega) (by omega) (body_lt _ _ rfl) (by omega) (by omega)
theorem Words.atxch (x0) : Words.Statement (.atxch x0) := words_plain _ _ _ _ rfl (by omega) (by omega) (body_lt _ _ rfl) (by omega) (by omega)
theorem Words.atmax (x0) : Words.Statement (.atmax x0) := words_plain _ _ _ _ rfl (by omega) (by omega) (body_lt _ _ rfl) (by omega) (by omega)
theorem Words.atmin (x0) : Words.Statement (.atmin x0) := words_plain _ _ _ _ rfl (by omega) (by omega) (body_lt _ _ rfl) (by omega) (by omega)
theorem Words.atand (x0) : Words.Statement (.atand x0) := words_plain _ _ _ _ rfl (by omega) (by omega) (body_lt _ _ rfl) (by omega) (by omega)
theorem Words.ator (x0) : Words.Statement (.ator x0) := words_plain _ _ _ _ rfl (by omega) (by omega) (body_lt _ _ rfl) (by omega) (by omega)
theorem Words.atfadd (x0) : Words.Statement (.atfadd x0) := words_plain _ _ _ _ rfl (by omega) (by omega) (body_lt _ _ rfl) (by omega) (by omega)
theorem Words.arow (x0 x1 x2 x3 x4) : Words.Statement (.arow x0 x1 x2 x3 x4) := words_plain _ _ _ _ rfl (by omega) (by omega) (body_lt _ _ rfl) (by omega) (by omega)
theorem Words.send (x0) : Words.Statement (.send x0) := words_plain _ _ _ _ rfl (by omega) (by omega) (body_lt _ _ rfl) (by omega) (by omega)
theorem Words.xwr (x0) : Words.Statement (.xwr x0) := words_plain _ _ _ _ rfl (by omega) (by omega) (body_lt _ _ rfl) (by omega) (by omega)
theorem Words.xrd (x0) : Words.Statement (.xrd x0) := words_plain _ _ _ _ rfl (by omega) (by omega) (body_lt _ _ rfl) (by omega) (by omega)
theorem Words.xat (x0) : Words.Statement (.xat x0) := words_plain _ _ _ _ rfl (by omega) (by omega) (body_lt _ _ rfl) (by omega) (by omega)
theorem Words.recv (x0 x1) : Words.Statement (.recv x0 x1) := by
  cases x0 <;> exact words_plain _ _ _ _ rfl (by omega) (by omega) (body_lt _ _ rfl) (by omega) (by omega)
theorem Words.rcancel (x0 x1) : Words.Statement (.rcancel x0 x1) := by
  cases x0 <;> exact words_plain _ _ _ _ rfl (by omega) (by omega) (body_lt _ _ rfl) (by omega) (by omega)
theorem Words.rate (x0 x1 x2 x3 x4) : Words.Statement (.rate x0 x1 x2 x3 x4) := words_plain _ _ _ _ rfl (by omega) (by omega) (body_lt _ _ rfl) (by omega) (by omega)
theorem Words.strandCycle (x0) : Words.Statement (.strandCycle x0) := words_none _ rfl
theorem Words.replayRestart (x0) : Words.Statement (.replayRestart x0) := words_none _ rfl
theorem Words.stallRelease (x0) : Words.Statement (.stallRelease x0) := words_none _ rfl
theorem Words.stallTimeout (x0) : Words.Statement (.stallTimeout x0) := words_none _ rfl
theorem Words.weaveFrameBoundary (x0) : Words.Statement (.weaveFrameBoundary x0) := words_none _ rfl
theorem Words.energyPeriodStart : Words.Statement (.energyPeriodStart) := words_none _ rfl
theorem Words.rephasePoint (x0) : Words.Statement (.rephasePoint x0) := words_none _ rfl
theorem Words.agenCommandPerform (x0) : Words.Statement (.agenCommandPerform x0) := words_none _ rfl
theorem Words.xchgCommandPerform (x0 x1) : Words.Statement (.xchgCommandPerform x0 x1) := words_none _ rfl
theorem Words.overlayLoadComplete (x0) : Words.Statement (.overlayLoadComplete x0) := words_none _ rfl
theorem Words.launchEnd (x0) : Words.Statement (.launchEnd x0) := words_none _ rfl
theorem Words.shadowMismatch (x0 x1 x2) : Words.Statement (.shadowMismatch x0 x1 x2) := words_none _ rfl
theorem Words.fragmentSend (x0 x1 x2) : Words.Statement (.fragmentSend x0 x1 x2) := words_none _ rfl
theorem Words.fabricQuotaWindow : Words.Statement (.fabricQuotaWindow) := words_none _ rfl
theorem Words.fragmentReceive (x0 x1) : Words.Statement (.fragmentReceive x0 x1) := words_none _ rfl
theorem Words.fragmentForward (x0 x1) : Words.Statement (.fragmentForward x0 x1) := words_none _ rfl
theorem Words.messageDelivery (x0) : Words.Statement (.messageDelivery x0) := words_none _ rfl
theorem Words.slotDeadlineExpiry (x0) : Words.Statement (.slotDeadlineExpiry x0) := words_none _ rfl
theorem Words.resendRequestReceive (x0) : Words.Statement (.resendRequestReceive x0) := words_none _ rfl
theorem Words.resendWaitExpiry (x0) : Words.Statement (.resendWaitExpiry x0) := words_none _ rfl
theorem Words.reportReceive (x0) : Words.Statement (.reportReceive x0) := words_none _ rfl
theorem Words.reportDeadlineExpiry (x0 x1) : Words.Statement (.reportDeadlineExpiry x0 x1) := words_none _ rfl
theorem Words.accessionEntryExpiry (x0) : Words.Statement (.accessionEntryExpiry x0) := words_none _ rfl
theorem Words.fdelayRelease (x0) : Words.Statement (.fdelayRelease x0) := words_none _ rfl
theorem Words.timeSyncBeat (x0) : Words.Statement (.timeSyncBeat x0) := words_none _ rfl
theorem Words.portStateChange (x0 x1) : Words.Statement (.portStateChange x0 x1) := words_none _ rfl
theorem Words.inFieldTestFailure (x0) : Words.Statement (.inFieldTestFailure x0) := words_none _ rfl
theorem Words.evictGraceExpiry (x0) : Words.Statement (.evictGraceExpiry x0) := words_none _ rfl
theorem Words.evictionSave (x0) : Words.Statement (.evictionSave x0) := words_none _ rfl
theorem Words.readmission (x0 x1 x2) : Words.Statement (.readmission x0 x1 x2) := words_none _ rfl
theorem Words.engineResume (x0 x1) : Words.Statement (.engineResume x0 x1) := words_none _ rfl
theorem Words.textStoreRewrite (x0 x1 x2 x3) : Words.Statement (.textStoreRewrite x0 x1 x2 x3) := words_none _ rfl
theorem Words.engineWedge (x0 x1) : Words.Statement (.engineWedge x0 x1) := words_none _ rfl
theorem Words.scrubLine (x0 x1) : Words.Statement (.scrubLine x0 x1) := words_none _ rfl
theorem Words.memstatWrite (x0 x1) : Words.Statement (.memstatWrite x0 x1) := words_none _ rfl
theorem Words.bankDrop (x0 x1) : Words.Statement (.bankDrop x0 x1) := words_none _ rfl
theorem Words.migwmWrite (x0 x1) : Words.Statement (.migwmWrite x0 x1) := words_none _ rfl
theorem Words.migrationLineCopy (x0) : Words.Statement (.migrationLineCopy x0) := words_none _ rfl
theorem Words.hostMemoryAccess (x0 x1 x2 x3) : Words.Statement (.hostMemoryAccess x0 x1 x2 x3) := words_none _ rfl
theorem Words.hostBudgetRefill : Words.Statement (.hostBudgetRefill) := words_none _ rfl
theorem Words.hostLinkRequest (x0 x1 x2) : Words.Statement (.hostLinkRequest x0 x1 x2) := words_none _ rfl
theorem Words.pgrespRetry (x0) : Words.Statement (.pgrespRetry x0) := words_none _ rfl
theorem Words.pgrespRefuse (x0) : Words.Statement (.pgrespRefuse x0) := words_none _ rfl
theorem Words.pgrespCancel (x0) : Words.Statement (.pgrespCancel x0) := words_none _ rfl
theorem Words.notify (x0) : Words.Statement (.notify x0) := words_none _ rfl
theorem Words.eventDispatch : Words.Statement (.eventDispatch) := words_none _ rfl
theorem Words.statusRead (x0) : Words.Statement (.statusRead x0) := words_none _ rfl
theorem Words.ftailWrite (x0 x1) : Words.Statement (.ftailWrite x0 x1) := words_none _ rfl
theorem Words.s2inv (x0) : Words.Statement (.s2inv x0) := words_none _ rfl
theorem Words.fqWrite (x0 x1 x2) : Words.Statement (.fqWrite x0 x1 x2) := words_none _ rfl
theorem Words.registerWrite (x0 x1) : Words.Statement (.registerWrite x0 x1) := words_none _ rfl
theorem Words.launch (x0) : Words.Statement (.launch x0) := words_none _ rfl
theorem Words.ib (x0 x1) : Words.Statement (.ib x0 x1) := words_none _ rfl
theorem Words.waitmem (x0 x1 x2 x3) : Words.Statement (.waitmem x0 x1 x2 x3) := words_none _ rfl
theorem Words.waitmemRetry (x0) : Words.Statement (.waitmemRetry x0) := words_none _ rfl
theorem Words.packetRepeat (x0 x1) : Words.Statement (.packetRepeat x0 x1) := words_none _ rfl
theorem Words.ffence : Words.Statement (.ffence) := words_none _ rfl
theorem Words.signal (x0 x1 x2 x3) : Words.Statement (.signal x0 x1 x2 x3) := words_none _ rfl
theorem Words.cancel (x0 x1) : Words.Statement (.cancel x0 x1) := words_none _ rfl
theorem Words.rephase (x0 x1 x2 x3) : Words.Statement (.rephase x0 x1 x2 x3) := words_none _ rfl
theorem Words.evict (x0 x1 x2 x3) : Words.Statement (.evict x0 x1 x2 x3) := words_none _ rfl
theorem Words.resume (x0 x1) : Words.Statement (.resume x0 x1) := words_none _ rfl
theorem Words.resync (x0 x1) : Words.Statement (.resync x0 x1) := words_none _ rfl
theorem Words.mgmtResync : Words.Statement (.mgmtResync) := words_none _ rfl
theorem Words.layoutRead : Words.Statement (.layoutRead) := words_none _ rfl
theorem Words.layoutCommit (x0) : Words.Statement (.layoutCommit x0) := words_none _ rfl
theorem Words.powerSet (x0) : Words.Statement (.powerSet x0) := words_none _ rfl
theorem Words.test (x0) : Words.Statement (.test x0) := words_none _ rfl
theorem Words.reset : Words.Statement (.reset) := words_none _ rfl
theorem Words.watchdogReset : Words.Statement (.watchdogReset) := words_none _ rfl
theorem Words.spdmMeasurements : Words.Statement (.spdmMeasurements) := words_none _ rfl
theorem Words.pldmSensorRead : Words.Statement (.pldmSensorRead) := words_none _ rfl
theorem Words.overtemp100 : Words.Statement (.overtemp100) := words_none _ rfl
theorem Words.tempRecover95 : Words.Statement (.tempRecover95) := words_none _ rfl
theorem Words.overtemp110 : Words.Statement (.overtemp110) := words_none _ rfl
theorem Words.inFieldTestPass (x0) : Words.Statement (.inFieldTestPass x0) := words_none _ rfl

end Sys2Proof.Laws
end

