-- ==== Sys2Proof/Laws/Step.lean ====
section
/-! SUPPORT. What the shared operations can do: every instruction and every step goes on; a pending result, a change of the
agent whose word issues, a stall and a static-stream fault in the terms of Safety. -/

namespace Sys2Proof.Machine

open Sys2Proof

/-! ## Every instruction, and every step, goes on -/

theorem exec_next (i : Instr) (s : State) : ∃ t, exec i s = .next t := by
  cases i
  all_goals exact ⟨_, rfl⟩

theorem step_next (s : State) : ∃ t, step s = .next t := by
  unfold step
  split
  · exact ⟨_, rfl⟩
  · exact exec_next _ _

/-! ## The agent whose word issues -/

theorem State.strand_setMe (s : State) (a : Agent) (k : StrandKey) : (s.setMe a).strand k = s.strand k := rfl

theorem State.myStrand_setMe (s : State) (a : Agent) : (s.setMe a).myStrand = s.myStrand := rfl

theorem onlyMe_setMe (s : State) (a : Agent) : onlyMe s (s.setMe a) :=
  ⟨rfl, fun _ h => State.agent_setMe_ne s a h⟩

theorem onlyMe_setSqr (s : State) (q : Sqr) : onlyMe s (s.setSqr q) := onlyMe_setMe s _

theorem State.me_setSqr (s : State) (q : Sqr) : (s.setSqr q).me = { s.me with sqr := q } := State.me_setMe ..

theorem pends_pend (s : State) (p : Pend) : pends s (s.pend p) [p] :=
  ⟨onlyMe_setSqr s _, State.me_setSqr s _⟩

theorem onlyMe_refl (s : State) : onlyMe s s := ⟨rfl, fun _ _ => rfl⟩

theorem onlyStrand_setStrand (s : State) (k : StrandKey) (x : Strand) : onlyStrand k s (s.setStrand k x) :=
  ⟨rfl, fun _ h => State.strand_setStrand_ne s x h⟩

theorem onlyPart_setPart (s : State) (p : Nat) (x : Part) : onlyPart p s (s.setPart p x) :=
  ⟨rfl, fun _ h => State.part_setPart_ne s x h⟩

theorem onlyVcp_setVcp (s : State) (v : Nat) (x : Vcp) : onlyVcp v s (s.setVcp v x) :=
  ⟨rfl, fun _ h => State.vcp_setVcp_ne s x h⟩

/-! ## A stall (R25, R245) -/

theorem stalls_stall (s : State) (h : s.myStrand.st ≠ .frozen) : stalls s s.stall := by
  simp only [stalls, State.stall, h, if_false]
  exact ⟨onlyStrand_setStrand s _ _, State.strand_setStrand s _ _⟩

/-! ## Records (R299, R325) -/

theorem State.putHostWords_eq (s : State) (a n v : Nat) : s.putHostWords a n v = { s with host := (s.putHostWords a n v).host } :=
  by
    unfold State.putHostWords
    generalize List.range n = l
    induction l generalizing s with
    | nil => rfl
    | cons i l ih => rw [List.foldl_cons, ih]; rfl

/-- What a record on its way to a ring can change: host memory, the VCPs, and the host-link requests of partitions. -/
def linkOnly (s t : State) : Prop := t = { s with host := t.host, vcps := t.vcps, parts := t.parts } ∧ sameParts s t

theorem linkOnly.refl (s : State) : linkOnly s s := ⟨rfl, fun _ => rfl⟩

theorem linkOnly.trans {s t u : State} (h : linkOnly s t) (g : linkOnly t u) : linkOnly s u :=
  ⟨by rw [g.1, h.1], fun p => by rw [g.2 p, h.2 p]⟩

theorem linkOnly_setVcp (s : State) (v : Nat) (x : Vcp) : linkOnly s (s.setVcp v x) := ⟨rfl, fun _ => rfl⟩

theorem linkOnly_putHostWords (s : State) (a n v : Nat) : linkOnly s (s.putHostWords a n v) := by
  rw [State.putHostWords_eq]
  generalize (s.putHostWords a n v).host = h
  exact ⟨rfl, fun _ => rfl⟩

/-- A change of the host-link requests of a partition. -/
theorem linkOnly_setPart (s : State) (p : Nat) (x : Part) (h : x = { s.part p with rd := x.rd, wrq := x.wrq, ats := x.ats }) :
    linkOnly s (s.setPart p x) := by
  refine ⟨rfl, fun q => ?_⟩
  by_cases hq : q = p
  · subst hq; rw [State.part_setPart]; exact h
  · rw [State.part_setPart_ne s x hq]

theorem linkOnly_owe (s : State) (v : Nat) : linkOnly s (s.owe v) := linkOnly_setPart s _ _ rfl

theorem linkOnly_ringRec (s : State) (v : Nat) (r : FaultRec) : linkOnly s (s.ringRec v r) :=
  ((linkOnly_putHostWords s _ _ _).trans (linkOnly_setVcp _ _ _)).trans (linkOnly_owe _ _)

theorem linkOnly_dropRec (s : State) (v : Nat) : linkOnly s (s.dropRec v) := (linkOnly_setVcp ..).trans (linkOnly_owe _ _)

theorem linkOnly_askSent (s : State) (v era : Nat) : linkOnly s (s.askSent v era) := by
  unfold State.askSent
  dsimp only
  split
  · exact linkOnly.refl s
  · exact linkOnly_setVcp ..

theorem linkOnly_createQueue (s : State) (n : Nat) (q : Word) : linkOnly s (s.createQueue n q) := linkOnly_setVcp ..

theorem linkOnly_drainReads (n : Nat) : ∀ (s : State) (p : Nat), linkOnly s (s.drainReads p n) := by
  induction n with
  | zero => intro s p; exact linkOnly.refl s
  | succ n ih =>
    intro s p
    unfold State.drainReads
    dsimp only
    have go : ∀ q : LinkQ, linkOnly s (s.setPart p { s.part p with rd := q }) := fun q => linkOnly_setPart s p _ rfl
    split
    · exact linkOnly.refl s
    · split
      · refine linkOnly.trans ?_ (ih _ _)
        split
        · exact (go _).trans (linkOnly_askSent _ _ _)
        · exact (go _).trans (linkOnly_createQueue _ _ _)
        · exact go _
      · exact linkOnly.refl s

theorem linkOnly_pushRead (s : State) (p c : Nat) (e : Option Errand) : linkOnly s (s.pushRead p c e) :=
  (linkOnly_setPart s p _ rfl).trans (linkOnly_drainReads _ _ _)

theorem linkOnly_drainWrites (n : Nat) : ∀ (s : State) (p : Nat), linkOnly s (s.drainWrites p n) := by
  induction n with
  | zero => intro s p; exact linkOnly.refl s
  | succ n ih =>
    intro s p
    unfold State.drainWrites
    dsimp only
    have go : ∀ q : LinkQ, linkOnly s (s.setPart p { s.part p with wrq := q }) := fun q => linkOnly_setPart s p _ rfl
    split
    · exact linkOnly.refl s
    · split
      · exact (go _).trans (ih _ _)
      · split
        · exact ((go _).trans (linkOnly_dropRec _ _)).trans (ih _ _)
        · split
          · exact ((go _).trans (linkOnly_ringRec _ _ _)).trans (ih _ _)
          · exact linkOnly.refl s
    · split
      · exact (go _).trans (ih _ _)
      · exact linkOnly.refl s

theorem linkOnly_flushWrites (s : State) (p : Nat) : linkOnly s (s.flushWrites p) := linkOnly_drainWrites _ _ _

theorem linkOnly_pushWrite (s : State) (p c : Nat) (e : Option Errand) : linkOnly s (s.pushWrite p c e) :=
  (linkOnly_setPart s p _ rfl).trans (linkOnly_flushWrites _ _)

theorem linkOnly_pageWrite (s : State) (v : Nat) : linkOnly s (s.pageWrite v) := linkOnly_pushWrite _ _ _ _

theorem linkOnly_createReads (s : State) (p v : Nat) (q : Word) : linkOnly s (s.createReads p v q) :=
  (linkOnly_pushRead _ _ _ _).trans (linkOnly_pushRead _ _ _ _)

theorem linkOnly_drainAts (n : Nat) : ∀ (s : State) (p : Nat), linkOnly s (s.drainAts p n) := by
  induction n with
  | zero => intro s p; exact linkOnly.refl s
  | succ n ih =>
    intro s p
    unfold State.drainAts
    dsimp only
    have go : ∀ q : LinkQ, linkOnly s (s.setPart p { s.part p with ats := q }) := fun q => linkOnly_setPart s p _ rfl
    split
    · exact linkOnly.refl s
    · split
      · refine linkOnly.trans ?_ (ih _ _)
        split
        · exact (go _).trans (linkOnly_pushWrite _ _ _ _)
        · exact (go _).trans (linkOnly_pushRead _ _ _ _)
        · exact (go _).trans (linkOnly_createReads _ _ _ _)
        · exact go _
      · exact linkOnly.refl s

theorem linkOnly_pushAts (s : State) (p c : Nat) (e : Option Errand) : linkOnly s (s.pushAts p c e) :=
  (linkOnly_setPart s p _ rfl).trans (linkOnly_drainAts _ _ _)

/-- A record goes to the ring of a VCP, waits for its request to leave, or is counted or dropped; nothing else of the machine differs
(R255, R299, R325). -/
theorem linkOnly_postAs (s : State) (v era : Nat) (r : FaultRec) : linkOnly s (s.postAs v era r) := by
  unfold State.postAs
  dsimp only
  split
  · exact linkOnly.refl s
  · split
    · exact (linkOnly_dropRec _ _).trans (linkOnly_flushWrites _ _)
    · split
      · exact linkOnly_pushAts _ _ _ _
      · exact linkOnly_pushWrite _ _ _ _

theorem State.postAs_eq (s : State) (v era : Nat) (r : FaultRec) : s.postAs v era r =
    { s with host := (s.postAs v era r).host, vcps := (s.postAs v era r).vcps, parts := (s.postAs v era r).parts } :=
  (linkOnly_postAs s v era r).1

theorem State.strand_postAs (s : State) (v era : Nat) (r : FaultRec) (k : StrandKey) : (s.postAs v era r).strand k = s.strand k := by
  rw [State.postAs_eq]; rfl

theorem State.agent_postAs (s : State) (v era : Nat) (r : FaultRec) (k : AgentKey) : (s.postAs v era r).agent k = s.agent k := by
  rw [State.postAs_eq]; rfl

/-- Where the queue is the one that the record is for, its ring takes a record, no translation is needed and the write budget lasts, the
record is written at once, and the write of the page's fhead follows (R255, R299). -/
theorem State.postAs_now (s : State) (v era : Nat) (r : FaultRec) (hc : (s.vcp v).created = true) (he : (s.vcp v).era = era)
    (ho : (s.vcp v).ringOpen = true) (ha : s.needsAts (s.vcp v).fring.toNat = false)
    (hq : (s.part (s.vcp v).part.toNat).ats.wait = []) (hw : (s.part (s.vcp v).part.toNat).wrq.wait = [])
    (hb : 0 < (s.part (s.vcp v).part.toNat).wrq.bal) :
    s.postAs v era r = ((s.setPart (s.vcp v).part.toNat { s.part (s.vcp v).part.toNat with
      wrq := ⟨(s.part (s.vcp v).part.toNat).wrq.bal - 1, [], (s.part (s.vcp v).part.toNat).wrq.sent + 1⟩ }).ringRec v r).drainWrites
        (s.vcp v).part.toNat 1 := by
  have e : ∀ (t : State) (p : Nat) (x : Part), (t.setPart p x).vcp v = t.vcp v := fun _ _ _ => rfl
  have d : ∀ (t : State) (p : Nat) (x y : Part), (t.setPart p x).setPart p y = t.setPart p y := by
    intro t p x y
    simp only [State.setPart]
    congr 1
    induction t.parts with
    | nil => simp [KV.put]
    | cons c l ih => obtain ⟨k, w⟩ := c; by_cases hk : k = p <;> simp [KV.put, hk, ih]
  rw [State.postAs]
  simp only [hc, he, ho, ha, hq, List.any_nil, Bool.not_true, bne_self_eq_false, Bool.or_self, Bool.false_eq_true, if_false]
  rw [State.pushWrite, State.flushWrites]
  simp only [hw, State.part_setPart, List.nil_append, List.length_singleton]
  rw [State.drainWrites]
  simp [State.part_setPart, e, hb, LinkQ.send, d, hc, he, ho]

theorem State.strand_record (s : State) (k : StrandKey) (r : FaultRec) :
    (s.record k r).strand k = { s.strand k with recs := (s.strand k).recs ++ [r] } := by
  simp only [State.record, State.strand_postAs, State.strand_setStrand]

theorem State.strand_record_ne (s : State) {k j : StrandKey} (r : FaultRec) (h : j ≠ k) : (s.record k r).strand j = s.strand j := by
  simp only [State.record, State.strand_postAs, State.strand_setStrand_ne s _ h]

theorem State.agent_record (s : State) (k : StrandKey) (r : FaultRec) (j : AgentKey) : (s.record k r).agent j = s.agent j := by
  simp only [State.record, State.agent_postAs]; rfl

theorem State.record_eq (s : State) (k : StrandKey) (r : FaultRec) :
    s.record k r = { s with
      strands := (s.record k r).strands, host := (s.record k r).host, vcps := (s.record k r).vcps, parts := (s.record k r).parts } := by
  simp only [State.record]
  rw [State.postAs_eq]
  rfl

theorem State.sameParts_record (s : State) (k : StrandKey) (r : FaultRec) : sameParts s (s.record k r) :=
  (linkOnly_postAs (s.setStrand k _) _ _ r).2

/-! ## A static-stream fault (R32, R284, R287) -/

/-- A fault after one is taken does nothing more in its strand cycle. -/
theorem raise_of_bad (s : State) (idx kind cause : Nat) (op0 op1 : Word) (aux : Nat) (h : s.sqr.bad = true) :
    s.raise idx kind cause op0 op1 aux = s := by simp [State.raise, h]

/-- What a check that fails takes: the fault and the operands of its record (R287). -/
theorem raise_eq (s : State) (idx kind cause : Nat) (op0 op1 : Word) (aux : Nat) (h : s.sqr.bad = false) :
    ∃ a b c, s.raise idx kind cause op0 op1 aux = ((s.setSqr { s.sqr with bad := true }).record s.cur.sk
      (s.faultRec idx (faultOf s kind cause).1 (faultOf s kind cause).2 a b c)).freezeStrand s.cur.sk (faultOf s kind cause).1
        (faultOf s kind cause).2 := by
  unfold State.raise faultOf
  rw [h]
  cases hl : s.sqr.late with
  | none => exact ⟨op0, op1, aux, by simp⟩
  | some l =>
    cases l with
    | order T =>
      by_cases hk : 2 < kind
      · exact ⟨bv 64 T, 0, 0, by simp [hk]⟩
      · exact ⟨op0, op1, aux, by simp [hk]⟩
    | overrun b i =>
      by_cases hk : 3 < kind
      · exact ⟨bv 64 b, bv 64 i, 0, by simp [hk]⟩
      · exact ⟨op0, op1, aux, by simp [hk]⟩

theorem faults_raise (s : State) (idx kind cause : Nat) (op0 op1 : Word) (aux : Nat) (h : s.sqr.bad = false)
    (hk : kind < 16) (hc : cause < 256) : faults s (s.raise idx kind cause op0 op1 aux) idx kind cause := by
  obtain ⟨a, b, c, e⟩ := raise_eq s idx kind cause op0 op1 aux h
  have hk' : (faultOf s kind cause).1 < 16 := by unfold faultOf; split <;> (try split) <;> simp_all
  have hc' : (faultOf s kind cause).2 < 256 := by unfold faultOf; split <;> (try split) <;> simp_all
  rw [e]
  unfold faults
  generalize hf : faultOf s kind cause = f at hk' hc' ⊢
  obtain ⟨kind', cause'⟩ := f
  dsimp only at hk' hc' ⊢
  generalize hr : s.faultRec idx kind' cause' a b c = r
  have hme : ∀ k, (((s.setSqr { s.sqr with bad := true }).record s.cur.sk r).freezeStrand s.cur.sk kind' cause').agent k =
      (s.setSqr { s.sqr with bad := true }).agent k := fun k => State.agent_record ..
  have hcur : (((s.setSqr { s.sqr with bad := true }).record s.cur.sk r).freezeStrand s.cur.sk kind' cause').cur = s.cur := by
    unfold State.freezeStrand; dsimp only; rw [State.record_eq]; rfl
  have hst : (((s.setSqr { s.sqr with bad := true }).record s.cur.sk r).freezeStrand s.cur.sk kind' cause').strand s.cur.sk =
      { s.myStrand with recs := s.myStrand.recs ++ [r], st := .frozen, freeze := some (kind', cause'), timer := false } := by
    simp only [State.freezeStrand, State.strand_setStrand, State.strand_record]; rfl
  refine ⟨?_, ?_, ?_, ?_, ?_, ?_, hcur, ?_, ?_, ?_, r, ?_, ?_⟩
  · intro k hk; rw [hme]; exact State.agent_setMe_ne s _ hk
  · rw [State.me, hcur, hme]; exact State.me_setSqr s _
  · intro k hk
    simp only [State.freezeStrand]
    rw [State.strand_setStrand_ne _ _ hk, State.strand_record_ne _ _ hk]
    rfl
  · unfold State.freezeStrand; dsimp only; rw [State.record_eq]; rfl
  · unfold State.freezeStrand; dsimp only; rw [State.record_eq]; rfl
  · exact State.sameParts_record (s.setSqr { s.sqr with bad := true }) s.cur.sk r
  · rw [State.myStrand, hcur, hst]
  · rw [State.myStrand, hcur, hst]
  · rw [State.myStrand, hcur, hst]
  · rw [State.myStrand, hcur, hst]
  subst hr
  simp only [State.faultRec, State.recForAgent, State.recFor, bv, BitVec.toNat_ofNat, Nat.mod_eq_of_lt hk', Nat.mod_eq_of_lt hc']
  exact ⟨trivial, trivial, trivial, rfl, rfl, rfl, trivial⟩

/-! ## Words that enter the pipe (R20, R57) -/

theorem checked_none (s : State) (k : State → State) : s.checked none k = k s := rfl

theorem piped_pipeWord (s : State) (i : Instr) (g : Guard) (x : Word) :
    ∃ w, piped s (s.pipeWord i g x) g w ∧ w.ins = i ∧ w.x = x ∧ w.rowsz = s.sqr.rowsz :=
  ⟨_, ⟨onlyMe_setMe s _, State.me_setMe s _, rfl, rfl, rfl, rfl⟩, rfl, rfl, rfl⟩

theorem piped_issueCore (s : State) (i : Instr) (g : Guard) (vs : List Viol) (x : Word) (h : firstViol vs = none) :
    ∃ w, piped s (s.issueCore i g vs x) g w ∧ w.ins = i ∧ w.x = x := by
  obtain ⟨w, hp, hi, hx, -⟩ := piped_pipeWord s i g x
  exact ⟨w, by rw [State.issueCore, h, checked_none]; exact hp, hi, hx⟩

theorem piped_issueMatrix (s : State) (i : Instr) (g : Guard) (vs : List Viol) (h : firstViol vs = none)
    (hm : s.myStrand.mat = true) : ∃ w, piped s (s.issueMatrix i g vs) g w ∧ w.ins = i := by
  obtain ⟨w, hp, hi, -⟩ := piped_pipeWord s i g 0
  exact ⟨w, by rw [State.issueMatrix, h, checked_none, if_pos hm]; exact hp, hi⟩

/-! ## Values and commands of the engines (R28, R168–R170) -/

/-- A free choice is an element of its list. -/
theorem choose_mem {α : Type} (key : List Nat) (d a : α) (l : List α) : choose key d (a :: l) ∈ a :: l := by
  have h : Config.pick key % (a :: l).length < (a :: l).length := Nat.mod_lt _ (by simp)
  rw [choose, List.getD_eq_getElem?_getD, List.getElem?_eq_getElem h, Option.getD_some]
  exact List.getElem_mem h

/-- What a word samples from an agent register is a value it may read. -/
theorem aMay_arAny (a : Agent) (key : Nat) (r : BitVec 4) : aMay a r (a.arAny key r) := by
  rcases List.mem_cons.mp (choose_mem [4, key, r.toNat] (0 : Word) (a.ar r)
    ((a.aAlt.filter (fun e => e.reg = r)).filterMap (·.written))) with h | h
  · exact Or.inl h
  · obtain ⟨e, he, hv⟩ := List.mem_filterMap.mp h
    rw [List.mem_filter, decide_eq_true_eq] at he
    exact Or.inr ⟨e, he.1, he.2, hv⟩

theorem aMay_arS (s : State) (r : BitVec 4) : aMay s.me r (s.arS r) := aMay_arAny ..

theorem me_issueA (s : State) (c : ACmd) : (s.issueA c).me = { s.me with seqA := s.me.seqA + 1, acmds := s.me.acmds ++ [c] } :=
  State.me_setMe ..

theorem onlyMe_issueA (s : State) (c : ACmd) : onlyMe s (s.issueA c) :=
  ⟨rfl, fun _ h => State.agent_setMe_ne s.draw.2 _ h⟩

theorem me_issueX (s : State) (c : XCmd) : (s.issueX c).me = { s.me with seqX := s.me.seqX + 1, xcmds := s.me.xcmds ++ [c] } :=
  State.me_setMe ..

theorem onlyMe_issueX (s : State) (c : XCmd) : onlyMe s (s.issueX c) :=
  ⟨rfl, fun _ h => State.agent_setMe_ne s.draw.2 _ h⟩

/-! ## Work of the front end: what noting it leaves -/

theorem State.setWork_work (s : State) (v : Nat) (w : Option Work) : ((s.setWork v w).vcp v).work = w :=
  congrArg Vcp.work (State.vcp_setVcp ..)

theorem onlyVcp_setWork (s : State) (v : Nat) (w : Option Work) : onlyVcp v s (s.setWork v w) := onlyVcp_setVcp ..

@[simp] theorem State.setWork_mem (s : State) (v : Nat) (w : Option Work) : (s.setWork v w).mem = s.mem := rfl
@[simp] theorem State.setWork_strands (s : State) (v : Nat) (w : Option Work) : (s.setWork v w).strands = s.strands := rfl
@[simp] theorem State.setWork_agents (s : State) (v : Nat) (w : Option Work) : (s.setWork v w).agents = s.agents := rfl
@[simp] theorem State.setWork_fab (s : State) (v : Nat) (w : Option Work) : (s.setWork v w).fab = s.fab := rfl

/-- Work that is under way for another instruction counts as none (R209). -/
theorem workOn_ne (w : Work) (i : Instr) (h : w.ins ≠ i) : workOn (some w) i = workOn none i := if_neg h

theorem workOn_self (w : Work) : workOn (some w) w.ins = w := if_pos rfl

end Sys2Proof.Machine
end

