-- ==== Sys2Proof/Tests/Slice0.lean ====
section
/-! SUPPORT. The model's own tests: an ill-formed term for each check of WellFormed, which the check refuses; words written out
from the spec's encodings; single instructions and worked examples of the spec; and, for every statement with hypotheses, a
concrete state and operands that meet them, clause by clause. -/

namespace Sys2Proof.Tests

open Sys2Proof Sys2Proof.Machine

set_option Elab.async false

/-! ## WellFormed refuses -/

/-- A guard that always holds. -/
def g0 : Guard := ⟨false, 0⟩

/-- An atomic that is well-formed. -/
def atom0 : Atom := ⟨0, 1, 4, 6, true, .w64, false, false, false, false⟩

/-- An X1 word that is well-formed: 2,048 bytes. -/
def xmsg0 : Xmsg := ⟨2, 3, 4, 1, 32, false, 0, true, false⟩

/-- An A2 word's fields. -/
def xfer0 : Xfer := ⟨0, 2, 0, 0, 0, 0, false, false⟩

theorem test_wf_control :
    (Instr.br .always 1 2 0).check = some .notAccepted ∧ (Instr.br .always 1 0 0).check = none ∧
    (Instr.bq 14 .empty 0).check = some .reservedQueue ∧ (Instr.bq 6 .pois 0).check = some .notAccepted ∧
    (Instr.repeat_ 0 0 3 1 1).check = some .reservedValue ∧ (Instr.repeat_ 0 1 3 9 1).check = some .reservedValue ∧
    (Instr.repeat_ 0 1 3 1 0).check = some .reservedValue ∧ (Instr.repeat_ 2 1 3 1 1).check = some .reservedValue ∧
    (Instr.repeat_ 2 1 0 8 1).check = none := by decide

theorem test_wf_queues :
    (Instr.inj 4 true 0).check = some .notAccepted ∧ (Instr.inj 15 true 0).check = some .reservedQueue ∧
    (Instr.inj 0 true 1).check = some .notAccepted ∧ (Instr.cap 3 true 0).check = some .notAccepted ∧
    (Instr.popt 9 true 0).check = some .notAccepted ∧ (Instr.pusht 8 true 0).check = some .notAccepted ∧
    (Instr.qpop 8 true 2).check = some .notAccepted ∧ (Instr.qpop 6 false 3).check = some .notAccepted ∧
    (Instr.qpop 6 false 0).check = some .notAccepted ∧ (Instr.qpop 6 true 3).check = none ∧
    (Instr.qstat 14 1).check = some .reservedQueue ∧ (Instr.waittc false false 1 1).check = some .notAccepted ∧
    (Instr.rotset 1 33).check = some .notAccepted ∧ (Instr.getsys 1 10).check = some .notAccepted := by decide

theorem test_wf_core :
    (Instr.sshl g0 1 1 (.imm 32)).check = some .notAccepted ∧ (Instr.scmp g0 .lt 7 1 2).check = some .notAccepted ∧
    (Instr.pand g0 8 1 9).check = some .notAccepted ∧ (Instr.pnot g0 8 7).check = some .notAccepted ∧
    (Instr.vany g0 0 1).check = some .notAccepted ∧ (Instr.vcvt g0 .f32 .f32 .fpc false 1 2).check = some .notAccepted ∧
    (Instr.vcvt g0 .bf16 .i16 .fpc true 1 2).check = some .notAccepted ∧ (Instr.vcvt g0 .m8 .f32 .rne false 1 2).check = some .notAccepted ∧
    (Instr.vrsum g0 .f32 .fpc true 1 2).check = some .notAccepted ∧ (Instr.vrsum g0 .i32 .rne false 1 2).check = some .notAccepted ∧
    (Instr.vbcast g0 .f32 1 2 32).check = some .notAccepted ∧ (Instr.vbcast g0 .bf16 1 2 63).check = none ∧
    (Instr.mma g0 .i8 .acc false .largest 1 .lane 0 0).check = some .notAccepted ∧
    (Instr.vgetl g0 .f32 1 2).check = some .notAccepted ∧ (Instr.vputl g0 .bf16 3 1).check = some .notAccepted ∧
    (Instr.fldv g0 .m8 1 0 0).check = some .notAccepted := by decide

theorem test_wf_engines :
    (Instr.asetf 1 (some 0) 65536).check = some .notAccepted ∧ (Instr.tdesc 0 xfer0).check = some .notAccepted ∧
    (Instr.tdesc 1 { xfer0 with nm1 := 1 }).check = some .notAccepted ∧
    (Instr.atadd { atom0 with wid := .w128, aop := 3 }).check = some .reservedValue ∧
    (Instr.atadd { atom0 with ret := false }).check = some .notAccepted ∧
    (Instr.atcas { atom0 with wid := .w128, ad := 7 }).check = some .notAccepted ∧ (Instr.atfadd atom0).check = some .notAccepted ∧
    (Instr.arow 3 0 0 0 false).check = some .reservedValue ∧ (Instr.arow 4 48 0 0 false).check = some .reservedValue ∧
    (Instr.send { xmsg0 with len64 := 129 }).check = some .reservedValue ∧ (Instr.xrd { xmsg0 with mc := true }).check = some .notAccepted ∧
    (Instr.xat xmsg0).check = some .notAccepted ∧ (Instr.rate 1 17 2 false 1).check = some .reservedValue ∧
    (Instr.rate 1 4 2 false 0).check = some .reservedValue := by decide

/-! ## Decoding: words written out from the spec's encodings (R38–R47, R55, and the example of each instruction) -/

theorem test_decode_seq :
    decodeWords [0x0000_1000_0000_0000] = .ok (0, .halt, 1) ∧ decodeWords [0x0000_0800_0000_0000] = .ok (0, .start, 1) ∧
    decodeWords [0x0020_6000_6006_4003] = .ok (4, .repeat_ 0 3 3 2 3, 1) ∧ decodeWords [0x0001_A35C_0000_0000] = .ok (0, .qpop 6 true 7, 1) ∧
    decodeWords [0x0002_8A80_0000_0004] = .ok (0, .getsys 5 4, 1) ∧ decodeWords [0x0001_22A8_0000_0004] = .ok (0, .xshli 5 5 4, 1) ∧
    decodeWords [0x0001_3980_0000_0002] = .ok (0, .xli 3 2, 1) ∧ decodeWords [0x0002_4090_0000_0000] = .ok (0, .xtoa 1 2, 1) ∧
    decodeWords [0x0172_0830_0000_0000] = .ok (46, .waittc false false 3 0, 1) := ⟨rfl, rfl, rfl, rfl, rfl, rfl, rfl, rfl, rfl⟩

theorem test_decode_core :
    decodeWords [0x2000_680C_2000_0064] = .ok (0, .sli g0 3 (.imm 100), 1) ∧
    decodeWords [0x200A_8000_400C_1000] = .ok (1, .vcvt g0 .f32 .i32 .fpc false 4 3, 1) ∧
    decodeWords [0x2003_1001_C063_F000] = .ok (0, .vfmhi 0 7 6 0x3F000, 1) ∧ decodeWords [0x2003_4000_4000_0005] = .ok (0, .vli 0 1 5, 1) ∧
    decodeWords [0x2019_2800_7018_0080, 0xE000_0000_3E2A_AAAB] = .ok (3, .vfmh g0 .f32 .fpc 7 6 (.lit 0x3E2A_AAAB), 2) ∧
    decodeWords [0x2019_3A40_4010_0080, 0xE000_0000_0000_0000] = .ok (3, .vmax ⟨false, 9⟩ .f32 .fpc 4 4 (.lit 0), 2) :=
  ⟨rfl, rfl, rfl, rfl, rfl, rfl⟩

theorem test_decode_matrix :
    decodeWords [0x2014_0004_0000_0100] = .ok (2, .mma g0 .m8 .ovw false .table 2 .lane 0 0, 1) ∧
    decodeWords [0x2004_0006_8900_8800] = .ok (0, .mma g0 .bf16 .acc false .table 3 (.tile 2) 4 8, 1) ∧
    decodeWords [0x2004_080E_0000_0000] = .ok (0, .mzero g0 7, 1) ∧ decodeWords [0x2004_100A_0800_0000] = .ok (0, .mtrn g0 5 2, 1) ∧
    decodeWords [0x2004_A008_0302_0020] = .ok (0, .fldm g0 .m8 4 3 64, 1) ∧
    decodeWords [0x2004_8800_C000_0520] = .ok (0, .vputl g0 .m8 5 12, 1) := ⟨rfl, rfl, rfl, rfl, rfl, rfl⟩

theorem test_decode_engines :
    decodeWords [0x4189_425E_0080_0000] = .ok (49, .arow 4 47 1 0 false, 1) ∧
    decodeWords [0x4001_000A_3600_0000] = .ok (0, .atadd ⟨0, 1, 4, 6, true, .w128, false, false, false, false⟩, 1) ∧
    decodeWords [0x4000_8008_8000_0002] = .ok (0, .feed 0 ⟨1, 1, 0, 0, 0, 0, true, false⟩, 1) ∧
    decodeWords [0x4020_B001_0000_0010] = .ok (4, .kbld 0 1 xfer0, 1) ∧
    decodeWords [0x4000_A991_0000_0010] = .ok (0, .tst 3 1 { xfer0 with td := 2 }, 1) ∧
    decodeWords [0x6001_0121_0640_0000] = .ok (0, .rate 1 4 2 false 100, 1) ∧
    decodeWords [0x6000_011A_1200_C000] = .ok (0, .send { xmsg0 with mc := true }, 1) := ⟨rfl, rfl, rfl, rfl, rfl, rfl, rfl⟩

/-- Reserved encodings are refused by name (R56): the reserved engine, an unassigned opcode, a nonzero zero range, a LIT word that
no instruction owns. -/
theorem test_decode_refuses :
    decodeWords [0x8000_0000_0000_0000] = .error .reservedEngine ∧ decodeWords [0x0000_7000_0000_0000] = .error .unassignedOpcode ∧
    decodeWords [0x0000_1000_0000_0001] = .error .zeroRange ∧ decodeWords [0xE000_0000_0000_0000] = .error .literalMisuse :=
  ⟨rfl, rfl, rfl, rfl⟩

/-! ## Numbers: the worked examples of spec/04 -/

/-- FP32 values of the bits of a list. -/
def f32s (l : List Nat) : List Fp := l.map (fpUnpack 23)

/-- The block of the example after R99: 3.0, −0.7, 0.0234375, 1.625 × 2^−14, 2.0625, 2^−47, −0 and 25 zeros. -/
theorem test_m8_block :
    let b := convertBlock .largest (f32s ([0x40400000, 0xBF333333, 0x3CC00000, 0x38D00000, 0x40040000, 0x28000000, 0x80000000] ++
      List.replicate 25 0))
    b.codes.take 8 = [0x78, 0xD6, 0x24, 0x09, 0x70, 0, 0, 0] ∧ b.scale = 1 ∧ b.pois = false ∧ b.fl = fIx ||| fUf := by decide

/-- A block whose maximum is 7.9 takes the scale 3 and stores 8.0 as 0x70 (example after R99). -/
theorem test_m8_scale_up : (convertBlock .largest (f32s [0x40FCCCCD])).codes = [0x70] ∧
    (convertBlock .largest (f32s [0x40FCCCCD])).scale = 3 := by decide

/-- 0x5A is 0.40625 (example after R96): 13 / 32. -/
theorem test_m8_value : (match m8Fp 0x5A 0 with
    | .fin false m e => decide (0 ≤ e + 8 ∧ m * 2 ^ (e + 8).toNat = 104)
    | _ => false) = true := by decide

/-- 2^24 + 1.0 ties to 2^24 with ix (example of R107). -/
theorem test_sum_ties_to_even : fpAdd 23 ⟨.rne, false, .infinity⟩ (fpUnpack 23 0x4B800000) (fpUnpack 23 0x3F800000) =
    ⟨0x4B800000, fIx, false⟩ := by decide

/-- VFXF of 2^24 + 48 under RNE (example of R107). -/
theorem test_fx_to_f32 : (fxToF32 .rne ((2 ^ 24 + 48) * 2 ^ 64)).bits = 0x4B800018 := by decide

/-- 5/2 and 7/2 under the five modes (R92). -/
theorem test_rounding_modes : (roundShift .rne false 5 1).1 = 2 ∧ (roundShift .rna false 5 1).1 = 3 ∧ (roundShift .rup true 5 1).1 = 2 ∧
    (roundShift .rdn true 5 1).1 = 3 ∧ (roundShift .rtz false 7 1).1 = 3 := by decide

/-! ## Tiles, codes and placement: the worked examples of spec/13, 16 and 14 -/

/-- A tiled FP32 tensor of 8 × 4 × 1 × 1 tiles. -/
def tensor (lay : Nat) : Desc := bv 512 (1 + lay * 2 ^ 37 + 8 * 2 ^ 64 + 4 * 2 ^ 80 + 2 ^ 96 + 2 ^ 112 + 0x1200 * 2 ^ 128)

/-- Tile numbers of (3, 2, 0, 0) (R226). -/
theorem test_tile_numbers : (List.range 4).map (fun l => tileNumber (tensor l) 0x2_0003) = [19, 14, 13, 11] := by decide +kernel

theorem test_tensor_ok : (List.range 4).all (fun l => dOk (tensor l)) = true := by decide +kernel

/-- a[1][1] = 0x37 (R266), and P0, P1 of D0 = 0x12, D1 = 0x05 (example after R267). -/
theorem test_parity : codeCoef 1 1 = 0x37 ∧ gfMul 0x37 0x05 = 0xEB ∧ (0x12 : Byte) ^^^ gfMul 0x37 0x05 = 0xF9 ∧
    gfMul 0xEE (gfInv 0x36) = 0x05 := by decide +kernel

/-- Two halted strands at (4,1) and (4,2) leave no phase of stride 2 (R252). -/
theorem test_collisions : collide (2, 0) (4, 2) = true ∧ collide (2, 1) (4, 1) = true ∧ collide (2, 0) (4, 1) = false := by decide +kernel

/-- Strands 0 at (4,0) and 1 at (4,1) and a newcomer at (2,1): strand 1 moves to (4,2) (example after R252). -/
theorem test_repack :
    let x := fun (p : BitVec 4) => { Strand.absent with st := .running, scode := 2, phase := p }
    repack [(0, x 0), (1, x 1)] (2, 1) = some [(none, (2, 1)), (some 0, (4, 0)), (some 1, (4, 2))] := by decide

/-! ## Single steps on a small state -/

/-- Strand 0 of partition 0. -/
def k0 : StrandKey := ⟨0, 0⟩

/-- Its agent at row 0. -/
def a0 : AgentKey := ⟨0, 0, 0⟩

/-- Partition 0 with quad 0 and channel group 0. -/
def lay0 : LayoutEntry := { LayoutEntry.zero with v := true, qmask := 1, cgmask := 1, ebud := 100, hrd := 8, hwr := 8, hats := 4 }

/-- A running strand: 64 rows, 256 units, 16 constants, 1,000 words of text, with the matrix attribute. -/
def x0 : Strand := { Strand.absent with
  st := .running, scode := 4, mat := true, l := { Launch.zero with nrows := 64, nunits := 256, nkb := 16, tlen := 1000 } }

/-- One running strand on the four rows of quad 0. -/
def s0 : State := { State.reset with parts := [(0, { Part.init with lay := lay0 })], strands := [(k0, x0)] }

/-- The state with its agent changed. -/
def agt (f : Agent → Agent) : State := s0.setAgent a0 (f Agent.init)

/-- The state with its agent's sequencer changed. -/
def sq (f : Sqr → Sqr) : State := agt (fun a => { a with sqr := f a.sqr })

/-- The state with its strand changed. -/
def str (f : Strand → Strand) : State := s0.setStrand k0 (f x0)

/-- x1 and x2 hold values. -/
def xs (v w : Word) : State := sq (fun q => { q with x := (q.x.set 1 v).set 2 w })

/-- The results that wait at the sequencer after an instruction. -/
def pendOf (i : Instr) (s : State) : List Pend := match exec i s with
  | .next t => t.sqr.pend
  | _ => []

theorem test_xsub_wraps : pendOf (.xsub 3 1 2) (xs 0 1) = [.x 3 0xFFFFFFFFFFFFFFFF] := by decide +kernel
theorem test_xsra_fills_sign : pendOf (.xsra 3 1 2) (xs 0x8000000000000000 65) = [.x 3 0xC000000000000000] := by decide +kernel
theorem test_xcmp_is_signed : pendOf (.xcmp 3 1 2) (xs 0xFFFFFFFFFFFFFFFF 1) = [.x 3 0xFFFFFFFFFFFFFFFF] := by decide +kernel
theorem test_xaddi_extends_sign : pendOf (.xaddi 1 1 (-1)) (xs 5 0) = [.x 1 4] := by decide +kernel
theorem test_gettc_selects : pendOf (.gettc 1 2) (agt (fun a => { a with tca := 3, seqA := 7 })) = [.x 1 7] := by decide +kernel
theorem test_qstat_packs : pendOf (.qstat 8 1) (agt (fun a => { a with q := { a.q with q8 := [1, 2] } })) = [.x 1 0xFF02] := by decide +kernel
theorem test_rotset_edge : pendOf (.rotset 64 2) s0 = [.rot 64 2] := by decide +kernel

/-- A row that is one FP32 value in every lane. -/
def rowOf (v : BitVec 32) : RowV := ⟨v.replicate 32, false⟩

/-- A CORE word at column 0 of a core that holds rows v1 and v2. -/
def ctx (i : Instr) (r1 r2 : RowV) : Ctx where
  a := { Agent.init with cores := [(0, { Core.init with rows := [(1, r1), (2, r2), (3, rowOf 0)] })] }
  key := a0
  serial := 0
  l := x0.l
  u := 100
  c := 0
  w := ⟨i, true, 1, 5, 0, 0, 0, false, 0, false⟩
  beat := Beat.empty

/-- Lane 0 of the row that a word lands, with its latency. -/
def lane0 (i : Instr) (r1 r2 : RowV) : Option (Nat × Nat × Bool) := match (columnWord i (ctx i r1 r2)).lands with
  | (L, .row _ v) :: _ => some (L, v.data.toNat % 2 ^ 32, v.pois)
  | _ => none

theorem test_vadd : lane0 (.vadd g0 .f32 .fpc 3 1 (.row 2)) (rowOf 0x3F800000) (rowOf 0x40000000) = some (4, 0x40400000, false) := by decide +kernel
theorem test_vfma_one_rounding : lane0 (.vfma g0 .f32 .fpc 3 1 (.row 2)) (rowOf 0x3F800001) (rowOf 0x3F800001) =
    some (4, 0x3F800002, false) := by decide +kernel
theorem test_vmax_clamp : lane0 (.vmax g0 .f32 .fpc 3 1 (.lit 0)) (rowOf 0xC0A00000) (rowOf 0) = some (2, 0, false) := by decide +kernel
theorem test_visub_saturates : lane0 (.visub g0 .i16 true 3 1 (.row 2)) (rowOf 0x80000001) (rowOf 0x00010002) =
    some (2, 0x8000FFFF, false) := by decide +kernel
theorem test_poison_spreads : lane0 (.vand g0 .i32 3 1 (.row 2)) ⟨0, true⟩ (rowOf 1) = some (2, 0, true) := by decide +kernel
theorem test_vrsum_tree : lane0 (.vrsum g0 .i32 .fpc false 3 1) (rowOf 3) (rowOf 0) = some (6, 96, false) := by decide +kernel
theorem test_guard_off : columnWord (.vadd ⟨true, 0⟩ .f32 .fpc 3 1 (.row 2)) { ctx .nop (rowOf 0) (rowOf 0) with
    w := ⟨.nop, false, 1, 5, 0, 0, 0, false, 0, false⟩ } = Eff.none := by decide +kernel

/-- The word placed for the next step issues in it: XADDI x3, x3, −1 at the state after reset (log 1). -/
theorem test_fetch_word : (match step (State.reset.withFetchWord 64 0x0001_019F_FFFF_FFFF) with
    | .next t => t.sqr.pend
    | _ => []) = [.x 3 (-1)] := by decide +kernel

/-! ## Witnesses: a concrete state and operands that meet the hypotheses of each statement, clause by clause -/

theorem witness_DecodeOfEncodeIsTheInstruction : ∃ i : Instr, i.wf = true ∧ i.eng.isSome = true := ⟨.xaddi 3 3 (-1), by decide +kernel⟩

theorem witness_StepKeepsMemoryCanonical : ∃ s : State, s.memOk ∧ (match step s with | .next _ => true | _ => false) = true :=
  ⟨State.reset.withFetchWord 64 0x0001_019F_FFFF_FFFF, rfl, by decide +kernel⟩

theorem witness_WordsActOnTheirOwnAgentAndStrand : ∃ i s t, Instr.eng i ≠ none ∧ exec i s = .next t := ⟨.nop, s0, s0, by decide +kernel, rfl⟩

/-- XADDI x3, x3, −1 at text index 998 at strand cycle 1; two idle words after it. -/
def sFetch : State :=
  { s0.setAgent a0 { Agent.init with sqr := { Sqr.init with text0 := [(998, 0x0001_019F_FFFF_FFFF), (999, 0), (1000, 0)], pc := 998 } } with
    strands := [(k0, { x0 with stime := 1 })], cyc := some ⟨k0, [0, 1, 2, 3], true⟩ }

/-- The state with another word at index 998. -/
def withWord (w : Word) : State := { sFetch with agents := sFetch.agents.map (fun e => (e.1, { e.2 with sqr := { e.2.sqr with
  text0 := KV.put e.2.sqr.text0 998 w } })) }

/-- The state with its sequencer changed. -/
def sFetchBut (f : Sqr → Sqr) : State := { sFetch with agents := sFetch.agents.map (fun e => (e.1, { e.2 with sqr := f e.2.sqr })) }

/-- The agent's state where the word issues. -/
def here (s : State) : State := s.atWord ⟨k0, [0, 1, 2, 3], true⟩ 0

/-- Words decode to an idle count, an instruction and a number of words. -/
def reads (d : Except Illegal (Nat × Instr × Nat)) (x : Nat × Instr × Nat) : Bool := match d with
  | .ok y => y == x
  | .error _ => false

/-- A word does not decode. -/
def refuses (d : Except Illegal Instr) (e : Illegal) : Bool := match d with
  | .ok _ => false
  | .error f => f == e

/-- What the statement about the fetch asks of every state. -/
def fetching (s : State) (e : Eng) : Bool :=
  decide (s.cyc = some ⟨k0, [0, 1, 2, 3], true⟩ ∧ s.phys = []) && !(here s).sqr.bad && !(here s).sqr.halted && (here s).sqr.late.isNone &&
    !(here s).sqr.skip.contains (here s).sqr.pc && decide ((here s).sqr.kernelStop ≠ some (here s).sqr.pc) &&
    decide ((here s).sqr.pc < (here s).myStrand.l.tlen) &&
    decide (engOf ((here s).textWord (here s).cur (here s).sqr.bank (here s).sqr.pc) = some e)

/-- The word's issue time. -/
def issueAt (s : State) (e : Eng) : Nat :=
  (here s).sqr.refs.get e + 1 + wordIdle ((here s).textWord (here s).cur (here s).sqr.bank (here s).sqr.pc)

/-- The LIT words that the word at the present index owns. -/
def litsHere (s : State) : List Word := (here s).litsAt ((here s).textWord (here s).cur (here s).sqr.bank (here s).sqr.pc) (here s).sqr.pc

/-- A word that runs; the queue pop of x3 in flag mode, which is not accepted; XLIL without its LIT words; a REPEAT and a branch in a
kernel; a word too late; a text that begins with no START. -/
theorem witness_StepRunsTheDecodedWord :
    fetching sFetch .seq = true ∧ issueAt sFetch .seq = (here sFetch).t ∧ (here sFetch).sqr.prev = none ∧
    ¬ ((here sFetch).t = 0 ∧ (here sFetch).sqr.pc = 0) ∧
    reads (decodeWords ((List.range 3).map (fun j =>
      (here sFetch).textWord (here sFetch).cur (here sFetch).sqr.bank ((here sFetch).sqr.pc + j)))) (0, .xaddi 3 3 (-1), 1) = true ∧
    (here sFetch).sqr.pc + 1 ≤ (here sFetch).myStrand.l.tlen ∧ (here sFetch).sqr.loops = [] := by decide +kernel

theorem witness_StepRunsTheDecodedWord_refused :
    (let w := (encode 0 (.qpop 6 false 3)).headD 0
     fetching (withWord w) .seq = true ∧ issueAt (withWord w) .seq = (here (withWord w)).t ∧
       refuses (decodeWord w ((litsHere (withWord w)).map (·.setWidth 32) ++ [0, 0])) .notAccepted = true) ∧
    (let w := (encode 0 (.xlil 4 0x8000000000000000)).headD 0
     fetching (withWord w) .seq = true ∧ issueAt (withWord w) .seq = (here (withWord w)).t ∧ litsHere (withWord w) = [] ∧ litCount w = 2) := by
  decide +kernel

/-- A branch in a kernel at its own time. -/
def sKernel : State := sFetchBut (fun q => { q with
  text0 := [(998, (encode 0 (.br .always 0 0 0)).headD 0)], loops := [⟨998, 2, 2, 1, 3, 0, 0, 1⟩] })

/-- A word whose time is strand cycle 1, after a word of strand cycle 2. -/
def sLate : State := { sFetchBut (fun q => { q with prev := some ⟨2, .core, 997, 0⟩, refs := ⟨0, 2, 0, 0⟩ }) with
  strands := [(k0, { x0 with stime := 2 })] }

/-- A word not due in the strand cycle, behind a taken branch. -/
def sBehind : State := { sFetchBut (fun q => { q with jump := some (.to 5 false 997) }) with strands := [(k0, { x0 with stime := 2 })] }

/-- A text that does not begin with START. -/
def sNoStart : State := { sFetchBut (fun q => { q with pc := 0, text0 := [(0, 0x0001_019F_FFFF_FFFF)] }) with strands := [(k0, x0)] }

theorem witness_StepRunsTheDecodedWord_order :
    (fetching sKernel .seq = true ∧ issueAt sKernel .seq = (here sKernel).t ∧ isControl (.br .always 0 0 0) = true ∧ (here sKernel).sqr.loops ≠ []) ∧
    (fetching sLate .seq = true ∧ issueAt sLate .seq < (here sLate).t ∧ (here sLate).sqr.prev = some ⟨2, .core, 997, 0⟩ ∧ issueAt sLate .seq < 2 ∧
      (here sLate).sqr.jump = none) ∧
    (fetching sBehind .seq = true ∧ (here sBehind).t ≠ 0 ∧ (here sBehind).sqr.jump ≠ none ∧ issueAt sBehind .seq ≠ (here sBehind).t) ∧
    (fetching sNoStart .seq = true ∧ (here sNoStart).t = 0 ∧ (here sNoStart).sqr.pc = 0 ∧
      (here sNoStart).textWord (here sNoStart).cur (here sNoStart).sqr.bank 0 ≠ mkWord 0 0 1 0) := by decide +kernel

theorem witness_SequencerArithmeticWritesItsValue : ∃ (i j k : Instr) (s : State) (d d' d'' : BitVec 4) (v v' v'' : Int),
    aluValue s.xr i = some (d, v) ∧ aluValue s.xr j = some (d', v') ∧ aluValue s.xr k = some (d'', v'') ∧ v = -1 ∧ d' = 0 :=
  ⟨.xsub 3 1 2, .xaddi 0 0 1, .xlil 4 0x8000000000000000, xs 0 1, 3, 0, 4, _, _, _, rfl, rfl, rfl, by decide +kernel, rfl⟩

/-- SETFPC of 1 and 5, SETOVF of 5 under privilege, ROTSET of the whole window; every group of queues of QSTAT. -/
theorem witness_SystemWordsReadAndWrite : ∃ s : State,
    ((s.xr 1).toNat < 16 ∧ 1 ≤ (s.xr 1).toNat % 8 ∧ (s.xr 1).toNat % 8 ≤ 5) ∧ ((s.xr 2).toNat < 16 ∧ 1 ≤ (s.xr 2).toNat % 8 ∧
    (s.xr 2).toNat % 8 ≤ 5) ∧ s.myStrand.priv = true ∧ ((s.xr 2).toNat < 16384 ∧ (s.xr 2).toNat % 4 ≠ 3 ∧ (s.xr 2).toNat / 4 % 4 ≠ 3 ∧
    ∀ k ∈ [4, 6, 8, 10, 12], (s.xr 2).toNat / 2 ^ k % 4 ≤ 1) ∧ (64 : BitVec 10).toNat ≤ s.myStrand.l.nrows ∧
    (2 : BitVec 6).toNat ≤ s.myStrand.l.nrows / 32 ∧ ((5 : BitVec 4).toNat < 6 ∧ 12 ≤ (13 : BitVec 4).toNat) ∧
    (6 : BitVec 4).toNat = 6 ∧ (7 : BitVec 4).toNat = 7 ∧ (8 ≤ (8 : BitVec 4).toNat ∧ (11 : BitVec 4).toNat ≤ 11) ∧ s.phys = [] :=
  ⟨(xs 1 5).setStrand k0 { x0 with priv := true }, by decide +kernel⟩

/-- Values SETFPC and SETOVF refuse, at the edges of each range; a user strand; a ROTSET beyond the window. -/
theorem witness_SequencerFaultsAreTaken_values :
    (16 ≤ ((xs 16 0).xr 1).toNat ∧ ((xs 8 0).xr 1).toNat % 8 = 0 ∧ 6 ≤ ((xs 6 0).xr 1).toNat % 8 ∧ 6 ≤ ((xs 15 0).xr 1).toNat % 8) ∧
    (16384 ≤ ((xs 16384 0).xr 1).toNat ∧ ((xs 3 0).xr 1).toNat % 4 = 3 ∧ ((xs 12 0).xr 1).toNat / 4 % 4 = 3) ∧
    (∃ k ∈ [4, 6, 8, 10, 12], 2 ≤ ((xs 32 0).xr 1).toNat / 2 ^ k % 4) ∧ (∃ k ∈ [4, 6, 8, 10, 12], 2 ≤ ((xs 8192 0).xr 1).toNat / 2 ^ k % 4) ∧
    ((xs 5 0).myStrand.priv = false ∧ (xs 5 0).xr 1 = 5 ∧ (xs 5 0).sqr.bad = false) ∧
    (s0.myStrand.l.nrows < (65 : BitVec 10).toNat ∧ s0.myStrand.l.nrows / 32 < (3 : BitVec 6).toNat) :=
  ⟨by decide +kernel, by decide +kernel, ⟨4, by decide +kernel, by decide +kernel⟩, ⟨12, by decide +kernel, by decide +kernel⟩,
    by decide +kernel, by decide +kernel⟩

/-- A branch to the first index beyond the window; a queue branch there; a fifth call; a return beyond the window; an empty return stack;
a fifth loop; no loop. -/
theorem witness_SequencerFaultsAreTaken_control :
    (brTrue .always (s0.xr 0) (s0.xr 0) ∧ s0.myStrand.l.tlen ≤ brTarget s0 .always 0 1000) ∧
    (qMay .empty 0 ∧ qTrue .empty s0.me.q 0 ∧ s0.myStrand.l.tlen ≤ bqTarget s0 1000) ∧
    (∃ s : State, s.sqr.bad = false ∧ brTrue .z (s.xr 0) (s.xr 0) ∧ brTarget s .z 0 999 < s.myStrand.l.tlen ∧ 4 ≤ s.sqr.rets.length) ∧
    (∃ s : State, s.sqr.bad = false ∧ s.sqr.rets = 1000 :: [] ∧ s.myStrand.l.tlen ≤ 1000) ∧ s0.sqr.rets = [] ∧ s0.sqr.loops = [] ∧
    (∃ s : State, s.sqr.bad = false ∧ s.idx + 1 + (1 : BitVec 13).toNat ≤ s.myStrand.l.tlen ∧
      s.sqr.late = none ∧ s.kernelEnd (s.idx + 1) (1 : BitVec 13).toNat = s.idx + 1 + (1 : BitVec 13).toNat ∧
      4 ≤ s.sqr.loops.length) :=
  ⟨⟨trivial, by decide +kernel⟩, ⟨by simp only [qMay]; decide, by simp only [qTrue]; decide +kernel, by decide +kernel⟩,
    ⟨sq (fun q => { q with rets := [1, 2, 3, 4] }), rfl, rfl, by decide +kernel, by decide +kernel⟩,
    ⟨sq (fun q => { q with rets := [1000] }), by decide +kernel⟩, rfl, rfl,
    ⟨sq (fun q => { q with text0 := [(1, 0)], loops := List.replicate 4 ⟨0, 1, 1, 1, 1, 0, 0, 0⟩ }), by decide +kernel, by decide +kernel, by decide +kernel,
      by decide +kernel⟩⟩

/-- A text with one word at index 1. -/
def sText (w : Word) : State := sq (fun q => { q with text0 := [(1, w)] })

/-- A kernel whose end passes the window; one that ends inside XLIL; one that is followed by a LIT word, and by the reserved engine. -/
theorem witness_SequencerFaultsAreTaken_kernel :
    s0.myStrand.l.tlen < s0.idx + 1 + (1000 : BitVec 13).toNat ∧
    (∃ w, (sText w).idx + 1 + 1 ≤ (sText w).myStrand.l.tlen ∧ (sText w).kernelEnd 1 1 ≠ 2) ∧
    (∃ s : State, s.sqr.late ≠ none ∧ s.sqr.loops.length < 4 ∧ s.kernelEnd 1 1 = 2) :=
  ⟨by decide +kernel, ⟨(encode 0 (.xlil 4 0)).headD 0, by decide +kernel, by decide +kernel⟩,
    ⟨sq (fun q => { q with text0 := [(1, 0)], late := some (.order 0) }), by decide +kernel⟩⟩

theorem kernelEnd_sText : (sText 0x8000_0000_0000_0000).kernelEnd 1 1 = 2 ∧ (sText 0xE000_0000_0000_0000).kernelEnd 1 1 = 2 := by
  decide +kernel

theorem witness_SequencerFaultsAreTaken_stray : (sText 0).sqr.loops.length < 4 ∧ (sText 0).sqr.late = none ∧ (sText 0).sqr.skip.contains 1 = false ∧
    engOf ((sText 0x8000_0000_0000_0000).textWord a0 false 1) = none ∧ engOf ((sText 0xE000_0000_0000_0000).textWord a0 false 1) = none := by
  decide +kernel

/-- Each test of BQ, of a queue for which it holds. -/
theorem witness_BranchesMoveTheStream_tests :
    (let q : Queues := { s0.me.q with
       q8 := List.replicate 255 0, q9 := 255, q0 := ⟨4, [Beat.empty], 3, 0⟩, q1 := ⟨4, [{ Beat.empty with pois := 1 }], 0, 0⟩ }
     qTrue .empty q 5 ∧ qTrue .nempty q 0 ∧ qTrue .full q 0 ∧ qTrue .full q 8 ∧ qTrue .full q 9 ∧ qTrue .pois q 1 ∧ qTrue .clean q 0) ∧
    ¬ qTrue .full s0.me.q 0 ∧ ¬ qTrue .clean s0.me.q 0 ∧ qMay .pois 12 := by
  refine ⟨⟨?_, ?_, ?_, ?_, ?_, ⟨_, _, rfl, ?_⟩, ⟨_, _, rfl, ?_⟩⟩, ?_, ?_, ?_⟩
  all_goals first | (simp only [qTrue]; decide +kernel) | decide +kernel | skip
  · rintro ⟨e, l, h, -⟩
    cases h
  · simp only [qMay]
    decide

theorem witness_BranchesMoveTheStream :
    (brTrue .always (s0.xr 0) (s0.xr 0) ∧ brTarget s0 .always 0 999 < s0.myStrand.l.tlen ∧ s0.sqr.rets.length < 4) ∧
    ¬ brTrue .nz (s0.xr 0) (s0.xr 0) ∧ bqTarget s0 999 < s0.myStrand.l.tlen ∧
    (∃ s : State, s.sqr.rets = 999 :: [5] ∧ 999 < s.myStrand.l.tlen) ∧
    Sqr.init.jump = none ∧ (∃ q : Sqr, q.jump = some (.to 9 true 4)) ∧ (∃ q : Sqr, q.jump = some .halt) ∧
    (∃ q : Sqr, q.jump = some .overlay) :=
  ⟨⟨trivial, by decide +kernel, by decide +kernel⟩, fun h => h rfl, by decide +kernel,
    ⟨sq (fun q => { q with rets := [999, 5] }), rfl, by decide +kernel⟩, rfl,
    ⟨{ Sqr.init with jump := some (.to 9 true 4) }, rfl⟩, ⟨{ Sqr.init with jump := some .halt }, rfl⟩,
    ⟨{ Sqr.init with jump := some .overlay }, rfl⟩⟩

/-- A kernel of one word with three iterations and with none, and a loop; iterations before, at and after the last start; a loop that
LEAVE marked, outermost and inner. -/
theorem witness_KernelsRunTheirIterations :
    (∃ s : State, (∀ n ∈ [3, 0], n = (if (0 : BitVec 4) = 0 then (bv 12 n).toNat else (s.xr 0).toNat)) ∧
      s.idx + 1 + (1 : BitVec 13).toNat ≤ s.myStrand.l.tlen ∧ s.sqr.loops.length < 4 ∧ s.sqr.loops ≠ [] ∧
      s.sqr.late = none ∧ s.kernelEnd (s.idx + 1) (1 : BitVec 13).toNat = s.idx + 1 + (1 : BitVec 13).toNat ∧
      (engOf (s.textWord s.cur s.sqr.bank (s.idx + 1))).isSome = true) ∧
    (∃ (q : Sqr) (l m : Loop), q.leaving = false ∧ 0 < l.n ∧ 0 < m.n ∧ 0 < q.rowsz ∧ q.vrot < q.rowsz ∧ q.tilesz = 0 ∧
      l.i + 1 < l.n + l.st - 1 ∧ m.n + m.st - 1 ≤ m.i + 1) ∧
    (∃ q : Sqr, q.leaving = false ∧ q.rowsz = 0 ∧ 0 < q.tilesz ∧ q.mrot < q.tilesz) ∧
    (∃ q : Sqr, q.leaving = true ∧ ([] : List Loop) = [] ∧ [(⟨0, 1, 1, 1, 1, 0, 0, 0⟩ : Loop)] ≠ []) :=
  ⟨⟨sq (fun q => { q with text0 := [(1, 0)], loops := [⟨0, 1, 1, 1, 1, 0, 0, 0⟩] }), by decide +kernel, by decide +kernel, by decide +kernel, by decide +kernel, by decide +kernel,
      by decide +kernel⟩,
    ⟨{ Sqr.init with rowsz := 4 }, ⟨1, 1, 1, 2, 3, 2, 0, 0⟩, ⟨1, 1, 1, 2, 3, 3, 0, 0⟩, by decide +kernel⟩,
    ⟨{ Sqr.init with tilesz := 2, mrot := 1 }, by decide +kernel⟩, ⟨{ Sqr.init with leaving := true }, by decide +kernel⟩⟩

/-- An overlay whose load is complete, under a trailer that waits for all four counters. -/
def sOvly (o : Overlay) (rets : List Nat) : State :=
  sq (fun q => { q with text0 := [(9, 0xE000_0000_0000_000F)], len0 := 10, ovly := some o, rets := rets })

/-- Two errors in one code word of the line that holds the trailer; a load that goes on, under a last word that is no trailer. -/
theorem witness_StreamWordsTakeTheirEffect_trailer :
    (let s := { sOvly ⟨0, 0, none, false, none, .none, []⟩ [] with phys := [.line (.textStore 0) 0 [(1, 0, 1), (2, 0, 1)]] }
     s.sqr.bad = false ∧ s.myStrand.st ≠ .frozen ∧ s.sqr.ovly = some ⟨0, 0, none, false, none, .none, []⟩ ∧ s.sqr.rets = [] ∧
       (s.readText (s.sqr.imageLen - 1)).1 = true) ∧
    (let s := sq (fun q => { q with text0 := [(9, 0)], len0 := 10, ovly := some ⟨0, 0, none, false, none, .none, []⟩ })
     isTrailer (s.textWord s.cur s.sqr.bank (s.sqr.imageLen - 1)) = false ∧ s.sqr.ovly = some ⟨0, 0, none, false, none, .none, []⟩) := by
  decide +kernel

theorem witness_StreamWordsTakeTheirEffect :
    (s0.idx = 0 ∧ s0.sqr.bank = false ∧ s0.me.idleEngines = true ∧ s0.myStrand.evp = false) ∧
    (∀ k, k < 32 → (3 : BitVec 32).getLsbD k = true → k < s0.myStrand.l.nrows / 32) ∧
    (∃ s : State, s.myStrand.evp = true) ∧ (∃ s : State, s.me.idleEngines = false ∧ s.myStrand.st ≠ .frozen) ∧
    (let s := sOvly ⟨0, 10, none, true, none, .none, []⟩ []
     let tr := s.textWord s.cur s.sqr.bank (s.sqr.imageLen - 1)
     s.sqr.bad = false ∧ s.myStrand.st ≠ .frozen ∧ isTrailer tr = true ∧ tr.getLsbD 0 = true ∧ s.me.tca = s.me.seqA ∧
       tr.getLsbD 1 = true ∧ s.me.tcx = s.me.seqX ∧ tr.getLsbD 2 = true ∧ s.me.q.q9 = 0 ∧ tr.getLsbD 3 = true ∧ s.me.q.q11 = 0) ∧
    ((sOvly ⟨0, 0, none, false, none, .none, []⟩ []).sqr.ovly = some ⟨0, 0, none, false, none, .none, []⟩ ∧ (sOvly ⟨0, 0, none, false, none, .none, []⟩ []).sqr.rets = []) ∧
    (let s := (sOvly ⟨0, 10, none, true, none, .none, []⟩ []).setMe { (sOvly ⟨0, 10, none, true, none, .none, []⟩ []).me with tca := 1 }
     isTrailer (s.textWord s.cur s.sqr.bank (s.sqr.imageLen - 1)) = true ∧
       (s.textWord s.cur s.sqr.bank (s.sqr.imageLen - 1)).getLsbD 0 = true ∧ s.me.tca ≠ s.me.seqA) ∧
    (let s := sq (fun q => { q with text0 := [(9, 0)], len0 := 10 })
     isTrailer (s.textWord s.cur s.sqr.bank (s.sqr.imageLen - 1)) = false) ∧
    s0.sqr.ovly = none ∧ (sOvly ⟨0, 10, none, true, none, .none, []⟩ [3]).sqr.rets ≠ [] ∧ (sOvly ⟨0, 0, none, true, some 5, .none, []⟩ []).sqr.ovly = some ⟨0, 0, none, true, some 5, .none, []⟩ :=
  ⟨by decide +kernel, by decide +kernel, ⟨str (fun x => { x with evp := true }), rfl⟩, ⟨agt (fun a => { a with seqA := 1 }), by decide +kernel, by decide +kernel⟩,
    by decide +kernel, by decide +kernel, by decide +kernel, by decide +kernel, rfl, by decide +kernel, rfl⟩

/-- A full beat queue of depth 4, a queue with one beat, an empty one. -/
theorem witness_BeatWordsMoveBeats : s0.phys = [] ∧ (∃ s : State, s.phys = [] ∧ (s.me.q.beat 0).items = Beat.empty :: []) ∧
    ((s0.me.q.beat 0).items = [] ∧ s0.myStrand.st ≠ .frozen ∧ (s0.me.q.beat 4).full = false) ∧
    (∃ s : State, (s.me.q.beat 4).full = true ∧ s.myStrand.st ≠ .frozen) :=
  ⟨rfl, ⟨agt (fun a => { a with q := { a.q with q0 := ⟨4, [Beat.empty], 0, 0⟩ } }), rfl, rfl⟩, by decide +kernel,
    ⟨agt (fun a => { a with q := { a.q with q4 := ⟨4, List.replicate 4 Beat.empty, 0, 0⟩ } }), by decide +kernel, by decide +kernel⟩⟩

theorem witness_TokenWordsMoveTokens :
    (∃ s : State, s.me.q.q8 = 4 :: [] ∧ s.me.q.q10 = 6 :: [] ∧ s.me.q.q9 = 255 ∧ s.me.q.q11 = 255 ∧ s.myStrand.st ≠ .frozen) ∧
    (s0.me.q.q8 = [] ∧ s0.me.q.q10 = [] ∧ s0.me.q.q9 ≠ 255 ∧ s0.me.q.q11 ≠ 255) :=
  ⟨⟨agt (fun a => { a with q := { a.q with q8 := [4], q10 := [6], q9 := 255, q11 := 255 } }), by decide +kernel⟩, by decide +kernel⟩

theorem witness_QpopRemovesTheHead : s0.phys = [] ∧ (∃ s : State, s.phys = [] ∧ (s.me.q.res 6).items = ⟨5, 1, true⟩ :: []) ∧ (s0.me.q.res 7).items = [] ∧
    s0.myStrand.st ≠ .frozen ∧ (6 : BitVec 4).toNat = 6 ∧ decodeWord ((encode 0 (.qpop 6 false 14)).headD 0) [] = .ok (.qpop 6 false 14) ∧
    (15 : BitVec 4).toNat % 2 = 1 :=
  ⟨rfl, ⟨agt (fun a => { a with q := { a.q with q6 := ⟨[⟨5, 1, true⟩], 0, 0, 0⟩ } }), rfl, rfl⟩, rfl, by decide +kernel, rfl, rfl, rfl⟩

/-- Two observed writes of a register, the second not met by a write of the program. -/
theorem witness_WaittcObservesOrWaits_register : ∃ (a : Agent) (e f : AAlt) (w : Word), a.aAlt = [e] ++ f :: [] ∧ e.reg = 3 ∧ f.reg = 3 ∧
    e.seq ≤ 2 ∧ f.seq ≤ 2 ∧ e.written = some 7 ∧ e.clash = true ∧ f.clash = false ∧ f.written = some w ∧ (a.observe false 2 0 0).ar 3 = w :=
  ⟨{ Agent.init with aAlt := [⟨3, 1, some 7, true⟩, ⟨3, 2, some 9, false⟩] }, _, _, 9, rfl, rfl, rfl, by decide, by decide, rfl, rfl, rfl, rfl,
    by simp [Agent.observe, settle, Agent.ar, List.partition, List.partition.loop]⟩

/-- The counter at the target, and one below it. -/
theorem witness_WaittcObservesOrWaits : ∃ s : State, s.myStrand.st ≠ .frozen ∧ (s.xr 1).toNat ≤ s.me.tca ∧ s.me.tcx < (s.xr 1).toNat :=
  ⟨(xs 3 0).setMe { (xs 3 0).me with tca := 3, tcx := 2 }, by decide +kernel⟩

/-- Rows at both ends of the window, and every form of B, pass the checks; the rows of one word may be equal. -/
theorem rowsIn_ends : rowsIn s0 [0, 63] ∧ rowsIn s0 [63, 63] ∧ rowsIn s0 [63] ∧ tilesIn s0 [0, 1] ∧ tilesIn s0 [1] ∧
    bIn s0 (.row 63) ∧ bIn s0 (.kb 15) ∧ bIn s0 (.lit 7) ∧ bIn s0 (.slot 7) := by
  simp only [rowsIn, tilesIn, bIn]
  decide +kernel

/-- Result queues with room for exactly what LDS and a 16-byte atomic reserve; KBLD of the whole bank; AROW of the last row. -/
theorem witness_AgenCommandsIssueInOrder :
    (∃ s : State, (s.me.q.res 6).items.length + (s.me.q.res 6).resv + (s.me.q.res 6).kept < 16 ∧ s.me.swap = none ∧
      (s.me.q.res 7).items.length + (s.me.q.res 7).resv + (s.me.q.res 7).kept + 2 ≤ 16) ∧
    (0 : BitVec 9).toNat + (15 : BitVec 8).toNat < s0.myStrand.l.nkb ∧ rowsIn s0 [63] ∧
    Instr.atcas atom0 ∈ [Instr.atadd atom0, .atcas atom0, .atxch atom0, .atmax atom0, .atmin atom0, .atand atom0, .ator atom0, .atfadd atom0] :=
  ⟨⟨agt (fun a => { a with q := { a.q with q6 := ⟨[], 15, 0, 0⟩, q7 := ⟨[], 14, 0, 0⟩ } }), by decide +kernel⟩, by decide +kernel,
    rowsIn_ends.2.2.1, by decide +kernel⟩

theorem witness_XchgCommandsIssueInOrder : s0.me.swap = none := rfl

theorem witness_ScalarWordsWriteTheirValue : ∃ (g : Guard) (d : BitVec 4), scalarDest (.sadd g0 0 1 (.imm 5)) = some (g, d) ∧
    scalarDest (.smovx g0 0 2) = some (g, d) ∧ scalarDest (.sli g0 0 (.lit 9)) = some (g, d) := ⟨g0, 0, rfl, rfl, rfl⟩

theorem witness_StatusAndPredicateWordsWriteTheirValue : rowsIn s0 [63] := rowsIn_ends.2.2.1

theorem witness_IntegerVectorWordsWriteTheirLanes : (∃ f, intWord (.vicmp g0 .lt .i16 0 63 (.kb 15)) = some (g0, .i16, 0, 63, .kb 15, f)) ∧
    (∃ f, intWord (.vshli 0 0 63 31) = some (⟨false, 0⟩, .i32, 0, 63, .lit 31, f)) ∧ rowsIn s0 [0, 63] ∧ bIn s0 (.kb 15) ∧ bIn s0 (.lit 31) :=
  ⟨⟨_, rfl⟩, ⟨_, rfl⟩, rowsIn_ends.1, rowsIn_ends.2.2.2.2.2.2.1, trivial⟩

theorem witness_FloatVectorWordsWriteTheirLanes :
    (∃ f, floatWord (.vfma g0 .bf16 .rtz 0 63 (.row 63)) = some (g0, .bf16, .rtz, 0, 63, .row 63, true, 4, f)) ∧
    (∃ f, floatWord (.vmaxi 0 0 63 5) = some (⟨false, 0⟩, .f32, .fpc, 0, 63, .lit 0x5000, false, 2, f)) ∧ rowsIn s0 [0, 63] ∧
    bIn s0 (.row 63) ∧ bIn s0 (.lit 0x5000) :=
  ⟨⟨_, rfl⟩, ⟨_, rfl⟩, rowsIn_ends.1, rowsIn_ends.2.2.2.2.2.1, trivial⟩

/-- A signalling NaN and a quiet one, −∞ below the least number, the largest below +∞, −1 below 1; zeros of both signs. -/
theorem witness_FloatVectorWordsWriteTheirLanes_values :
    0xFFFF < 2 ^ (7 + 9) ∧ (fpUnpack 7 0x7F81).isNan = true ∧ (fpUnpack 7 0x7F81).isSig = true ∧
    (fpUnpack 7 0x7FC0).isNan = true ∧ (fpUnpack 7 0x7FC0).isSig = false ∧
    (fpUnpack 7 0xFF80).below (fpUnpack 7 0xFF7F) = true ∧ (fpUnpack 7 0x7F7F).below (fpUnpack 7 0x7F80) = true ∧
    (fpUnpack 23 0xBF800000).below (fpUnpack 23 0x3F800000) = true ∧ (fpUnpack 7 0x8000).below (fpUnpack 7 0) = false ∧
    (fpUnpack 7 0x8000).isNan = false ∧ false ≠ true := by decide +kernel

theorem witness_UnaryWordsAndSpecialFunctions :
    (∃ f, unaryWord s0.issueEnv (.vrsq g0 .f32 .rne 0 63) = some (g0, .f32, 0, 63, 10, f)) ∧ rowsIn s0 [0, 63] ∧
    ((7 : Nat) = 23 ∨ (7 : Nat) = 7) ∧ (255 * 2 ^ 7 < 2 ^ (7 + 8) ∧ 0 < 255 * 2 ^ 7 ∧ 255 * 2 ^ 7 ≤ 255 * 2 ^ 7) ∧
    (134 * 2 ^ 7 ≤ 134 * 2 ^ 7 ∧ 134 * 2 ^ 7 < 255 * 2 ^ 7) ∧ (255 * 2 ^ 7 + 1 < 2 ^ (7 + 8) ∧ 255 * 2 ^ 7 < 255 * 2 ^ 7 + 1) ∧
    (∀ ent ∈ [OvE.infinity, .largest, .nan, .poison], ∃ e : FEnv, e.ent = ent) :=
  ⟨⟨_, rfl⟩, rowsIn_ends.1, Or.inr rfl, by decide +kernel, by decide +kernel, by decide +kernel, fun ent _ => ⟨⟨.rne, false, ent⟩, rfl⟩⟩

theorem witness_LaneMovesWriteTheirLanes : rowsIn s0 [0, 63] ∧ bIn s0 (.slot 7) := ⟨rowsIn_ends.1, trivial⟩

theorem witness_ConversionsWriteTheirElements : rowsIn s0 [0, 63] ∧ CvtFmt.m8 ≠ CvtFmt.f32 ∧ CvtFmt.i8 ≠ CvtFmt.m8 :=
  ⟨rowsIn_ends.1, by decide +kernel, by decide +kernel⟩

/-- The least code; a place at the bottom of the codes' range, and a tie of the codes 0 and 1. -/
theorem witness_ConversionsWriteTheirElements_codes : ((6 : Nat) ≤ 6 ∧ 2 ^ (6 - 6) ≤ 1 ∧ 1 < 2 ^ (7 - 6)) ∧
    ((-23 : Int) ≤ -23 ∧ (-23 : Int) ≤ -22 ∧ (m8Round 1 (-23)).1 = 0 ∧ (1 : Nat) ≠ 0 ∧
      ((m8Fp 0 0).scaled (-23) - 1).natAbs = ((m8Fp 1 0).scaled (-23) - 1).natAbs) := by decide +kernel

/-- Whether a block's elements all stay below 1.96875 times 2^E. -/
def fitsIn (xs : List Fp) (E : Int) : Bool :=
  xs.all (fun x => decide (32 * (x.scaled (min x.low E)).natAbs < 63 * 2 ^ (E - min x.low E).toNat))

/-- A block with a NaN, one with an infinity, zeros; numbers whose scale is 0, and numbers beyond every scale. -/
theorem witness_ConversionsWriteTheirElements_blocks :
    Fp.nan true ∈ [Fp.fin false 1 0, .nan true] ∧
    ((Fp.nan true ∉ [Fp.fin false 1 0, .inf true] ∧ Fp.nan false ∉ [Fp.fin false 1 0, .inf true]) ∧ Fp.inf true ∈ [Fp.fin false 1 0, .inf true]) ∧
    (∀ x ∈ [Fp.fin false 0 5, .fin true 0 0], x.isFin = true ∧ x.scaled x.low = 0) ∧
    (∀ x ∈ [Fp.fin false 1 0, .fin true 3 (-2)], x.isFin = true) ∧
    fitsIn [.fin false 1 0, .fin true 3 (-2)] 0 = true ∧ fitsIn [.fin false 1 0, .fin true 3 (-2)] (-1) = false ∧ (0 : Int) ≤ 127 ∧
    fitsIn [.fin false 1 128] 128 = true ∧ fitsIn [.fin false 1 128] 127 = false ∧ (127 : Int) < 128 := by decide +kernel

/-- Elements at the ends of their widths. -/
theorem witness_ConversionsWriteTheirElements_narrow : (255 < 2 ^ CvtFmt.m8.width ∧ 255 < 256) ∧
    ((CvtFmt.i8, ovI8 5) ∈ [(CvtFmt.i32, ovI32 5), (.i16, ovI16 5), (.i8, ovI8 5)]) ∧ 0 < 1 ∧ 2 ^ 128 - 1 < 2 ^ 128 := by decide +kernel

theorem witness_ReductionsWriteEveryLane : rowsIn s0 [0, 63] ∧ (Ty.i16, 16) ∈ [(Ty.i32, 32), (Ty.i16, 16)] :=
  ⟨rowsIn_ends.1, by decide +kernel⟩

theorem witness_AccumulatesWriteRowAndSlot : rowsIn s0 [63, 63] ∧ rowsIn s0 [63] := ⟨rowsIn_ends.2.1, rowsIn_ends.2.2.1⟩

/-- The last slot and the last units that each shape of move takes. -/
theorem witness_MovesCarryTheirElements : rowsIn s0 [63] ∧ tilesIn s0 [1] ∧ (4 : BitVec 3).toNat + 4 ≤ 8 ∧ (7 : BitVec 3).toNat + 1 ≤ 8 ∧
    (252 : BitVec 13).toNat + 4 ≤ s0.myStrand.l.nunits ∧ (223 : BitVec 13).toNat + 33 ≤ s0.myStrand.l.nunits ∧
    (128 : BitVec 13).toNat + 128 ≤ s0.myStrand.l.nunits ∧ Cvt.i32 ∈ [Cvt.raw, .f32, .i32] :=
  ⟨rowsIn_ends.2.2.1, rowsIn_ends.2.2.2.2.1, by decide +kernel⟩

theorem witness_MatrixWordsTakeTheirEffect : tilesIn s0 [1] ∧ tilesIn s0 [0, 1] ∧ 64 ≤ s0.myStrand.l.nunits ∧
    (192 : BitVec 10).toNat + 64 ≤ s0.myStrand.l.nunits ∧ s0.myStrand.mat = true ∧ s0.sqr.mmaFree ≤ s0.t :=
  ⟨rowsIn_ends.2.2.2.2.1, rowsIn_ends.2.2.2.1, by decide +kernel⟩

/-- A chain at tile 1 due at step 6: a product into tile 1 may take it up before then; one into tile 0, or from then on, may not. No chain. -/
theorem witness_MatrixWordsTakeTheirEffect_chain : (∃ k : Core, k.lastM = some ⟨0, 6, 1, List.replicate 32 ⟨0, false⟩⟩) ∧
    ((s0.tile5 1).toNat = 1 ∧ 5 < 6 ∧ (s0.tile5 0).toNat ≠ 1 ∧ 6 ≤ 6) ∧ Core.init.lastM = none ∧ MMode.acc ≠ .ovw :=
  ⟨⟨{ Core.init with lastM := some ⟨0, 6, 1, _⟩ }, rfl⟩, by decide +kernel, rfl, nofun⟩

/-- A product about to take its first beat. -/
def run0 : MmaRun := ⟨0, .mma g0 .i8 .sub true .table 1 (.folio 2) 0 0, 1, 5, none, [], 0, List.replicate 32 0, false, 0, true⟩

theorem witness_IntegerProductsAreExact : run0.ins = .mma g0 .i8 .sub true .table 1 (.folio 2) 0 0 ∧ run0.n = 0 ∧ run0.acc.length = 32 :=
  ⟨rfl, rfl, rfl⟩

/-- A BF16 product about to take its first beat, with given elements (0, 0) and (0, 1) of A and (0, 0) and (1, 0) of B. -/
def runB (a0 a1 b0 b1 : Nat) : MmaRun :=
  ⟨0, .mma g0 .bf16 .sub false .table 1 (.folio 2) 0 0, 1, 5, some ([bv 256 a0, 0, bv 256 a1], []), [bv 256 b0, 0, bv 256 b1], 0,
    List.replicate 32 0, false, 0, true⟩

/-- Element (0, k) of A and (k, 0) of B of such a product. -/
def elemsB (r : MmaRun) (k : Nat) : Fp × Fp :=
  (elemFp .bf16 (elemAt .bf16 (fun u => ((r.a.getD ([], [])).1).getD u 0) (2 * r.n + k) 0) 0,
    elemFp .bf16 (elemAt .bf16 (fun u => r.b.getD u 0) (2 * r.n + k) 0) 0)

/-- A signalling NaN; infinity times zero; infinities of both signs; one infinity beside a number; numbers, zero products of both signs. -/
theorem witness_IntegerProductsAreExact_elements :
    ((runB 0x7F81 0 0 0).acc.length = 32 ∧ (runB 0x7F81 0 0 0).n = 0 ∧ MFmt.bf16 ≠ .i8 ∧ (elemsB (runB 0x7F81 0 0 0) 0).1.isSig = true) ∧
    elemsB (runB 0x7F80 0 0 0) 0 = (.inf false, fpUnpack 7 0) ∧ (fpUnpack 7 0).isFin = true ∧ (fpUnpack 7 0).scaled (fpUnpack 7 0).low = 0 ∧
    (elemsB (runB 0x7F80 0xFF80 0x3F80 0x3F80) 0 = (.inf false, fpUnpack 7 0x3F80) ∧
      elemsB (runB 0x7F80 0xFF80 0x3F80 0x3F80) 1 = (.inf true, fpUnpack 7 0x3F80)) ∧
    (elemsB (runB 0x7F80 0x3F80 0x3F80 0x3F80) 1 = (fpUnpack 7 0x3F80, fpUnpack 7 0x3F80) ∧ (fpUnpack 7 0x3F80).isFin = true ∧
      (fpUnpack 7 0x3F80).scaled (fpUnpack 7 0x3F80).low ≠ 0) ∧
    (elemsB (runB 0x3F80 0x8000 0 0x3F80) 0).1.isFin = true := by decide +kernel

/-- A replayable phase; full result queues; no matrix attribute; a busy array. -/
theorem witness_ChecksBeforeIssueAreTaken :
    (∃ s : State, s.sqr.bad = false ∧ s.myStrand.st ≠ .frozen ∧ s.me.swap.isSome = true) ∧
    (∃ s : State, s.sqr.bad = false ∧ s.myStrand.st ≠ .frozen ∧ s.me.swap = none ∧ 16 ≤ (s.me.q.res 6).items.length + (s.me.q.res 6).resv +
      (s.me.q.res 6).kept ∧ 16 < (s.me.q.res 7).items.length + (s.me.q.res 7).resv + (s.me.q.res 7).kept + 2) ∧
    (s0.myStrand.l.nkb ≤ (16 : BitVec 9).toNat + (0 : BitVec 8).toNat ∧ s0.myStrand.l.nrows ≤ s0.sqr.rowIndex (64 : BitVec 10).toNat) ∧
    (∃ s : State, s.sqr.bad = false ∧ s.t < s.sqr.mmaFree) :=
  ⟨⟨agt (fun a => { a with swap := some ⟨0, 0, a.sqr, a.q, []⟩ }), by decide +kernel⟩,
    ⟨agt (fun a => { a with q := { a.q with q6 := ⟨[], 16, 0, 0⟩, q7 := ⟨[], 15, 0, 0⟩ } }), by decide +kernel⟩, by decide +kernel,
    ⟨sq (fun q => { q with mmaFree := 1 }), by decide +kernel⟩⟩

/-- Whether an operand lies in its window, as a test. -/
def within (s : State) : Use → Bool
  | .row v => decide (s.sqr.rowIndex v.toNat < s.myStrand.l.nrows)
  | .tile m => decide (32 * s.sqr.tileIndex m.toNat + 32 ≤ s.myStrand.l.nrows)
  | .bank n => decide (n < s.myStrand.l.nkb)
  | .folio d n => decide (d + n ≤ s.myStrand.l.nunits)

theorem within_iff (s : State) (u : Use) : within s u = true ↔ u.inside s := by
  cases u <;> simp [within, Use.inside]

/-- The first row, tile, bank word and folio run beyond its window, at every place of a word of each shape. -/
theorem witness_ChecksBeforeIssueAreTaken_windows : ∀ p ∈ [(Instr.vany g0 8 64, 0), (.vadd g0 .f32 .fpc 64 0 (.kb 16), 0),
      (.vadd g0 .f32 .fpc 63 64 (.kb 16), 1), (.vadd g0 .f32 .fpc 63 63 (.kb 16), 2), (.viadd g0 .i32 false 63 63 (.row 64), 2),
      (.vsel g0 .f32 63 63 (.kb 16), 2), (.vfxa g0 63 63 (.row 64), 2), (.vabs g0 .f32 63 64, 1), (.vrcp g0 .f32 .fpc 64 0, 0),
      (.vcvt g0 .bf16 .f32 .fpc false 63 64, 1), (.vrsum g0 .f32 .fpc false 63 64, 1), (.vladd g0 .f32 .fpc 63 64 0, 1), (.vaddi 0 63 64 0, 1),
      (.vli 0 64 0, 0), (.vmov g0 .f32 63 (.kb 16), 1), (.vgetl g0 .f32 64 0, 0), (.vputl g0 .f32 0 64, 0), (.fldv g0 .f32 63 0 253, 1),
      (.fstv g0 .f32 0 253 63, 1), (.fstv g0 .f32 0 252 64, 0), (.fldm g0 .f32 1 0 129, 1), (.fstm g0 .m8 0 224 1, 1), (.fstm g0 .m8 0 223 2, 0),
      (.mma g0 .i8 .sub true .table 2 (.tile 1) 0 0, 0), (.mma g0 .i8 .sub true .table 1 (.tile 2) 0 0, 1),
      (.mma g0 .i8 .sub true .table 1 (.folio 2) 0 225, 2), (.mzero g0 2, 0), (.mtrn g0 1 2, 1)],
    s0.sqr.bad = false ∧ s0.sqr.mmaFree ≤ s0.t ∧ ((usesOf p.1).take p.2).all (within s0) = true ∧
      ((usesOf p.1)[p.2]?).any (fun u => !within s0 u) = true := by decide +kernel

/-- The last rows, tiles and folio runs inside their windows, without the attribute. -/
theorem witness_ChecksBeforeIssueAreTaken_matrix : ∀ i ∈ [Instr.mma g0 .i8 .sub true .table 1 (.tile 1) 0 224, .mzero g0 1, .mtrn g0 1 0],
    let s := str (fun x => { x with mat := false })
    isMatrix i = true ∧ s.sqr.bad = false ∧ s.sqr.mmaFree ≤ s.t ∧ (usesOf i).all (within s) = true ∧ s.myStrand.mat = false := by decide +kernel

/-- Below, at and above one half; a negative and a positive value; nothing dropped. -/
theorem witness_RoundingGoesToTheRightNeighbour : 5 % 2 ^ 2 ≠ 0 ∧ 2 * (5 % 2 ^ 2) < 2 ^ 2 ∧ 2 * (6 % 2 ^ 2) = 2 ^ 2 ∧ 2 ^ 2 < 2 * (7 % 2 ^ 2) := by
  decide +kernel

/-- The largest finite BF16 value, and the largest subnormal with and without fz. -/
theorem witness_FormatValuesRoundToThemselves : 0x7F7F < 2 ^ (7 + 9) ∧ (fpUnpack 7 0x7F7F).isNan = false ∧
    ¬ (0x7F7F / 2 ^ 7 % 256 = 0 ∧ 0x7F7F % 2 ^ 7 ≠ 0) ∧ ((0x7F : Nat) / 2 ^ 7 % 256 = 0 ∧ (0x7F : Nat) % 2 ^ 7 ≠ 0) := by decide +kernel

/-- Two numbers and a third, a NaN, an infinity beside zero and beside one; a number that rounds to the largest, one that is tiny, one
beyond the largest. -/
theorem witness_FormatValuesRoundToThemselves_arithmetic :
    ((Fp.fin false 1 0).isFin = true ∧ (Fp.fin true 3 (-1)).isFin = true) ∧ (Fp.nan true).isNan = true ∧
    (Fp.fin true 0 5).scaled (Fp.fin true 0 5).low = 0 ∧ (Fp.fin false 1 0).scaled (Fp.fin false 1 0).low ≠ 0 ∧
    (∀ x ∈ [((255 : Nat), (120 : Int), false), (1, -140, true)], (0 : Nat) < x.1 ∧ ((Nat.log2 x.1 : Int) + x.2.1 ≤ 127) ∧
      (decide ((Nat.log2 x.1 : Int) + x.2.1 < -126) = x.2.2)) ∧ 127 < (Nat.log2 1 : Int) + 128 := by decide +kernel

/-- A NaN addend, an infinite addend of each sign; an infinity times zero and times a number. -/
theorem witness_FormatValuesRoundToThemselves_fused : (Fp.nan false).isNan = true ∧ (∀ k : Bool, ∃ c : Fp, c = .inf k) ∧
    ((Fp.fin true 0 0).isFin = true ∧ (Fp.fin true 0 0).scaled (Fp.fin true 0 0).low = 0) ∧
    (∀ b ∈ [Fp.fin true 1 0, .inf false], b.isNan = false ∧ (b.isFin = true → b.scaled b.low ≠ 0)) ∧
    (∃ e : Int, e ≤ (Fp.fin false 1 0).low + (Fp.fin true 3 (-1)).low ∧ e ≤ (Fp.fin false 5 4).low) :=
  ⟨rfl, fun k => ⟨.inf k, rfl⟩, by decide +kernel, by decide +kernel, ⟨-1, by decide +kernel⟩⟩

/-- One pending result of each kind, and landings that wait in issue order. -/
theorem witness_ResultsLandInOrder : (∀ p : Pend, ∃ a : Agent, a.sqr.pend = [p]) ∧
    [(⟨9, 1, .clearFst⟩ : Landing), ⟨8, 2, .flags 1⟩].Pairwise (fun a b => a.issued ≤ b.issued) :=
  ⟨fun p => ⟨{ Agent.init with sqr := { Sqr.init with pend := [p] } }, rfl⟩, by decide +kernel⟩

/-- An agent whose column 0 holds results due together, two of them at one row. -/
def aLand : Agent := { Agent.init with cores := [(0, { Core.init with landing := [⟨5, 1, .row 3 ⟨1, false⟩⟩, ⟨5, 2, .row 3 ⟨2, false⟩⟩,
  ⟨5, 2, .unit 4 ⟨1, false⟩⟩, ⟨5, 2, .sreg 1 7⟩, ⟨5, 2, .pred 9 true⟩, ⟨6, 2, .flags 1⟩] })] }

theorem witness_ResultsLandInOrder_due : ((aLand.core 0).landing.filter (fun n => decide (n.due ≤ 5))) =
      [⟨5, 1, .row 3 ⟨1, false⟩⟩] ++ ⟨5, 2, .row 3 ⟨2, false⟩⟩ :: [⟨5, 2, .unit 4 ⟨1, false⟩⟩, ⟨5, 2, .sreg 1 7⟩, ⟨5, 2, .pred 9 true⟩] ∧
    8 ≤ (9 : BitVec 4).toNat := by decide +kernel

/-- A CORE word in the pipe that reaches column 2. -/
theorem witness_ResultsLandInOrder_column : ∃ (o : ColOut) (w : PipeWord), 2 ≤ 7 ∧ KV.get? o.a.pipe (7 - 2) = some w ∧
    ((o.a.copyScalars 7 2).core 2).runs = [] ∧
    (columnWord w.ins ⟨o.a.copyScalars 7 2, a0, 0, x0.l, 7, 2, w, Beat.empty⟩).run = none :=
  ⟨⟨{ Agent.init with pipe := [(5, ⟨.vli 0 1 5, true, 1, 5, 0, 0, 0, false, 0, false⟩)] }, [], false, []⟩, _, by decide, rfl, rfl, rfl⟩

/-- A clean line in which two bytes are wrong. -/
def sLost : State := { s0 with phys := [.dev 0 [(0, 1), (1, 1)]] }

theorem witness_ReadStepsReadBufferOrRaceSet : s0.phys = [] ∧ KV.get? (s0.agent a0).b 8 = none ∧
    (∃ s : State, s.phys = [] ∧ KV.get? (s.agent a0).b 8 = some (5, false)) ∧
    (KV.get? (sLost.agent a0).b 8 = none ∧ sLost.lineLost 8 = true) :=
  ⟨rfl, rfl, ⟨agt (fun a => { a with b := [(8, (5, false))] }), rfl, rfl⟩, by decide +kernel⟩

/-- A buffer that writes one word of line 0, poisoned, and all of line 1. -/
theorem witness_PhaseStepsCommitTheBuffer : ∃ s : State, s.phys = [] ∧ s.memOk ∧ ((s.agent a0).b.map (·.1)).Nodup ∧
    (∀ e ∈ (s.agent a0).b, e.1 % 8 = 0) ∧ KV.get? (s.agent a0).b 0 = some (1, true) ∧
    (∀ i, i < 8 → ∃ e ∈ (s.agent a0).b, e.1 = 64 * 1 + 8 * i) :=
  ⟨agt (fun a => { a with b := (0, (1, true)) :: (List.range 8).map (fun i => (64 + 8 * i, (2, false))) }), rfl, rfl, by decide +kernel,
    by decide +kernel, rfl, by decide +kernel⟩

theorem witness_TileNumbersAreDistinct : dOk (tensor 2) = true ∧ dFlat (tensor 2) = false ∧ inTensor (tensor 2) 0x3_0007 = true ∧
    dOk (tensor 3) = true ∧ dFlat (tensor 3) = false ∧ inTensor (tensor 3) 0x3_0007 = true := by decide +kernel

theorem witness_StrandsCollideExactlyWhenEntriesMeet : 1 < 2 ^ 1 ∧ 15 < 2 ^ 4 ∧ 0 < 2 ^ 0 := by decide +kernel

/-! ### Strand cycles and the weaver -/

/-- A strand cycle of strand 0 whose words have issued. -/
def closing (f : Strand → Strand) : State := { str f with cyc := some ⟨k0, [], true⟩ }

/-- The rows of the partition are those of its quads, none twice. -/
theorem agentsOf_s0 : s0.agentsOf k0 = [⟨0, 0, 0⟩, ⟨0, 0, 1⟩, ⟨0, 0, 2⟩, ⟨0, 0, 3⟩] := by decide +kernel

theorem witness_StrandCyclesAdvanceOrAreUndone :
    (s0.phys = [] ∧ s0.cyc = none ∧ (s0.strand k0).st = .running ∧ (s0.strand k0).replay = none ∧
      ∀ a ∈ s0.agentsOf k0, (s0.agent a).sqr.phase = none) ∧
    (let s := closing id
     s.phys = [] ∧ s.cyc = some ⟨k0, [], true⟩ ∧ (s.strand k0).st = .running ∧
       ∀ a ∈ s.agentsOf k0, (s.agent a).swap = none ∧ (s.agent a).sqr.yield = none ∧ (s.agent a).sqr.phase = none) ∧
    (let s := closing (fun x => { x with st := .frozen, base := [(a0, Agent.init)] })
     s.phys = [] ∧ (s.strand k0).st = .frozen ∧ ((s.strand k0).base.map (·.1)).Nodup ∧ (s.strand k0).rpp = false) ∧
    (let s := closing (fun x => { x with st := .stalled, base := [(a0, Agent.init)], rpp := true })
     (s.strand k0).st = .stalled ∧ (s.strand k0).atEntry = 0 ∧ ((s.strand k0).base.map (·.1)).Nodup ∧ (s.strand k0).rpp = true ∧
       (s.strand k0).cutDone = false) := by
  decide +kernel

/-- A stalled strand whose agent of row 0 waits with a PHASE. -/
def waiting (p : Option PhaseReq) (replay : Option Nat) : State :=
  (str (fun x => { x with st := .stalled, replay := replay })).setAgent a0 { Agent.init with sqr := { Sqr.init with phase := p } }

theorem witness_StalledStrandsTryAgain :
    (∀ p ∈ [none, some ⟨false, true, 0, 0⟩, some ⟨false, true, 1, 0⟩], (waiting p none).phys = [] ∧
      ((waiting p none).strand k0).st = .stalled ∧ (waiting p none).cyc = none ∧ ((waiting p none).strand k0).replay = none ∧
      ((waiting p none).strand k0).atEntry = 0 ∧ ((waiting p none).strand k0).rpp = false) ∧
    (∀ a ∈ (waiting none none).agentsOf k0, ((waiting none none).agent a).sqr.phase = none) ∧
    ((waiting (some ⟨false, true, 0, 0⟩) none).agent a0).sqr.phase = some ⟨false, true, 0, 0⟩ ∧
    ((waiting (some ⟨false, true, 1, 0⟩) none).agent a0).tca < 1 ∧
    (((waiting none (some 9)).strand k0).replay = some 9 ∧ ((waiting none (some 9)).part k0.part).move = none ∧
      ∀ a ∈ (waiting none (some 9)).agentsOf k0, ((waiting none (some 9)).agent a).idleEngines = true) := by decide +kernel

/-- A copy with two retries behind it, one with one, and an engine that is not idle. -/
theorem witness_StalledStrandsTryAgain_replay :
    (∃ s : State, ∃ w, (s.agent a0).swap = some w ∧ 2 ≤ w.retry) ∧ (∃ s : State, ∃ w, (s.agent a0).swap = some w ∧ w.retry < 2) ∧
    (∃ s : State, (s.strand k0).replay = some 9 ∧ (s.agent a0).idleEngines = false ∧ (s.strand k0).atEntry ≠ 2) ∧
    (let s := { (str (fun x => { x with st := .stalled, replay := some 9, atEntry := 2, wstall := 7, l := { x.l with limit := 7 } })).setAgent a0
       { Agent.init with seqA := 1 } with vcps := [(0, { Vcp.init with hold := true })] }
     (s.strand k0).replay = some 9 ∧ a0 ∈ s.agentsOf k0 ∧ (s.agent a0).idleEngines = false ∧ (s.strand k0).atEntry = 2 ∧
       s.limit k0 ≤ (s.strand k0).wstall ∧ (s.vcp (s.strand k0).vcp).hold = true) :=
  ⟨⟨agt (fun a => { a with swap := some ⟨0, 2, a.sqr, a.q, []⟩ }), _, rfl, by decide⟩,
    ⟨agt (fun a => { a with swap := some ⟨0, 1, a.sqr, a.q, []⟩ }), _, rfl, by decide⟩,
    ⟨(waiting none (some 9)).setAgent a0 { Agent.init with seqA := 1 }, by decide +kernel⟩, by decide +kernel⟩

theorem witness_WeaverStepsActOnTheirStrand :
    (let s := { str (fun x => { x with st := .stalled, wstall := 7, l := { x.l with limit := 7 } }) with
       vcps := [(0, { Vcp.init with hold := true })] }
     (s.strand k0).st = .stalled ∧ s.limit k0 ≤ (s.strand k0).wstall ∧ (s.vcp (s.strand k0).vcp).hold = true) ∧
    (let s := str (fun x => { x with st := .stalled, wstall := 7, l := { x.l with limit := 7 } })
     s.limit k0 ≤ (s.strand k0).wstall ∧ (s.vcp (s.strand k0).vcp).hold = false ∧ (s.part k0.part).move = none) ∧
    (let s := str (fun x => { x with evp := true, grace := some 0, rpp := true })
     (s.strand k0).st = .running ∧ (s.strand k0).evp = true ∧ (s.strand k0).grace = some 0 ∧ 0 ≤ s.fab.ftime ∧ (s.strand k0).rpp = true ∧
       (s.strand k0).cutDone = false) ∧
    (let s := str (fun x => { x with st := .frozen, freeze := some (13, 1), evp := true, grace := some 0 })
     (s.strand k0).st = .frozen ∧ (s.strand k0).freeze = some (13, 1) ∧ (s.strand k0).evp = true ∧ (s.strand k0).grace = some 0 ∧
       0 ≤ s.fab.ftime) := by decide +kernel

/-- A budget that no energy reaches and one that any reaches; a strand that may start, with an agent that has begun and one that has not,
one that may not start; a re-phase whose cut is made; a move with a newcomer. -/
theorem witness_FrameBoundariesStretchStartAndCommit : (∀ u : Nat, ∃ b : Nat, 0 + u < b) ∧ (∀ u : Nat, 0 ≤ (s0.part 0).energy + u) ∧
    (s0.part 0).move = none ∧ (s0.strand k0).rpp = false ∧ s0.mayStart k0 = false ∧
    (str (fun x => { x with st := .admitted })).mayStart k0 = true ∧
    (str (fun x => { x with st := .admitted, freeze := some (13, 1) })).mayStart k0 = true ∧
    (let s := str (fun x => { x with st := .rephasing, left := .running, rpp := true, cutDone := true })
     s.moveReady 0 = true ∧ (s.strand k0).rpp = true ∧ (s.strand k0).st = .rephasing ∧ (s.strand k0).left ≠ .admitted) ∧
    (∃ s : State, (s.part 0).move = some ⟨[], some 0, none⟩ ∧ s.moveReady 0 = true) :=
  ⟨fun u => ⟨u + 1, by omega⟩, fun u => Nat.zero_le _, rfl, rfl, by decide +kernel, by decide +kernel, by decide +kernel, by decide +kernel,
    ⟨s0.setPart 0 { s0.part 0 with move := some ⟨[], some 0, none⟩ }, rfl, by decide +kernel⟩⟩

/-! ### Engines -/

/-- A flat td0 of 65,536 bytes whose one frame is machine frame 2; its tile table stands in machine frame 1. -/
def flat0 : Desc := bv 512 (1 + 15 * 2 ^ 32 + 65536 * 2 ^ 64 + 0x12 * 2 ^ 128)

/-- A command of AGEN. -/
def cmd (i : Instr) : ACmd := ⟨1, 0, i, 0, 0, false, 0, Vector.replicate 16 0, ⟨BitVec.allOnes 48, false, 0⟩, 0, 5, 0, ⟨8, 2, false, 50⟩,
  false, 0, 0, [], none, [], none, .none, none, false, false, false⟩

/-- An agent with commands, over memory that holds the tile table of td0. -/
def eng (cs : List ACmd) : State :=
  { s0.setAgent a0 { Agent.init with acmds := cs, seqA := 1, td := Vector.replicate 16 (some flat0) } with
    mem := ⟨[(65536, 0xE3), (65537, 0x01), (65544, 0x34)], []⟩, fmaps := [((0, 0x12), 0xC0000001), ((0, 0x34), 0xC0000002)] }

/-- The table entry with other low bytes, under other frame-map entries, and an agent with commands. -/
def tabs (cs : List ACmd) (lo hi : Byte) (maps : KV (Nat × Nat) Word) : State :=
  { eng cs with mem := ⟨[(65536, lo), (65537, hi), (65544, 0x34)], []⟩, fmaps := maps }

/-- The same with no command. -/
def tab (lo hi : Byte) (maps : KV (Nat × Nat) Word) : State := tabs [] lo hi maps

/-- A field of that table entry. -/
def tabField (s : State) (hi lo : Nat) : Nat := s.mem.num (1 * 65536 + (dTtb flat0 * 65536 + 16 * 0) % 65536) 16 / 2 ^ lo % 2 ^ (hi + 1 - lo)

/-- The frame map of `eng`, without the data frame, and with the data frame write-protected. -/
def maps0 : KV (Nat × Nat) Word := [((0, 0x12), 0xC0000001), ((0, 0x34), 0xC0000002)]

/-- Map entries that are valid, not valid, of a frame elsewhere and with a bit that must be 0; a walk that asks for the table's frame; one
whose entry is not present, of the wrong format, not writable, remote; one that asks for the data frame, that finds it write-protected,
and that ends in it. -/
theorem witness_TileNumbersAreDistinct_walk :
    ((0xC0000001 : Nat) / 2 ^ 31 = 1 ∧ 0xC0000001 / 2 ^ 23 % 2 ^ 7 = 0 ∧ 0xC0000001 % 2 ^ 23 < 8 * 761856 ∧
      (s0.part 0).lay.cgmask.getLsbD (0xC0000001 % 2 ^ 23 / 761856) = true ∧ 0x40000001 / 2 ^ 31 ≠ 1 ∧
      (s0.part 0).lay.cgmask.getLsbD (761856 / 761856) = false ∧ 0xC0800001 / 2 ^ 23 % 2 ^ 7 ≠ 0) ∧
    ((eng []).phys = [] ∧ ({ eng [] with fmaps := [] } : State).stage2 0 0x12 = none ∧
      ∀ lo hi, (tab lo hi maps0).stage2 0 ((dTtb flat0 * 65536 + 16 * 0) / 65536) = some (1, true)) ∧
    tabField (tab 0xE2 1 maps0) 0 0 = 0 ∧
    (let s := tab 0x83 0 maps0
     tabField s 0 0 = 1 ∧ tabField s 127 96 = 0 ∧ tabField s 40 9 = 0 ∧ tabField s 8 5 ≠ dFmt flat0) ∧
    (∀ lo ∈ [(0xE1 : Byte), 0xE3, 0xE7], let s := tab lo 1 maps0
      tabField s 0 0 = 1 ∧ tabField s 127 96 = 0 ∧ tabField s 40 9 = 0 ∧ tabField s 8 5 = dFmt flat0 ∧ tabField s 4 4 = dGeo flat0) ∧
    tabField (tab 0xE1 1 maps0) 1 1 = 0 ∧ tabField (tab 0xE3 1 maps0) 1 1 = 1 ∧ tabField (tab 0xE3 1 maps0) 2 2 = 0 ∧
    tabField (tab 0xE7 1 maps0) 2 2 = 1 ∧ tabField (tab 0xE3 1 maps0) 95 64 = 0x34 ∧
    (tab 0xE3 1 [((0, 0x12), 0xC0000001)]).stage2 0 0x34 = none ∧
    (tab 0xE3 1 [((0, 0x12), 0xC0000001), ((0, 0x34), 0x80000002)]).stage2 0 0x34 = some (2, false) ∧
    (eng []).stage2 0 0x34 = some (2, true) := by
  refine ⟨by decide +kernel, ⟨rfl, by decide +kernel, fun lo hi => ?_⟩, by decide +kernel⟩
  have h : (tab lo hi maps0).stage2 0 ((dTtb flat0 * 65536 + 16 * 0) / 65536) = (eng []).stage2 0 ((dTtb flat0 * 65536 + 16 * 0) / 65536) := rfl
  rw [h]
  decide +kernel

/-- An M8 tensor of 8 × 4 × 1 × 1 tiles whose table stands where td0's does. -/
def tensorM8 : Desc := bv 512 (1 + 4 * 2 ^ 32 + 8 * 2 ^ 64 + 4 * 2 ^ 80 + 2 ^ 96 + 2 ^ 112 + 0x12 * 2 ^ 128)

/-- A flat tensor of two frames, the second machine frame 3. -/
def flat1 : Desc := bv 512 (1 + 15 * 2 ^ 32 + 131072 * 2 ^ 64 + 0x12 * 2 ^ 128)

/-- The table of such a tensor, with a given low byte of its second entry. -/
def tab2 (lo : Byte) (maps : KV (Nat × Nat) Word) : State :=
  { eng [] with mem := ⟨[(65536, 0xE3), (65537, 1), (65544, 0x34), (65552, lo), (65553, 1), (65560, 0x35)], []⟩, fmaps := maps }

/-- Where AGEN's first frame of a tensor lies under such a table. -/
def first (d : Desc) (lo hi : Byte) (maps : KV (Nat × Nat) Word) : Walk := ((tab lo hi maps).translate a0 .agen 0 d 0 true).1

/-- Where its second frame lies. -/
def second (lo : Byte) (maps : KV (Nat × Nat) Word) : Walk :=
  (((tab2 lo maps).translate a0 .agen 0 flat1 0 true).2.translate a0 .agen 0 flat1 1 true).1

/-- A tensor homed elsewhere; a frame that the command has used; every kind of translation, for a flat tensor and a tiled one, and for
a second frame. -/
theorem witness_TileNumbersAreDistinct_translation :
    (dHrem (bv 512 (flat0.toNat + 2 ^ 192)) = true ∧ dHrem flat0 = false ∧ By.agen ≠ .unit) ∧
    ((eng [{ cmd (.sts 1 2 0) with frames := [(0, .here 2)] }]).agent a0).frameUsed .agen 0 = some (.ok 2) ∧ ((eng []).agent a0).frameUsed .agen 0 = none ∧
    first flat0 0xE3 1 maps0 = .ok 2 ∧ first flat0 0xE2 1 maps0 = .fault 8 ∧ first flat0 0xE3 1 [] = .page 1 0x12 ∧
    first flat0 0xE7 1 maps0 = .remote 0 0 false ∧ first tensorM8 0x83 0 maps0 = .ok 2 ∧ first tensorM8 0x82 0 maps0 = .fault 8 ∧
    first tensorM8 0x83 0 [] = .page 1 0x12 ∧ first tensorM8 0x87 0 maps0 = .remote 0 0 false ∧
    second 0xE3 (maps0 ++ [((0, 0x35), 0xC0000003)]) = .ok 3 ∧ second 0xE2 maps0 = .fault 8 ∧ second 0xE3 maps0 = .page 0 0x35 ∧
    second 0xE7 maps0 = .remote 0 0 false := by
  refine ⟨by decide +kernel, by decide +kernel, by decide +kernel, ?_, ?_, ?_, ?_, ?_, ?_, ?_, ?_, ?_, ?_, ?_, ?_⟩ <;> decide +kernel

/-- A range beyond its tensor, one in one frame and one in two; a tile outside its tensor and one inside; an offset of td0 beyond it, one
that is found and one that is not. -/
theorem witness_TileNumbersAreDistinct_places : dSize flat0 < 65536 + 8 ∧
    (65528 + 8 ≤ dSize flat1 ∧ 65528 % 65536 + 8 ≤ 65536 ∧ 65536 < 65532 % 65536 + 8 ∧ 65532 % 65536 + 8 ≤ 131072) ∧
    (dFmt tensorM8 = 4 ∧ dDim tensorM8 (0 : BitVec 2).toNat ≤ (fieldOf 8 (0 : BitVec 2)).toNat ∧
      ∀ j : BitVec 2, (fieldOf 0x3_0007 j).toNat < dDim tensorM8 j.toNat) ∧
    (dSize flat0 ≤ 65536 ∧ 8 < dSize flat0 ∧ ((eng []).walk 0 flat0 (8 / 65536) false).1.1 = .ok 2 ∧
      (({ eng [] with fmaps := [] } : State).walk 0 flat0 (8 / 65536) false).1.1 = .page 1 0x12) := by decide +kernel

/-- The word at offset 0 of td0 lies at the start of machine frame 2 (R227, R231). -/
theorem flatLoc_eng : (∀ wr : Bool, ((eng []).flatLoc a0 .agen 0 flat0 0 8 wr).1 = .runs [(131072, 8)]) ∧
    ((eng []).flatLoc a0 .agen 0 flat0 0 8 true).2.phys = [] := by decide +kernel

theorem pair_of_fst {α β : Type} {p : α × β} {a : α} (h : p.1 = a) : p = (a, p.2) := by rw [← h]

theorem witness_AgenPerformsItsHeadCommand :
    (s0.agent a0).acmds = [] ∧
    (∀ i ∈ [Instr.sts 1 2 0, .lds false 2 0, .atadd { atom0 with ac := 0 }, .atcas { atom0 with wid := .w128 }, .arow 4 0 1 0 false,
        .tdesc 1 xfer0, .pref xfer0, .feed 0 xfer0, .tld 0 0 { xfer0 with wtk := true }],
      let s := eng [cmd i]
      let u := s.begin_ a0
      (s.agent a0).acmds = [cmd i] ∧ (s.agent a0).haltA = false ∧ (cmd i).held = false ∧ (s.strand a0.sk).enginesRun = true ∧
        (cmd i).page = .none ∧ (cmd i).fin = false ∧ (s.agent a0).q.q8.length < 255 ∧ (u.agent a0).td[(0 : Fin 16)] = some flat0 ∧
        dFlat flat0 = true ∧ (cmd i).addr.toNat % 8 = 0 ∧ s.phys = [] ∧ (cmd i).acc = none ∧ (cmd i).rem = none) ∧
    (let c := cmd (.tld 0 0 { xfer0 with wtk := true })
     c.wtk = true ∧ c.took = false ∧ (eng [c]).me.q.q9 = 0 ∧
       0 < ((eng [c]).setAgent a0 { (eng [c]).agent a0 with q := { (eng [c]).me.q with q9 := 1 } }).me.q.q9) ∧
    (∀ wr : Bool, ((eng [cmd (.lds false 2 0)]).begin_ a0).flatLoc a0 .agen 0 flat0 0 8 wr =
      (.runs ((131072, 8) :: []), (((eng [cmd (.lds false 2 0)]).begin_ a0).flatLoc a0 .agen 0 flat0 0 8 wr).2)) ∧
    ((cmd (.tdesc 1 xfer0)).wtk = false ∧ ((eng []).strand a0.sk).l.catn ≤ bits ((cmd (.tdesc 1 xfer0)).acVal xfer0) 15 0) ∧
    (∃ s : State, s.phys = [] ∧ ∀ p : Bool, ∃ r : State,
      ((r.agent a0).engineRead (r.strand a0.sk).serial a0.row 0 false 1 r.fresh (.row 1)).pois = p) :=
  ⟨rfl, by decide +kernel, by decide +kernel, fun wr => pair_of_fst (by cases wr <;> decide +kernel), by decide +kernel,
    ⟨s0, rfl, fun p => ⟨agt (fun a => { a with cores := [(0, { Core.init with rows := [(1, ⟨0, p⟩)] })] }), by cases p <;> decide +kernel⟩⟩⟩

/-- Where STS's word at an offset of td0 lies under a table entry. -/
def stsLoc (y : Nat) (lo hi : Byte) (maps : KV (Nat × Nat) Word) : Loc :=
  (((tabs [{ cmd (.sts 1 2 0) with addr := bv 64 y }] lo hi maps).begin_ a0).flatLoc a0 .agen 0 flat0 y 8 true).1

/-- A slot not loaded, and one with a tiled tensor; misaligned beyond the tensor; an entry of the wrong format, for an aligned and a
misaligned address; beyond the tensor; the table's page and the data's page not here; a remote frame that may move and one that may not;
a misaligned address that is found. -/
theorem witness_AgenPerformsItsHeadCommand_places :
    (let s := s0.setAgent a0 { Agent.init with acmds := [cmd (.sts 1 2 0)], seqA := 1 }
     (s.agent a0).acmds = [cmd (.sts 1 2 0)] ∧ ((s.begin_ a0).agent a0).td[(0 : Fin 16)] = none ∧
       ((s.begin_ a0).agent a0).td[(0 : BitVec 4).toFin] = none ∧ dFlat (tensor 2) = false) ∧
    (65531 % 8 ≠ 0 ∧ dSize flat0 < 65531 + 8 ∧ 4 % 8 ≠ 0 ∧ 4 + 8 ≤ dSize flat0) ∧
    stsLoc 0 0x83 0 maps0 = .fault 4 ∧ stsLoc 4 0x83 0 maps0 = .fault 4 ∧ stsLoc 65536 0xE3 1 maps0 = .fault 6 ∧
    stsLoc 4 0xE3 1 [] = .page 1 0x12 ∧ stsLoc 0 0xE3 1 [((0, 0x12), 0xC0000001)] = .page 0 0x34 ∧
    stsLoc 0 0xE7 1 maps0 = .remote 0 0 false ∧ stsLoc 0 0xEF 1 maps0 = .remote 0 0 true ∧ stsLoc 4 0xE3 1 maps0 = .runs [(131076, 8)] := by
  refine ⟨by decide +kernel, by decide +kernel, ?_, ?_, ?_, ?_, ?_, ?_, ?_, ?_⟩ <;> decide +kernel

/-- A DRAIN whose offset is y, and where its item lies. -/
def drainAt (y : Nat) : ACmd := { cmd (.drain false xfer0) with a := Vector.replicate 16 (bv 64 y) }

def drainLoc (y : Nat) (lo hi : Byte) (maps : KV (Nat × Nat) Word) : Loc :=
  let c := drainAt y
  (((tabs [c] lo hi maps).begin_ a0).agenLoc a0 xfer0 flat0 (itemCoord c xfer0 c.rank c.item) (xferOff c xfer0 flat0) (xferSize c xfer0 flat0)
    (isStore c.ins)).1

/-- An item of TLD whose rows pass the window; items of DRAIN that are misaligned, in the tensor and beyond it, with a table entry of the wrong
format, on a page that is not here, and found. -/
theorem witness_AgenPerformsItsHeadCommand_checks :
    (let c := { cmd (.tld 0 0 xfer0) with a := (Vector.replicate 16 0).set 0 0x103F_F000_0000_0000 }
     ((eng [c]).agent a0).itemCheck x0.l c xfer0 c.rank = some 7 ∧ c.acc = none ∧ c.rem = none ∧
       xferOff c xfer0 flat0 + xferSize c xfer0 flat0 ≤ dSize flat0 ∧ (xferCols c)[c.rank]? = some 0) ∧
    (∀ y ∈ [4, 65532], ((eng [drainAt y]).agent a0).itemCheck x0.l (drainAt y) xfer0 0 = some 5) ∧
    (xferOff (drainAt 4) xfer0 flat0 + xferSize (drainAt 4) xfer0 flat0 ≤ dSize flat0 ∧
      dSize flat0 < xferOff (drainAt 65532) xfer0 flat0 + xferSize (drainAt 65532) xfer0 flat0) ∧
    drainLoc 4 0x83 0 maps0 = .fault 4 ∧ drainLoc 4 0xE3 1 [] = .page 1 0x12 ∧ drainLoc 4 0xE3 1 maps0 = .runs [(131076, 256)] := by
  refine ⟨by decide +kernel, by decide +kernel, by decide +kernel, ?_, ?_, ?_⟩ <;> decide +kernel

/-- An atomic of 8 bytes and one of 16 at the start of td0. -/
theorem witness_AgenPerformsItsHeadCommand_atomics : ∀ i ∈ [Instr.atadd { atom0 with ac := 0 }, .atcas { atom0 with ac := 0, wid := .w128 }],
    ∃ x, atomOf i = some x ∧ bits (cmd i).a[x.ac.toFin] 47 0 % AWid.bytes x.wid = 0 ∧ 131072 % AWid.bytes x.wid = 0 ∧
      (let r := ((eng [cmd i]).begin_ a0).flatLoc a0 .agen x.td.toNat flat0 0 (AWid.bytes x.wid) true
       r.1 = .runs [(131072, AWid.bytes x.wid)] ∧ r.2.phys = [] ∧ r.2.mem.wf = true) := by
  intro i hi
  have hi : i = .atadd { atom0 with ac := 0 } ∨ i = .atcas { atom0 with ac := 0, wid := .w128 } := by simpa using hi
  rcases hi with rfl | rfl
  · exact ⟨_, rfl, by decide +kernel⟩
  · exact ⟨_, rfl, by decide +kernel⟩

/-- A command whose item lies elsewhere and whose bytes have come, or been written there. -/
def brought (i : Instr) (b : List PByte) : ACmd := { cmd i with rem := some ⟨0, some b, none⟩ }

/-- Whatever the item, its bytes are those that came; a store that was answered has performed. -/
theorem brought_performs (s : State) (i : Instr) (b b' : List PByte) (f : Xfer) (d : Desc) (x : Word) (off size col : Nat) :
    (s.agenLoad a0 (brought i b) f d x off size col).1 = some b ∧ (s.agenStore a0 (brought i b) f d x off col b').1 = true := ⟨rfl, rfl⟩

/-- A catalogue entry that is accepted and one that is not; columns to do and none; an item that fails a check, one that fails none, and
one with beats taken; an item of DRAIN that lies in one run; the last piece of an access. -/
theorem witness_AgenPerformsItsHeadCommand_items :
    (dOk (bv 512 (natOfBytes (bytesOf 64 flat0.toNat))) = true ∧ dOk (bv 512 (natOfBytes (bytesOf 64 0))) = false) ∧
    (let s := str (fun x => { x with l := { x.l with catn := 1 } })
     bits ((cmd (.tdesc 1 xfer0)).acVal xfer0) 15 0 < (s.strand a0.sk).l.catn) ∧
    ((xferCols (cmd (.tld 0 0 xfer0)))[0]? = some 0 ∧ (xferCols { cmd (.tld 0 0 xfer0) with rank := 48 })[48]? = none) ∧
    (let c := cmd (.feed 0 xfer0)
     ((eng [c]).agent a0).itemCheck x0.l c xfer0 0 = none ∧ ((agt id).agent a0).itemCheck x0.l c xfer0 0 = some 1 ∧
       (brought (.feed 0 xfer0) []).acc = none ∧ (brought (.feed 0 xfer0) []).rem.isSome = true ∧
       ({ c with buf := [Beat.empty] } : ACmd).buf ≠ []) ∧
    (let c := cmd (.drain false xfer0)
     let r := ((eng [c]).begin_ a0).agenLoc a0 xfer0 flat0 0 0 256 true
     c.buf.length < (shapeOf (dFmt flat0)).beats ∧ r.1 = .runs [(131072, 256)] ∧ r.2.phys = [] ∧
       (shapeOf (dFmt flat0)).beats ≤ ({ c with buf := [Beat.empty] } : ACmd).buf.length) ∧
    (⟨[(131072, 8)], [], 0⟩ : Access).todo = [(131072, 8)] := by decide +kernel

/-- A command of XCHG to endpoint 0. -/
def xcmd (i : Instr) : XCmd := ⟨1, 0, i, 0, 0, false, 0, 0, 0, 0, 0, ⟨4, 2, true, 100⟩, false, false, false, 0, false, [], 0, 0, 0, false, false,
  false, false, false, none, [], .none, false, false, false⟩

/-- An agent with commands in XCHG at a device of a system of one. -/
def xch (cs : List XCmd) : State :=
  { s0.setAgent a0 { Agent.init with xcmds := cs, seqX := 1 } with fab := { Fabric.init with fabid := 0x100000, written := true } }

theorem witness_XchgPerformsTheCommand :
    (s0.agent a0).xcmds.find? (fun c => c.seq = 1) = none ∧
    (∀ i ∈ [Instr.recv .q12 0, .rcancel .q12 0, .xat { xmsg0 with len64 := 1, tok := false }, .xrd xmsg0, .send xmsg0, .xwr xmsg0],
      let s := xch [xcmd i]
      (s.agent a0).xcmds.find? (fun c => c.seq = 1) = some (xcmd i) ∧ (s.agent a0).haltX = false ∧ (s.agent a0).heldBack 1 = false ∧
        (xcmd i).held = false ∧ (xcmd i).page = .none ∧ (xcmd i).fin = false ∧ (s.strand a0.sk).enginesRun = true ∧ (xcmd i).wtk = false ∧
        (xcmd i).sent = false ∧ (xcmd i).acc = none ∧ (xcmd i).lostRep = false ∧ 0 < (xcmd i).crt.k ∧
        s.badEndpoint (xcmd i).ae false = false ∧ lKind (xcmd i).asrc < 2 ∧ lKind (xcmd i).adst ≠ 15 ∧ s.phys = []) ∧
    (s0.badEndpoint 0 false = true) ∧ (∃ o : XCmd, o.delivering = false ∧ decide (o.seq < 2) = true ∧ o.ins = .recv .q12 0 ∧ o.fin = false) :=
  ⟨rfl, by decide +kernel, by decide +kernel, ⟨xcmd (.recv .q12 0), rfl, rfl, rfl, rfl⟩⟩

/-- A finished command at the head, with room for its token and without; a token to take; a place in core storage, one that fails, one
in device memory; a message of 2,048 bytes for a code of four fragments, and one that is too long for its code. -/
theorem witness_XchgPerformsTheCommand_places :
    (let c := { xcmd (.xwr xmsg0) with fin := true }
     (xch [c]).me.xcmds = c :: [] ∧ c.seq = 1 ∧ (xch [c]).me.heldBack 1 = false ∧ ¬ (c.tok = true ∧ 255 ≤ (xch [c]).me.q.q10.length)) ∧
    (let c := xcmd (.xwr { xmsg0 with wtk := true })
     c.wtk = true ∧ c.took = false ∧ (xch [c]).me.q.q11 = 0) ∧
    (let s := xch [xcmd (.send xmsg0)]
     (s.place a0 true 1 0 2048 32 [0, 1, 2, 3] false).1 = .runs [] ∧ (s.place a0 true 1 1 2048 32 [0, 1, 2, 3] true).1 = .fault 5 ∧
       64 * xmsg0.len64.toNat ≤ 512 * (xcmd (.send xmsg0)).crt.k ∧ 512 * (xcmd (.send xmsg0)).crt.k < 64 * 64) ∧
    lKind 0x2000_0000_0000_0000 = 2 := by decide +kernel

/-- With no TDESC unobserved, a slot holds one descriptor. -/
theorem tdAny_quiet (a : Agent) (n : Nat) (t : BitVec 4) (h : a.tdAlt = []) : a.tdAny n t = a.td[t.toFin] := by
  simp [Agent.tdAny, h, choose, Nat.mod_one]

/-- An aligned place inside a flat tensor lies where the translation of its offset says. -/
theorem place_flat (s : State) (k : AgentKey) (own : Bool) (n : Nat) (l : Word) (len al : Nat) (kinds : List Nat) (wr : Bool) (d : Desc)
    (hAlt : (s.agent k).tdAlt = []) (htd : (s.agent k).td[(lTd l).toFin] = some d) (hk : lKind l = 2) (hkinds : kinds.contains 2 = true)
    (hd : dFlat d = true) (ha : bits l 47 0 % al = 0) (hs : bits l 47 0 + len ≤ dSize d) :
    s.place k own n l len al kinds wr = s.flatLoc k (.xchg (if own then some n else none)) (lTd l).toNat d (bits l 47 0) len wr := by
  have hc : (s.agent k).placeCheck (s.strand k.sk).l n l len al kinds = none := by
    unfold Agent.placeCheck
    simp only [tdAny_quiet _ _ _ hAlt, htd, hk]
    simp [List.contains_iff_mem.mp hkinds, hd, ha]
    omega
  unfold State.place State.placeLoc
  simp only [hc, hk, tdAny_quiet _ _ _ hAlt, htd]
  rfl

/-- A tensor place of 64 bytes at the start of td0. -/
theorem place_eng : ((eng []).place a0 true 1 0x2000_0000_0000_0000 64 32 [0, 1, 2, 3] false).1 = .runs [(131072, 64)] := by
  rw [place_flat (eng []) a0 true 1 0x2000_0000_0000_0000 64 32 [0, 1, 2, 3] false flat0 rfl (by decide +kernel) (by decide +kernel)
    (by decide +kernel) (by decide +kernel) (by decide +kernel) (by decide +kernel)]
  decide +kernel

/-- A read of a word that the agent has not written, with no errors and no other writes about, gives what its view has. -/
theorem memRead_quiet (s : State) (k : AgentKey) (a : Nat) (hb : KV.get? (s.agent k).b a = none) (hp : s.phys = []) (hw : s.wlog = []) :
    (s.memRead k a).1 = ((s.agent k).v.mem.word a, (s.agent k).v.mem.poisAt a) := by
  have hl : s.lineLost a = false := by simp [State.lineLost, hp, devErrs]
  have ht : s.touch a = s := by simp [State.touch, hp, devErrs]
  unfold State.memRead
  rw [hb]
  simp [hl, ht, State.draw, State.race, hw, choose, racing, Nat.mod_one]
  exact ⟨rfl, rfl⟩

/-- The last piece of an item of an overlay's image completes it. -/
theorem overlayItem_last (s : State) (a : AgentKey) (o : Overlay) (d : Desc) (x n : Nat) (c : Access) (p : Nat × Nat) (hc : o.acc = some c)
    (hp : c.todo = [p]) : ∃ b, (s.overlayItem a o d x n).1 = some (.ok (c.got ++ b)) := by
  have hd : ∀ g, ({ c with got := g, put := c.put + 1 } : Access).todo = [] := by
    intro g
    have h := congrArg (List.drop 1) hp
    simpa [Access.todo, List.drop_drop] using h
  simp [State.overlayItem, hc, State.readOn, State.some_, hp, State.draw, Nat.mod_one, Access.finished, hd]

/-- A misaligned address; an absent strand; an aligned one, whose place lies in td0, beyond it, and on a page that is not here. -/
theorem witness_OverlayLoadsFillTheOtherBank :
    (let o : Overlay := ⟨4, 0, none, false, none, .none, []⟩
     ((sOvly o []).agent a0).sqr.ovly = some o ∧ o.done = false ∧ o.page = .none ∧ o.addr.toNat % 8 ≠ 0 ∧ ((sOvly o []).strand a0.sk).enginesRun = true ∧
       (((sOvly o []).begin_ a0).agent a0).td[(0 : Fin 16)] = none) ∧
    (s0.strand ⟨0, 1⟩).enginesRun = false ∧
    (let s := (eng []).begin_ a0
     (s.agent a0).td[(0 : Fin 16)] = some flat0 ∧
       (s.flatLoc a0 .overlay 0 flat0 0 8 false).1 = .runs [(131072, 8)] ∧ (s.flatLoc a0 .overlay 0 flat0 65536 8 false).1 = .fault 6) ∧
    (match (({ eng [] with fmaps := [] } : State).flatLoc a0 .overlay 0 flat0 0 8 false).1 with | .page .. => true | _ => false) = true ∧
    (match (({ eng [] with mem := ⟨[(65536, 0xE7), (65537, 0x01), (65544, 0x34)], []⟩ } : State).flatLoc a0 .overlay 0 flat0 0 8 false).1 with
      | .remote .. => true | _ => false) = true := by decide +kernel

/-- A header of one byte less to come: 0, a length in the window, one beyond it, and one that no image has. -/
theorem witness_OverlayLoadsFillTheOtherBank_header : ∀ g ∈ [0, 1, 1001, 16385],
    let c : Access := ⟨[(131072, 3)], (bytesOf 8 g).map (fun b => (b, false)), 0⟩
    c.todo = [(131072, 3)] ∧ natOfBytes (c.got.map (·.1)) = g := by decide +kernel

theorem witness_EngineServiceActsOnItsAgent : (∀ r ∈ (s0.strand a0.sk).recs, r.cause ≠ 8) ∧
    (∃ s : State, ∃ r : FaultRec, (s.strand a0.sk).recs.filter (isHaltRec a0 false 1) = [] ++ [r] ∧ r.cause = 8) ∧
    (let c := { cmd (.sts 1 2 0) with fin := true }
     ((eng [c]).agent a0).acmds.all (fun c => c.page != .moving) = true ∧
       (((eng [c]).strand a0.sk).enginesRun && (eng [c]).engineReady a0 false) = true ∧
       (((eng []).strand a0.sk).enginesRun && (eng []).engineReady a0 false) = false) :=
  ⟨by decide +kernel, ⟨str (fun x => { x with recs := [{ FaultRec.zero with kind := 9, cause := 8, rep := 2, seq := 1 }] }), _, rfl, rfl⟩,
    by decide +kernel⟩

/-- A command that waits for a frame whose entry says it is elsewhere, with a local frame to be had and with none. -/
theorem witness_EngineServiceActsOnItsAgent_moving :
    (let c := { cmd (.sts 1 2 0) with page := .moving }
     let s := { eng [c] with mem := ⟨[(65536, 0xE7), (65537, 0x01), (65544, 0x34)], []⟩ }
     (s.agent a0).acmds = c :: [] ∧ (s.agent a0).td[(0 : Fin 16)] = some flat0 ∧ s.phys = [] ∧ s.mem.wf = true ∧
       s.stage2 0 ((dTtb flat0 * 65536 + 16 * (c.addr.toNat / 65536)) / 65536) = some (1, true) ∧
       (s.mem.word (1 * 65536 + (dTtb flat0 * 65536 + 16 * (c.addr.toNat / 65536)) % 65536)).getLsbD 2 = true ∧ s.localFrames 0 ≠ [] ∧
       ({ s with fmaps := [((0, 0x12), 0x80000001)] } : State).localFrames 0 = [] ∧
       ({ s with fmaps := [((0, 0x12), 0x80000001)] } : State).stage2 0 0x12 = some (1, false) ∧ c.bring = none ∧
       ({ c with bring := some ⟨.engineResume a0 false, true, [], [(131072, 5, false)], 0⟩ } : ACmd).bring =
         some ⟨.engineResume a0 false, true, [], [(131072, 5, false)], 0⟩) := by decide +kernel

/-- A word of strand cycle 0 at stride 16: its dispute acts while strand cycle 1 is to come, and not before its detection. -/
theorem witness_EngineServiceActsOnItsAgent_shadow :
    (let s := { (eng [cmd (.sts 1 2 0)]).setAgent a0 { (eng [cmd (.sts 1 2 0)]).agent a0 with recent := [⟨0, .agen, 5, false, 0⟩] } with
       strands := [(k0, { x0 with stime := 1 })] }
     (s.agent a0).issuedWord .agen 0 = some ⟨0, .agen, 5, false, 0⟩ ∧ 0 < (s.strand a0.sk).stime ∧
       (s.strand a0.sk).stime ≤ 0 + (4 + 2 ^ (4 : BitVec 3).toNat) / 2 ^ (4 : BitVec 3).toNat ∧ s.cyc = none ∧ (s.strand a0.sk).st = .running) ∧
    0 + (4 + 16) / 16 < 2 := by decide +kernel

/-- A command that its engine has begun; a strand that re-phases, one with a re-phase pending, one that is being evicted and one that has
halted; results that landed. -/
theorem witness_EngineServiceActsOnItsAgent_unsent :
    (let w : Issued := ⟨0, .agen, 5, false, (encode 0 (.drain false xfer0)).headD 0⟩
     let c := { cmd (.drain false xfer0) with raw := w.word, sc := 0 }
     isCommand w.word = true ∧ ((eng [c]).agent a0).unsent .agen w = true ∧
       ((eng [{ c with rank := 1, acc := some ⟨[], [], 0⟩ }]).agent a0).unsent .agen w = false) ∧
    (∀ st ∈ [SState.rephasing, .evicting, .evicted, .admitted, .halted], ((str (fun x => { x with st := st })).strand k0).st = st ∧ st ≠ .absent) ∧
    (let x := (str (fun x => { x with rpp := true })).strand k0
     x.st ∈ [SState.running, .stalled, .frozen] ∧ x.rpp = true ∧ x.cutDone = false) ∧
    (let s := agt (fun a => { a with landed := [(0, 3, .row 7)] })
     (s.agent a0).landed = [] ++ (0, 3, .row 7) :: [] ∧ ∀ f ∈ ([] : List (Nat × Nat × Place)), f.2 ≠ (3, .row 7)) := by decide +kernel

/-- A strand whose four rows have halted, with something left in the engines of row 0, or nothing. -/
def ended (f : Strand → Strand) (xs : List XCmd) : State :=
  { str f with agents := (s0.agentsOf k0).map (fun a =>
      (a, { Agent.init with sqr := { Sqr.init with halted := true }, xcmds := if a.row = 0 then xs else [] })) }

theorem witness_LaunchesEndInTwoSteps :
    (let s := ended id []
     (s.strand k0).st = .running ∧ (s.strand k0).rpp = false ∧
       ∀ a ∈ s.agentsOf k0, (s.agent a).rowHalted = true ∧ (s.agent a).acmds = [] ∧ (s.agent a).xcmds = []) ∧
    (let s := ended (fun x => { x with rpp := true }) []
     (s.strand k0).rpp = true ∧ (s.strand k0).cutDone = false ∧ ∀ a ∈ s.agentsOf k0, (s.agent a).rowHalted = true) ∧
    ((s0.strand k0).st = .running ∧ (s0.agent a0).rowHalted = false ∧ a0 ∈ s0.agentsOf k0) ∧
    SState.frozen ∉ [SState.running, .halted] ∧ ((ended (fun x => { x with st := .halted, cutDone := true }) []).strand k0).cutDone = true ∧
    ((ended (fun x => { x with st := .halted }) []).strand k0).finalDone = false := by decide +kernel

/-- An XWR whose reports are out holds the end of its launch back. -/
theorem witness_LaunchesEndInTwoSteps_waits : ∃ a ∈ (ended id [xcmd (.xwr xmsg0)]).agentsOf k0,
    ∃ c ∈ ((ended id [xcmd (.xwr xmsg0)]).agent a).xcmds, c.fin = false ∧ ∀ d g, c.ins ≠ .recv d g :=
  ⟨a0, by decide +kernel, xcmd (.xwr xmsg0), List.mem_singleton.mpr rfl, rfl, fun _ _ => nofun⟩

/-- A halted strand whose counters stand in td0. -/
def counting (gcnt jcnt : Nat) : State :=
  { eng [] with strands := [(k0, { x0 with
    st := .halted, finalDone := true, l := { x0.l with td0 := flat0, ccnt := 64, gcnt := gcnt, jcnt := jcnt } })] }

theorem witness_LaunchesEndInTwoSteps_counters : ∀ g ∈ [0, 128], ∀ j ∈ [0, 192],
    let s := counting g j
    let add := fun (u : State) (b : Nat) => u.gWrite [(b, u.mem.word b + 1, u.mem.poisAt b)]
    (s.strand k0).st = .halted ∧ (s.strand k0).cutDone = false ∧ (s.strand k0).finalDone = true ∧ (s.strand k0).work = none ∧ s.phys = [] ∧
      s.mem.wf = true ∧ (s.td0Addr 0 flat0 64).1 = some 131136 ∧ ((add s 131136).td0Addr 0 flat0 128).1 = some 131200 ∧
      ((add s 131136).td0Addr 0 flat0 192).1 = some 131264 ∧ ((add (add s 131136) 131200).td0Addr 0 flat0 192).1 = some 131264 := by
  decide +kernel

/-- A launch whose first counter has been added to by a step of its own. -/
theorem witness_LaunchesEndInTwoSteps_begun :
    let w : Work := ⟨.launchEnd k0, true, [], [(128, 1, false)], 0⟩
    let s := { counting 128 0 with strands := [(k0, { (counting 128 0).strand k0 with work := some w })] }
    (s.strand k0).st = .halted ∧ (s.strand k0).cutDone = false ∧ (s.strand k0).finalDone = true ∧ (s.strand k0).work = some w ∧
      w.ins = .launchEnd k0 ∧ w.begun = true := by decide +kernel

/-! ### The fabric -/

/-- A fragment of a message of two data fragments and one parity fragment, from row 1 to row 0 of strand 0. -/
def frag : Frag := { fragZero with k := 2, m := 1, srow := 1, plane := 0 }

/-- The check word does not cover itself (R264). -/
theorem fragCrc_crc (f : Frag) (c : BitVec 32) : fragCrc { f with crc := c } = fragCrc f := by
  simp only [fragCrc, headFields, payloadBytes]

theorem fragCrc_sealFrag (f : Frag) : (sealFrag f).crc = fragCrc (sealFrag f) := (fragCrc_crc f (fragCrc f)).symm

theorem fragCrc_spoilt (f : Frag) : ({ f with crc := fragCrc f + 1 } : Frag).crc ≠ fragCrc { f with crc := fragCrc f + 1 } := by
  rw [fragCrc_crc f (fragCrc f + 1)]
  generalize fragCrc f = c
  bv_omega

/-- The fabric of partition 0: its share, its ports and what waits. -/
def fab (share : BitVec 5) (ports : BitVec 2) (f : Fabric → Fabric) : State :=
  { s0 with parts := [(0, { Part.init with lay := { lay0 with pshare := share } })]
            fab := f { Fabric.init with ports := Vector.replicate 32 ports } }

/-- A fragment that waits to leave. -/
def out0 (charged : Bool) : OutFrag := ⟨0, charged, false, none, none, frag⟩

/-- An over-quota fragment ahead of one that stays within the device; planes down and up; a fragment for a group. -/
theorem witness_FragmentsLeaveAndArrive :
    (let s := fab 0 1 (fun x => { x with outq := [out0 true] })
     s.fab.outq.all (fun o => !s.mayLeave 0 0 0 o) = true ∧ s.underQuota 0 0 0 = false) ∧
    (let o := { out0 true with within := true }
     let s := fab 0 1 (fun x => { x with outq := [out0 true] ++ o :: [] })
     s.mayLeave 0 0 0 (out0 true) = false ∧ s.mayLeave 0 0 0 o = true ∧ o.owner = none ∧ o.within = true) ∧
    ((fab 0 0 id).mayLeave 0 0 0 (out0 true) = true ∧ (fab 0 0 id).planeDown 0 = true ∧ (out0 true).within = false) ∧
    ((fab 16 1 id).mayLeave 0 0 0 (out0 true) = true ∧ (fab 16 1 id).planeDown 0 = false ∧ (fab 0 1 id).mayLeave 0 0 0 (out0 false) = true) ∧
    (frag.grp = false ∧ ({ frag with grp := true } : Frag).grp = true) ∧
    (62 ≤ ({ frag with hops := 62 } : Frag).hops.toNat ∧ ({ frag with hops := 61 } : Frag).hops.toNat < 62) := by decide +kernel

/-- Fragments that are held for another plane and for a later time, one that is due between them, and two that are due at once. -/
theorem witness_FragmentsLeaveAndArrive_held :
    (∀ d ∈ (fab 0 0 (fun x => { x with delayed := [⟨1, 0, frag⟩, ⟨0, 1, frag⟩] })).fab.delayed, d.plane ≠ 0 ∨ 0 < d.until_) ∧
    (∀ e ∈ [(⟨0, 0, { frag with fidx := 2 }⟩ : Delayed), ⟨1, 0, frag⟩], e.plane = 0 → e.until_ ≤ 0 → frag.fidx.toNat < e.f.fidx.toNat) ∧
    diagMatch 0xC000_0000_0000_0001 frag = true ∧ diagMatch 0 frag = false := by decide +kernel

/-- What becomes of a fragment that is well-formed or not, that no agent takes, that comes in time or late, with a share free and none. -/
theorem witness_FragmentsLeaveAndArrive_handled :
    (malformed { frag with k := 0 } = true ∧ malformed frag = false) ∧ (∀ a ∈ s0.fab.acc, a.key ≠ fragKey frag) ∧
    (s0.admitted (fragDst frag) = true ∧ ({ s0 with strands := [] } : State).admitted (fragDst frag) = false ∧ isItem none frag = false) ∧
    (frag.op = 0 ∧ frag.rty = false ∧ s0.slot? (fragKey frag) = none ∧ 1 < frag.k.toNat) ∧
    (s0.passedBefore 0 0xFFFF = true ∧ s0.passedBefore 0 0 = false) ∧ ((fab 0 0 id).shareFree 0 true = false ∧ (fab 1 0 id).shareFree 0 true = true ∧
      (fab 0 0 id).shareFree 0 false = false ∧ (fab 1 0 id).shareFree 0 false = true) ∧
    (∃ a : Accession, a.key = fragKey frag ∧ a.later = true) := by
  refine ⟨by decide +kernel, by decide +kernel, by decide +kernel, by decide +kernel, by decide +kernel, by decide +kernel,
    ⟨⟨fragKey frag, 0, 0, false, true, 0⟩, rfl, rfl⟩⟩

/-- A fragment that came within the device, after another, and one that did not. -/
theorem witness_FragmentsLeaveAndArrive_inside : (8 ≤ 8 ∧ 7 < 8) ∧
    (let o := { out0 false with within := true }
     let e := { o with f := { frag with fidx := 1 } }
     (s0.fab.inside.all (fun e => e.f != frag)) = true ∧ ([e] ++ o :: []).length = 2 ∧ o.f = frag ∧ ∀ d ∈ [e], d.f ≠ frag) ∧
    (let o : Origin := ⟨0, 1, 0, some (0, 64)⟩
     s0.admitted (fragDst frag) = true ∧ ({ s0 with strands := [] } : State).admitted (fragDst frag) = false ∧
       isItem (some o) { frag with op := 1 } = true) := by decide +kernel

/-- A fragment with a good check word and one with a bad one, the bad one also delayed. -/
theorem witness_FragmentsLeaveAndArrive_crc : (∃ f : Frag, f.crc = fragCrc f ∧ f.k = 2) ∧
    (∃ d : Delayed, d.plane = 0 ∧ d.until_ ≤ s0.fab.ftime ∧ d.f.crc ≠ fragCrc d.f) :=
  ⟨⟨sealFrag frag, fragCrc_sealFrag frag, rfl⟩, ⟨⟨0, 0, { frag with crc := fragCrc frag + 1 }⟩, rfl, Nat.le_refl _, fragCrc_spoilt frag⟩⟩

/-- A decode slot of a message of 64 bytes. -/
def slot (f : Frag) (st : SlotState) : Slot := ⟨fragKey f, 0, none, st, f, [f], f.dtime, f.rty, none, false, false, true, List.replicate 64 0, [false],
  0, none, none, .none⟩

/-- A device with a slot, and an agent with one XCHG command. -/
def rcv (x : Slot) (c : List XCmd) : State :=
  { s0.setAgent a0 { Agent.init with xcmds := c } with fab := { Fabric.init with slots := [x], ftime := 100 } }

/-- An RCV that is posted. -/
def recv0 : XCmd := { xcmd (.recv .q12 0) with started := true }

/-- A slot that collects, with one fragment of two, and the next fragment; one that waits for a resend; one that is full. -/
theorem witness_FragmentsLeaveAndArrive_slots :
    (let x := slot frag .collecting
     (rcv x []).slot? (fragKey frag) = some x ∧ x.part = 0 ∧ x.resendBy = none ∧ x.frags.length < x.hdr.k.toNat ∧
       (∀ g ∈ x.frags, g.fidx ≠ ({ frag with fidx := 1 } : Frag).fidx) ∧ x.frags.length + 1 = x.hdr.k.toNat) ∧
    (let x := slot { frag with k := 3 } .collecting
     x.frags.length + 1 < x.hdr.k.toNat) ∧
    (let x := { slot { frag with k := 3 } .collecting with resendBy := some 100 }
     x.resendBy.isSome = true ∧ x.gotResent = false ∧ frag.rty = false ∧ x.frags.length + 1 < x.hdr.k.toNat) := by decide +kernel

theorem witness_MessagesAreDeliveredResentOrLost :
    (rcv (slot frag .collecting) []).slot? (fragKey frag) = some (slot frag .collecting) ∧
    (let x := slot frag .decoded
     let s := rcv x [recv0]
     s.slot? (fragKey frag) = some x ∧ x.st = .decoded ∧ x.page = .none ∧ x.entered = true ∧ (s.strand (fragDst x.hdr).sk).enginesRun = true ∧
       x.hdr.op = 0 ∧ x.prog = 0 ∧ x.rty = false ∧ (s.agent (fragDst x.hdr)).recvFor x = some recv0 ∧ recv0.ins = .recv .q12 0 ∧
       (s.agent (fragDst x.hdr)).haltX = false ∧ recv0.page = .none ∧
       (let b := (s.agent (fragDst x.hdr)).q.beat 12
        (messageBeats (slotBytes x) x.lost).length ≤ b.depth - (b.items.length + b.kept))) ∧
    (let x := { slot frag .decoded with msg := List.replicate 2048 0, pois := List.replicate 32 false }
     let b := (s0.agent a0).q.beat 12
     b.depth - (b.items.length + b.kept) < (messageBeats (slotBytes x) x.lost).length) ∧
    (let x := slot frag .decoded
     let c := { xcmd (.recv (.loc 2) 0) with started := true }
     let s := rcv x [c]
     let u := (s.setX a0 { c with delivering := true }).setSlot { x with st := .delivering, recvSeq := some c.seq, entered := true }
     (s.agent (fragDst x.hdr)).recvFor x = some c ∧ c.acc = none ∧ lKind c.adst < 2 ∧
       (u.place a0 true c.seq c.adst (slotBytes x).length 32 [0, 1, 2, 3] true).1 = .runs []) := by decide +kernel

/-- A device with a slot, and an agent whose td0 stands under a given table entry. -/
def dev (lo hi : Byte) (maps : KV (Nat × Nat) Word) (x : Slot) : State :=
  { tabs [] lo hi maps with fab := { Fabric.init with slots := [x], ftime := 100, fabid := 0x100000, written := true } }

/-- A slot with an XWR, XRD or XAT at a place. -/
def at_ (op : BitVec 4) (l : Word) : Slot :=
  { slot { frag with op := op, opnd := l } .decoded with msg := bytesOf 8 1 ++ List.replicate 56 0 }

theorem witness_MessagesAreDeliveredResentOrLost_messages : ∀ op ∈ [(1 : BitVec 4), 2, 4], ∀ l ∈ [(0 : Word), 0x2000_0000_0000_0000],
    let x := at_ op l
    let s := dev 0xE3 1 maps0 x
    s.slot? (fragKey x.hdr) = some x ∧ x.st ≠ .collecting ∧ x.page = .none ∧ x.entered = true ∧
      (s.strand (fragDst x.hdr).sk).enginesRun = true ∧ x.isItem = false ∧ x.hdr.op = op ∧ fragDst x.hdr = a0 ∧ x.acc = none ∧
      (slotBytes x).length = 64 ∧ 64 * (x.hdr.ln.toNat + 1) = 64 := by
  intro op hop l hl
  have ho : op = 1 ∨ op = 2 ∨ op = 4 := by simpa using hop
  have h : l = 0 ∨ l = 0x2000_0000_0000_0000 := by simpa using hl
  rcases ho with rfl | rfl | rfl <;> rcases h with rfl | rfl <;>
    exact ⟨rfl, nofun, rfl, rfl, by decide +kernel, by decide +kernel, rfl, by decide +kernel, rfl, by decide +kernel, by decide +kernel⟩

/-- Where such a place in device memory lies: found, not present, on a page that is not here, remote. -/
theorem devPlace (op : BitVec 4) (own : Bool) (n len al : Nat) (wr : Bool) (kinds : List Nat) (hk : kinds.contains 2 = true) (hl : len = 64 ∨ len = 8)
    (lo hi : Byte) (maps : KV (Nat × Nat) Word) :
    ((dev lo hi maps (at_ op 0x2000_0000_0000_0000)).setSlot (at_ op 0x2000_0000_0000_0000)).place a0 own n 0x2000_0000_0000_0000 len al kinds wr =
    ((dev lo hi maps (at_ op 0x2000_0000_0000_0000)).setSlot (at_ op 0x2000_0000_0000_0000)).flatLoc a0 (.xchg (if own then some n else none)) 0
      flat0 0 len wr :=
  place_flat _ a0 own n 0x2000_0000_0000_0000 len al kinds wr flat0 rfl rfl (by decide +kernel) hk (by decide +kernel) (by simp [bits])
    (by rcases hl with rfl | rfl <;> decide +kernel)

theorem witness_MessagesAreDeliveredResentOrLost_places : ∀ op ∈ [(1 : BitVec 4), 2, 4],
    let x := at_ op 0x2000_0000_0000_0000
    let loc := fun (lo hi : Byte) (maps : KV (Nat × Nat) Word) (len : Nat) (wr : Bool) =>
      ((dev lo hi maps x).setSlot x).flatLoc a0 (.xchg none) 0 flat0 0 len wr
    (loc 0xE3 1 maps0 64 true).1 = .runs [(131072, 64)] ∧ (loc 0xE3 1 maps0 64 true).2.phys = [] ∧
    (loc 0xE3 1 maps0 64 false).1 = .runs [(131072, 64)] ∧ (loc 0xE3 1 maps0 8 true).1 = .runs [(131072, 8)] ∧
    (loc 0xE3 1 maps0 8 true).2.mem.wf = true ∧ (loc 0xE2 1 maps0 64 true).1 = .fault 8 ∧
    (loc 0xE3 1 [] 64 false).1 = .page 1 0x12 ∧ (loc 0xE7 1 maps0 8 true).1 = .remote 0 0 false := by
  intro op hop
  have h : op = 1 ∨ op = 2 ∨ op = 4 := by simpa using hop
  rcases h with rfl | rfl | rfl <;> decide +kernel

/-- A lost XRD request that the table took, and one that is yet to be taken, with room; a lost SEND and a lost report, whose data is to land or
not; a lost resend request. -/
theorem witness_MessagesAreDeliveredResentOrLost_lost :
    (∀ e : Bool, let x := { slot { frag with op := 2 } .decoded with lost := true, entered := e }
     x.st ≠ .collecting ∧ x.page = .none ∧ x.lost = true ∧ x.hdr.op.toNat = 2 ∧ (rcv x []).fab.acc.length < 16384) ∧
    (∀ op ∈ [(0 : BitVec 4), 1, 3], op.toNat ≠ 2 ∧ ¬ 4 ≤ op.toNat) ∧ (4 ≤ (4 : BitVec 4).toNat ∧ 5 ≤ (5 : BitVec 4).toNat) ∧
    (let x := { slot frag .decoded with lost := true }
     let s := rcv x [recv0]
     x.lost = true ∧ (s.agent (fragDst x.hdr)).recvFor x = some recv0 ∧ x.entered = true ∧ (s.strand (fragDst x.hdr).sk).enginesRun = true) ∧
    (let f := { frag with op := 6, mseq := 1 }
     let x := { slot f .decoded with lost := true }
     (rcv x []).slot? (fragKey f) = some x ∧ x.entered = true ∧ x.lost = true) ∧
    ((100 : Nat) < (rcv (slot frag .collecting) []).ftimeStart 0 + 101 ∧ (rcv (slot frag .collecting) []).ftimeStart 0 ≤ 100) := by decide +kernel

/-- A message whose strand is gone; a place in core storage; a read whose last piece is to come and one with more than that. -/
theorem witness_MessagesAreDeliveredResentOrLost_others :
    (({ rcv (slot frag .collecting) [] with strands := [] } : State).strand (fragDst frag).sk).st = .absent ∧
    (let x := at_ 1 0
     (((dev 0xE3 1 maps0 x).setSlot x).place a0 false 0 0 64 32 [0, 1, 2, 3] true).1 = .runs []) ∧
    (let x := { at_ 2 0x2000_0000_0000_0000 with acc := some ⟨[(131072, 64)], List.replicate 56 (0, false), 7⟩ }
     x.acc = some ⟨[(131072, 64)], List.replicate 56 (0, false), 7⟩ ∧
       (⟨[(131072, 64)], List.replicate 56 (0, false), 7⟩ : Access).todo.length = 1 ∧ (⟨[(131072, 64)], [], 0⟩ : Access).todo.length = 8) := by
  decide +kernel

/-- A slot before and after its deadline, with and without leave to ask for a resend, one that waits for one, and one whose wait is over. -/
theorem witness_MessagesAreDeliveredResentOrLost_deadlines :
    (let s := rcv (slot frag .collecting) []
     s.passedBefore 0 (slot { frag with dtime := 1 } .collecting).dtime = false ∧
       ({ s with fab := { s.fab with ftime := 64000 } } : State).passedBefore 0 (slot { frag with dtime := 1 } .collecting).dtime = true ∧
       (dtimeOf 64000 - 1).toNat ≤ 64000 / 64) ∧
    ((slot { frag with rty := true } .collecting).rty = true ∧ (slot frag .collecting).rty = false ∧ (slot frag .collecting).resendBy = none) ∧
    (let x := { slot frag .collecting with resendBy := some 100, gotResent := true }
     x.resendBy.isSome = true ∧ x.gotResent = true) ∧
    ((100 : Nat) ≤ (rcv (slot frag .collecting) []).fab.ftime ∧ (rcv (slot frag .collecting) []).fab.ftime < 101) := by decide +kernel

/-- A resend request, for a command that is gone, one that may be sent again, one that has been; a table that is full; the resend. -/
theorem witness_MessagesAreDeliveredResentOrLost_resend :
    (let f := { frag with op := 6, mseq := 1 }
     let c := { xcmd (.xat { xmsg0 with len64 := 1 }) with sent := true }
     (rcv (slot f .decoded) []).slot? (fragKey f) = some (slot f .decoded) ∧ f.op = 6 ∧ (slot f .decoded).entered = true ∧
       ((rcv (slot f .decoded) []).agent (fragDst f)).byMseq f.mseq.toNat = none ∧
       ((rcv (slot f .decoded) [c]).agent (fragDst f)).byMseq f.mseq.toNat = some c ∧ c.resent = false ∧ c.resend = false ∧ c.crt.rty = true ∧
       ({ c with resent := true } : XCmd).resent = true ∧ ({ slot f .decoded with entered := false } : Slot).entered = false) ∧
    (let m := { xmsg0 with len64 := 1 }
     let c := { xcmd (.xat m) with sent := true, resend := true }
     let s := xch [c]
     (s.agent a0).xcmds.find? (fun c => c.seq = 1) = some c ∧ c.ins = .xat m ∧ c.fin = false ∧ (s.agent a0).haltX = false ∧
       (s.agent a0).heldBack 1 = false ∧ c.wtk = false ∧ (s.strand a0.sk).enginesRun = true ∧ s.badEndpoint c.ae m.mc = false) ∧
    lKind (xcmd .nop).adst ≠ 15 := by decide +kernel

theorem witness_fullTable : ∃ l : List Accession, 16384 ≤ l.length :=
  ⟨List.replicate 16384 ⟨fragKey frag, 0, 0, false, false, 0⟩, Nat.le_of_eq List.length_replicate.symm⟩

/-- A report of each status for a command that is alone in its engine, and a report deadline that has passed. -/
theorem witness_ReportsAndFabricStateAdvance : ∀ st ∈ [0, 1, 2, 3, 4, 5],
    let f := { frag with op := 5, mseq := 1, k := 1, opnd := bv 64 st }
    let c := { xcmd (.xwr { xmsg0 with tok := false }) with sent := true, need := 1 }
    let s := rcv (slot f .decoded) [c]
    s.slot? (fragKey f) = some (slot f .decoded) ∧ (slot f .decoded).st ≠ .collecting ∧ (slot f .decoded).entered = true ∧
      f.opnd.toNat % 256 = st ∧ (s.agent (fragDst f)).xcmds = [c] ∧ (s.agent (fragDst f)).byMseq f.mseq.toNat = some c ∧
      c.tok = false ∧ c.need ≤ [({ fragKey f with mseq := 0, rep := none } : MKey)].length := by decide +kernel

theorem witness_ReportsAndFabricStateAdvance_deadline :
    (∀ i ∈ [Instr.xwr { xmsg0 with tok := false }, .xrd xmsg0],
      let c := { xcmd i with sent := true, need := 1 }
      let s := { xch [c] with fab := { Fabric.init with ftime := 1 } }
      (s.agent a0).xcmds.find? (fun c => c.seq = 1) = some c ∧ c.sent = true ∧ c.fin = false ∧ c.need ≠ 0 ∧ c.heldRep = false ∧
        c.lostRep = false ∧ c.halted = false ∧ c.deadline < s.fab.ftime ∧ s.fab.slots = []) ∧
    (s0.now < ({ Fabric.init with slewAt := 1 } : Fabric).slewAt ∧ s0.fab.slewAt ≤ s0.now) ∧ (2 : BitVec 2) ≠ 3 := by decide +kernel

/-! ### Tests, eviction, memories -/

theorem witness_TestsMarkTheirQuad : (8 ≤ 8 ∧ 7 < 8) ∧ State.reset.parts.find? (fun e => e.2.lay.v && e.2.lay.qmask.getLsbD 0) = none ∧
    (s0.parts.find? (fun e => e.2.lay.v && e.2.lay.qmask.getLsbD 0) = some (0, { Part.init with lay := lay0 }) ∧ (s0.strands.map (·.1)).Nodup) ∧
    (∃ s : State, ∀ n, n < 16 → (s.strand ⟨0, n⟩).st ≠ .absent) ∧
    ((s0.strand ⟨0, 1⟩).st = .absent ∧ ∀ m, m < 1 → (s0.strand ⟨0, m⟩).st ≠ .absent) ∧
    (match s0.admission ⟨0, 1⟩ testLaunch 4 0 true false false false false .absent with | .ok a => a.phase == 1 | .error _ => false) = true ∧
    (match (s0.setPart 0 { s0.part 0 with move := some ⟨[], none, none⟩ }).admission ⟨0, 1⟩ testLaunch 4 0 true false false false false .absent with
      | .error c => c == 0x0B | .ok _ => false) = true :=
  ⟨by decide +kernel, rfl, by decide +kernel, ⟨{ s0 with strands := (List.range 16).map (fun n => (⟨0, n⟩, x0)) }, by decide +kernel⟩,
    by decide +kernel, by decide +kernel, by decide +kernel⟩

/-- A test strand of quad 0 beside a launch; a launch that has run nothing since, and one that has. -/
theorem witness_TestsMarkTheirQuad_strand :
    (let s := { s0 with strands := [(k0, x0), (⟨0, 1⟩, { x0 with ist := true, tquad := 0 })] }
     (s.strands.map (·.1)).Nodup ∧ (s.strand ⟨0, 1⟩).ist = true ∧ (s.strand ⟨0, 1⟩).tquad = 0 ∧ (s.strand k0).ist = false ∧
       (s.strand k0).lastRan = none) := by decide +kernel

/-- A strand whose image area of 4,096 bytes lies at offset 1,024 of td0. -/
def sEvict : State :=
  { eng [] with strands := [(k0, { x0 with st := .evicting, area := (1024, 4096), l := { x0.l with td0 := flat0 } })] }

theorem witness_EvictionsSaveAndReadmissionsRestore :
    (s0.strand k0).st ≠ .evicting ∧
    ((sEvict.strand k0).st = .evicting ∧ (∀ a ∈ sEvict.agentsOf k0, (sEvict.agent a).acmds = [] ∧ (sEvict.agent a).xcmds = [] ∧
      (sEvict.agent a).b = []) ∧ sEvict.fab.slots = [] ∧ sEvict.phys = [] ∧ sEvict.mem.wf = true) ∧
    (let x := sEvict.strand k0
     64 ≤ x.area.2 ∧ x.area.1 / 65536 = (x.area.1 + x.area.2 - 1) / 65536 ∧ x.area.1 + x.area.2 ≤ dSize x.l.td0 ∧
       (sEvict.td0Addr 0 x.l.td0 x.area.1).1 = some (2 * 65536 + x.area.1 % 65536) ∧
       sEvict.stage2 0 ((dTtb x.l.td0 * 65536 + 16 * (x.area.1 / 65536)) / 65536) = some (1, true) ∧
       1 * 65536 + (dTtb x.l.td0 * 65536 + 16 * (x.area.1 / 65536)) % 65536 + 16 ≤ 2 * 65536 + x.area.1 % 65536) ∧
    (∀ key : Nat, ∃ area : Nat, 64 + Config.layerBytes key ≤ area) ∧ (∀ key : Nat, 0 < 64 + Config.layerBytes key) ∧
    (((str (fun x => { x with st := .evicting, replay := some 9 })).strand k0).replay.isSome = true ∧ (s0.strand k0).replay = none ∧
      (sEvict.strand k0).work = none) :=
  ⟨by decide +kernel, by decide +kernel, by decide +kernel, fun key => ⟨_, Nat.le_refl _⟩, fun key => by omega, by decide +kernel⟩

/-- A save with one word to write, in an area that has room and in one of 64 bytes; a freeze of the shadow sequencer. -/
theorem witness_EvictionsSaveAndReadmissionsRestore_begun : ∀ key : Nat, ∃ n, 64 + Config.layerBytes key ≤ n ∧
    let w : Work := ⟨.evictionSave k0, true, [], [(1088, 5, false)], key⟩
    let s := { sEvict with strands := [(k0, { sEvict.strand k0 with area := (1024, n), freeze := some (13, 1), work := some w })] }
    (s.strand k0).st = .evicting ∧ (s.strand k0).work = some w ∧ w.ins = .evictionSave k0 ∧ w.begun = true ∧ s.phys = [] ∧
      (s.strand k0).area.2 = n ∧ (s.strand k0).freeze = some (13, 1) ∧ (0 < Config.layerBytes key → 64 < 64 + Config.layerBytes key) :=
  fun key => ⟨64 + Config.layerBytes key, Nat.le_refl _, rfl, rfl, rfl, rfl, rfl, rfl, rfl, fun h => by omega⟩

/-- An engine that takes a step while its strand is evicted. -/
theorem witness_EvictionsSaveAndReadmissionsRestore_round :
    let s := { sEvict with agents := [(a0, { Agent.init with acmds := [cmd (.pref xfer0)], seqA := 1, td := Vector.replicate 16 (some flat0) })] }
    let round := (s.agentsOf k0).foldl (fun s a => s.engineSteps a) s
    a0 ∈ s.agentsOf k0 ∧ (s.agent a0).acmds ≠ [] ∧ (round.agent a0).acmds = [] := by decide +kernel

/-- A re-admission that needs no move, one that needs one, and one that is refused; an image of no layers stands as it was saved. -/
theorem witness_EvictionsSaveAndReadmissionsRestore_readmission :
    (let s := str (fun x => { x with st := .evicted, phase := 3, yieldMask := some [(0, 1)] })
     (match s.admission k0 (s.strand k0).l 4 3 false false true false false .evicted with | .ok a => decide (a.moves = []) | .error _ => false) =
       true ∧ s.phys = [] ∧ (s.strand k0).layers = [] ∧ (workOn (s.strand k0).work (.readmission k0 false false)).got = [] ∧ ([(0, (1 : BitVec 32))].find? (fun e => e.1 = a0.row)).any (·.2.getLsbD 0) = true) ∧
    (let x := fun (p : BitVec 4) => { x0 with scode := 2, phase := p, mat := false, l := { Launch.zero with nrows := 32, tlen := 1 } }
     let s := { s0 with strands := [(k0, { x 1 with st := .evicted, scode := 1 }), (⟨0, 1⟩, x 0), (⟨0, 2⟩, x 1)] }
     (match s.admission k0 (s.strand k0).l 1 1 false true false false false .evicted with | .ok a => decide (a.moves ≠ []) | .error _ => false) =
       true) ∧
    (match s0.admission k0 (s0.strand k0).l 4 0 false false true false false .evicted with | .error c => c == 0x0C | .ok _ => false) = true :=
  ⟨by decide +kernel, by decide +kernel, by decide +kernel⟩

theorem witness_MemoryServiceTakesItsEffect :
    (memOk (.tileStore 32 0) = false ∧ memOk (.textStore 31) = true ∧ memLines (.textStore 31) ≤ 2048 ∧ 2047 < memLines (.textStore 31)) ∧
    s0.phys.find? (Phys.isLine (.textStore 31) 2047) = none ∧ s0.portFree (memRow (.folio 0 0)) = true ∧
    ({ s0 with parts := [(0, { Part.init with lay := lay0, slots := Vector.replicate 16 (some 0) })] } : State).portFree 0 = false ∧
    ({ s0 with parts := [(0, { Part.init with lay := lay0, slots := Vector.replicate 16 (some 0) })] } : State).portFree 31 = true ∧
    (∃ s : State, let x := s.memstatOf (.textStore 31)
      2047 = x.pass ∧ 2047 + 1 = memLines (.textStore 31) ∧ x.fv = true ∧ x.spareUsed = false) ∧
    ((s0.memstatOf (.textStore 31)).fv = false ∧ 0 = (s0.memstatOf (.textStore 31)).pass ∧ 0 + 1 < memLines (.textStore 31)) ∧
    (let s := { s0 with phys := [.line (.folio 0 0) 5 [(3, 1, 0x40)]] }
     s.phys.find? (Phys.isLine (.folio 0 0) 5) = some (.line (.folio 0 0) 5 [(3, 1, 0x40)]) ∧ memOk (.folio 0 0) = true ∧
       5 < memLines (.folio 0 0) ∧ (decodeLine none [(3, 1, 0x40)]).lost = false ∧ (decodeLine none [(3, 1, 0x40)]).left = [] ∧
       (decodeLine none [(3, 1, 0x40), (4, 1, 0x40)]).lost = true ∧
       ({ s with phys := [.found (.folio 0 0) 5 [(3, 1, 0x40), (4, 1, 0x40)] [(3, 1, 0x40), (4, 1, 0x40)] true []] } : State).phys.find?
         (Phys.isLine (.folio 0 0) 5) = some (.found (.folio 0 0) 5 [(3, 1, 0x40), (4, 1, 0x40)] [(3, 1, 0x40), (4, 1, 0x40)] true [])) ∧
    ((0x80000000 : BitVec 32).getLsbD 31 = true ∧ (0x7FFFFFFF : BitVec 32).getLsbD 31 = false) ∧
    (∃ x : Part, x.lay.v = true ∧ (5 : BitVec 8) ∉ x.dropped ∧ bankFrames 0 5 ≤ x.spare) ∧ (s0.part 1).lay.v = false ∧
    ((s0.part 0).migwm.act = false ∧ (s0.part 0).lay.v = true) ∧
    (∃ x : Part, x.migwm.act = true ∧ x.lay = lay0 ∧ 1023 ≤ x.migwm.lines ∧ 6094848 ≤ frameFrom x.lay (frameFrom x.lay x.migwm.wm.toNat + 1)) ∧
    frameFrom lay0 (frameFrom lay0 0 + 1) < 6094848 :=
  ⟨by decide +kernel, rfl, by decide +kernel, by decide +kernel, by decide +kernel, ⟨{ s0 with memstat := [(.textStore 31, ⟨true, 3, false, false, 0, 0, [], 2047⟩)] }, by decide +kernel⟩,
    by decide +kernel, by decide +kernel, by decide +kernel, ⟨{ Part.init with lay := lay0, spare := bankFrames 0 5 }, rfl, by decide +kernel, Nat.le_refl _⟩,
    rfl, by decide +kernel, ⟨{ Part.init with lay := lay0, migwm := ⟨true, 5, 761855, 1023⟩ }, rfl, rfl, by decide +kernel, by decide +kernel⟩,
    by decide +kernel⟩

/-! ### The host -/

/-- An AGEN command that waits on page-request entry 1,023. -/
def paged : State :=
  { eng [{ cmd (.sts 1 2 0) with page := .posted 1023 }] with pageq := [(1023, ⟨0, .agen a0 1, 0, true⟩)] }

theorem witness_HostAccessesAndPageResponses :
    (s0.link ∉ [LinkMode.cxl4, .cxl3, .cxl2] ∧ (s0.part 1).lay.v = false) ∧
    (let s := { s0 with link := .cxl2 }
     s.link ∈ [LinkMode.cxl4, .cxl3, .cxl2] ∧ (s.part 0).lay.v = true ∧ s.phys = [] ∧ s.mem.wf = true ∧ s.frameAt 0 (65528 / 65536) = some 0 ∧
       s.frameAt 0 (2 ^ 48 / 65536) = none) ∧
    (120 / 8 % 8 = 7 ∧ 64 / 8 % 8 = 0 ∧ 72 / 8 % 8 ≠ 7) ∧
    ((s0.part 0).rd.wait = [] ∧ (s0.part 0).rd.bal ≤ 0 ∧ 0 < (⟨1, [], 0⟩ : LinkQ).bal ∧ ∀ w ∈ (s0.part 0).wrq.wait, w.2 = none) ∧
    ((s0.parts.map (·.1)).Nodup ∧ ∀ e ∈ s0.parts, e.2.wrq.wait = [] ∧ e.2.ats.wait = []) ∧
    KV.get? s0.pageq (1023 : BitVec 10).toNat = none ∧
    (let c := { cmd (.sts 1 2 0) with page := .posted 1023 }
     let s := paged
     KV.get? s.pageq (1023 : BitVec 10).toNat = some ⟨0, .agen a0 1, 0, true⟩ ∧ (⟨0, .agen a0 1, 0, true⟩ : PageReq).who = .agen a0 c.seq ∧
       (s.agent a0).acmds = c :: [] ∧ (∀ u ∈ s.unposted, u.2.1 ≠ 0) ∧ (s.strand a0.sk).st = .running ∧ (s.part a0.part).move = none) := by
  decide +kernel

/-- A partition whose links wait with one errand: to create a queue, to read for the front end, to post a record. -/
def waitsFor (rd wrq : Option Errand) : State :=
  { s0 with parts := [(0, { Part.init with lay := lay0, rd := ⟨0, rd.toList.map (fun e => (1, some e)), 0⟩, wrq := ⟨0, wrq.toList.map (fun e => (1, some e)), 0⟩ })]
            vcps := [(0, { Vcp.init with created := true, fring := 64, ask := .tail false })] }

theorem witness_HostAccessesAndPageResponses_errands :
    (let s := waitsFor (some (.create 0 5)) none
     s.parts.map (·.1) = [0] ∧ (s.part 0).ats.wait = [] ∧ (s.part 0).rd.wait = [(1, some (.create 0 5))] ∧ (s.part 0).wrq.wait = [] ∧
       0 < (s.part 0).lay.hrd.toNat + min (s.part 0).rd.bal 0) ∧
    (let s := waitsFor (some (.ask 0 0)) none
     (s.part 0).rd.wait = [(1, some (.ask 0 (s.vcp 0).era))] ∧ (s.vcp 0).ask = .tail false) ∧
    (let s := waitsFor none (some (.post ⟨0, 0, FaultRec.zero⟩))
     let c := s.vcp 0
     (s.part 0).wrq.wait = [(1, some (.post ⟨0, c.era, FaultRec.zero⟩))] ∧ (s.part 0).rd.wait = [] ∧ c.part.toNat = 0 ∧ c.created = true ∧
       c.fring ≠ 0 ∧ (c.fhead - c.ftail).toNat < 256 ∧ 1 < (s.part 0).lay.hwr.toNat + min (s.part 0).wrq.bal 0) := by decide +kernel

/-- An entry whose item is of an overlay load. -/
theorem witness_HostAccessesAndPageResponses_overlay :
    let o : Overlay := ⟨8, 0, none, false, none, .posted 5, []⟩
    (⟨0, .overlay a0 8, 0, false⟩ : PageReq).who = .overlay a0 o.addr ∧ ((sOvly o []).agent a0).sqr.ovly = some o ∧
      ((sOvly o []).strand k0).st = .running ∧ ((sOvly o []).part 0).move = none ∧ ∀ u ∈ (sOvly o []).unposted, u.2.1 ≠ 0 := by decide +kernel

/-- Entries whose item has gone, is of a command of XCHG, and is the delivery of a message. -/
theorem witness_HostAccessesAndPageResponses_waiters : (∃ r : PageReq, r.who = .gone) ∧
    (let c := xcmd (.xwr xmsg0)
     (⟨0, .xchg a0 1, 0, false⟩ : PageReq).who = .xchg a0 c.seq ∧ ((xch [c]).agent a0).xcmds.find? (fun d => d.seq = c.seq) = some c) ∧
    (⟨0, .slot (fragKey frag), 0, false⟩ : PageReq).who = .slot (fragKey frag) ∧
    (rcv (slot frag .decoded) []).slot? (fragKey frag) = some (slot frag .decoded) ∧
    (∀ op ∈ [(1 : BitVec 4), 5], let x := { slot { frag with op := op } .decoded with lost := true }
     (rcv x []).slot? (fragKey x.hdr) = some x ∧ x.lost = true) :=
  ⟨⟨⟨0, .gone, 0, false⟩, rfl⟩, by decide +kernel, rfl, by decide +kernel, by decide +kernel⟩

/-- A packet with an opcode. -/
def pkt (op : Nat) : Packet := ⟨[bv 64 (op * 2 ^ 56)], 1⟩

/-- Whether a place needs a translation is one of two, whatever the free value is; the statements treat both. -/
theorem needsAts_either (s : State) (i : Nat) : s.needsAts i = false ∨ s.needsAts i = true := by cases s.needsAts i <;> simp

/-- Links that nothing waits on, with balances of two, of one and used up. -/
theorem links_open : ∀ b ∈ [(2 : Int), 1, 0], ∃ x : Part, x.rd.wait = [] ∧ x.ats.wait = [] ∧ x.wrq.wait = [] ∧ x.rd.bal = b ∧ x.ats.bal = b ∧
    x.wrq.bal = b := fun b _ => ⟨{ Part.init with rd := ⟨b, [], 0⟩, wrq := ⟨b, [], 0⟩, ats := ⟨b, [], 0⟩ }, rfl, rfl, rfl, rfl, rfl, rfl⟩

/-- An ftail at and beyond its bounds; quotas of 256 and 257; no event, an event of a VCP at work; events that dispatch, with a free core,
an impossible tail, a queue that is stopped. -/
theorem witness_VcpRegistersTakeTheirValue :
    ((256 : Word).toNat ≤ (256 : Word).toNat ∧ (0 : Word).toNat ≤ (s0.vcp 0).fhead.toNat ∧ (s0.vcp 0).fhead.toNat ≤ (0 : Word).toNat + 256) ∧
    ((s0.vcp 0).fhead.toNat < (1 : Word).toNat ∧ (s0.vcp 0).wait = none) ∧
    (sumTo 8 (fun i => ((0x2020202020202020 : Word).toNat / 256 ^ i % 256 : Nat)) ≤ 256 ∧
      256 < sumTo 8 (fun i => ((0x2020202020202021 : Word).toNat / 256 ^ i % 256 : Nat))) ∧
    (let s := { s0 with events := [1] ++ 0 :: [], vcps := [(1, { Vcp.init with active := true }), (0, { Vcp.init with qsize := 1 })] }
     (∀ e ∈ [1], (s.vcp e).active = true) ∧ (s.vcp 0).active = false ∧ (s.vcps.filter (fun e => e.2.active)).length < 12 ∧
       (s.vcp 0).stopped = false ∧ (s.vcp 0).tail.toNat < (s.vcp 0).qsize.toNat ∧ (s.vcp 0).nested = [] ∧ (s.vcp 0).head = (s.vcp 0).tail ∧
       ¬ (s.vcp 2).tail.toNat < (s.vcp 2).qsize.toNat) ∧
    (let s := { s0 with vcps := (List.range 12).map (fun v => (v + 1, { Vcp.init with active := true })) }
     12 ≤ (s.vcps.filter (fun e => e.2.active)).length) := by decide +kernel

/-- A tail that has come and is good, one that is not, and none that has come; what the front end asks for; how far ahead it is. -/
theorem witness_VcpRegistersTakeTheirValue_fetch :
    (let c := { Vcp.init with qsize := 4, tail := 2, ask := .tail true }
     let dist := fun (i j : Word) => (j.toNat + c.qsize.toNat - i.toNat % c.qsize.toNat) % c.qsize.toNat
     c.ask = .tail true ∧ c.tail.toNat < c.qsize.toNat ∧ dist c.head c.tail ≤ dist c.head c.tailSeen + dist c.tailSeen c.tail) ∧
    ¬ ({ Vcp.init with qsize := 4, tail := 4 } : Vcp).tail.toNat < 4 ∧ Vcp.init.ask ≠ .tail true ∧
    (∀ a ∈ [Ask.tail false, .packet false], ∃ (c : Vcp) (b : Bool), c.ask = a ∧ (c.ask = .tail b ∨ c.ask = .packet b)) ∧
    (let c := { Vcp.init with qsize := 4, tailSeen := 2 }
     c.mayAhead = true ∧ c.aheadCount < 16 ∧ c.ask = .none ∧ c.fetchAt = some (0, 2)) ∧
    ({ Vcp.init with fetched := List.replicate 16 (pkt 3) } : Vcp).mayAhead = false ∧
    ({ Vcp.init with fetched := [pkt 2] } : Vcp).mayAhead = false ∧ Vcp.init.fetchAt = none ∧
    (∃ c : Vcp, c.ask = .packet true) := by
  refine ⟨by decide +kernel, by decide +kernel, by decide +kernel, ?_, by decide +kernel, by decide +kernel, by decide +kernel, by decide +kernel,
    ⟨{ Vcp.init with ask := .packet true }, rfl⟩⟩
  intro a ha
  have h : a = .tail false ∨ a = .packet false := by simpa using ha
  rcases h with rfl | rfl
  · exact ⟨{ Vcp.init with ask := .tail false }, false, rfl, Or.inl rfl⟩
  · exact ⟨{ Vcp.init with ask := .packet false }, false, rfl, Or.inr rfl⟩

/-- The innermost ring at its end and with a word left; the own ring with two words left and with none, where nothing of the host's waits
for a write. -/
theorem witness_VcpRegistersTakeTheirValue_packet :
    (∀ r ∈ [(⟨0, 1, 1, [], 0⟩ : Nested), ⟨0, 1, 0, [], 0⟩], ∃ c : Vcp, c.nested = r :: []) ∧
    (let s := { s0 with vcps := [(0, { Vcp.init with qsize := 4, tailSeen := 2, created := true })] }
     let c := s.vcp 0
     c.nested = [] ∧ c.qsize ≠ 0 ∧ (c.tailSeen.toNat + c.qsize.toNat - c.head.toNat % c.qsize.toNat) % c.qsize.toNat ≠ 0 ∧
       ∀ w ∈ (s.part c.part.toNat).wrq.wait, w.2 = none) ∧ (s0.vcp 0).qsize = 0 :=
  ⟨fun r _ => ⟨{ Vcp.init with nested := [r] }, rfl⟩, by decide +kernel, by decide +kernel⟩

/-- A queue that is gone, one without a ring, one whose ring is full, one whose ring takes a record; balances above zero and used up. -/
theorem witness_VcpRegistersTakeTheirValue_records :
    ((s0.vcp 0).created = false ∧ (s0.vcp 0).fring = 0) ∧
    (∃ c : Vcp, c.created = true ∧ c.fring ≠ 0 ∧ 256 ≤ (c.fhead - c.ftail).toNat) ∧
    (∃ c : Vcp, c.created = true ∧ c.fring ≠ 0 ∧ (c.fhead - c.ftail).toNat < 256) ∧
    ((s0.part 0).ats.wait = [] ∧ (s0.part 0).wrq.wait = [] ∧ (s0.part 0).ats.bal ≤ 0 ∧ (s0.part 0).wrq.bal ≤ 0) :=
  ⟨by decide +kernel, ⟨{ Vcp.init with created := true, fring := 64, fhead := 256 }, by decide +kernel⟩,
    ⟨{ Vcp.init with created := true, fring := 64, fhead := 255 }, by decide +kernel⟩, by decide +kernel⟩

/-- A context whose td0 is that of `eng`, with every strand number allowed. -/
def ctx0 : Vcp := { Vcp.init with created := true, active := true, td0 := flat0, smask := 0xFFFF }

/-- The front end at work for VCP 0, with a given state of its packets. -/
def vcp0 (c : Vcp) : State := { eng [] with vcps := [(0, c)] }

theorem witness_PacketsTakeTheirEffect :
    (let s := vcp0 ctx0
     s.phys = [] ∧ s.mem.wf = true ∧ s.me_v.rep = none ∧ s.me_v.nested = [] ∧ (s.td0Addr s.me_v.part.toNat s.me_v.td0 8).1 = some 131080 ∧
       (s.mem.word 131080 &&& 1) = (0 &&& 1) ∧ s.launchesDone 1 = true ∧ s.launchesDone 0 = false ∧
       s.windowByte 0 s.me_v.fence.toNat = some 0 ∧ 0 / 8 * 8 + 8 ≤ 131080) ∧
    (let s := vcp0 { ctx0 with nested := [⟨0, 1, 0, [], 0⟩, ⟨0, 1, 0, [], 0⟩] }
     2 ≤ s.me_v.nested.length ∧ s.me_v.nested ≠ []) ∧
    (vcp0 { ctx0 with wait := some ⟨.eq, 8, 1, 1⟩ }).me_v.wait = some ⟨.eq, 8, 1, 1⟩ ∧
    (vcp0 { ctx0 with rep := some ⟨[], [], 0, 1⟩ }).me_v.rep.isSome = true ∧
    (let s := { vcp0 ctx0 with strands := [] }
     s.launchesDone 0 = true) := by decide +kernel

/-- A REPEAT that gathers, with a packet, with one that it may not hold and with none; one in a pass, at its end, and at the last; an FFENCE
between two packets of a body. -/
theorem witness_PacketsTakeTheirEffect_repeat :
    (∃ d : Vcp, ∃ r, d.rep = some r ∧ r.need ≠ 0 ∧ d.take = none) ∧
    (∀ op ∈ [2, 3], ∃ d : Vcp, ∃ r p e, d.rep = some r ∧ r.need ≠ 0 ∧ d.take = some (p, e) ∧ bits (p.words.headD 0) 63 56 = op) ∧
    (∃ r : PacketRep, r.need = 0 ∧ r.rest = pkt 3 :: []) ∧ (∃ r : PacketRep, r.need = 0 ∧ r.rest = [] ∧ r.left = 1 + 1) ∧
    (∃ r : PacketRep, r.need = 0 ∧ r.rest = [] ∧ r.left = 0) ∧ (∃ r : PacketRep, r.body = [] ++ pkt 3 :: r.rest) := by
  refine ⟨⟨{ Vcp.init with rep := some ⟨[], [], 0, 1⟩ }, _, rfl, by decide, rfl⟩, ?_, ⟨⟨[], [pkt 3], 0, 0⟩, rfl, rfl⟩,
    ⟨⟨[], [], 2, 0⟩, rfl, rfl, rfl⟩, ⟨⟨[], [], 0, 0⟩, rfl, rfl, rfl⟩, ⟨⟨[pkt 3, pkt 5], [pkt 5], 0, 0⟩, rfl⟩⟩
  intro op hop
  refine ⟨{ Vcp.init with rep := some ⟨[], [], 0, 1⟩, fetched := [pkt op] }, _, pkt op, _, rfl, by decide, rfl, ?_⟩
  have h : op = 2 ∨ op = 3 := by simpa using hop
  rcases h with rfl | rfl <;> decide +kernel

/-- An FFENCE in a ring, in a REPEAT's body in a ring and outside; a launch of another queue, one of the same queue created earlier, a test. -/
theorem witness_PacketsTakeTheirEffect_ffence :
    (∃ c : Vcp, c.rep = none ∧ c.nested = ⟨0, 1, 0, [], 0⟩ :: []) ∧
    (∀ l : List Nested, ∃ (c : Vcp) (r : PacketRep), c.rep = some r ∧ r.body = [] ++ pkt 3 :: r.rest ∧ c.nested = l) ∧
    (let s := vcp0 { ctx0 with era := 1 }
     (s.strand k0).era ≠ s.me_v.era ∧ s.launchesDone 0 = true) :=
  ⟨⟨{ Vcp.init with nested := [⟨0, 1, 0, [], 0⟩] }, rfl, rfl⟩,
    fun l => ⟨{ Vcp.init with rep := some ⟨[pkt 3, pkt 5], [pkt 5], 0, 0⟩, nested := l }, _, rfl, rfl, rfl⟩, by decide +kernel⟩

/-- A queue one of whose two discarded packets is still to be read. -/
theorem witness_PacketsTakeTheirEffect_refetch :
    let c := (vcp0 { ctx0 with ask := .packet false, fetched := [pkt 3], refetch := 2 }).me_v
    c.work = none ∧ c.sig = none ∧ c.stopped = false ∧ c.ask = .packet false ∧ c.ahead.length < c.refetch := by decide +kernel

/-- A launch that is running, one that is out on an image, one that waits for its move; an identity that none has. -/
theorem witness_PacketsTakeTheirEffect_cancel :
    (let x := (vcp0 ctx0).strand ⟨(vcp0 ctx0).myPart, 0⟩
     x.st ∉ [SState.absent, .halted] ∧ x.l.idAt .graph = 0 ∧ x.l.idAt .graph ≠ 1 ∧ x.ist = false) ∧
    ((str (fun x => { x with st := .evicted })).strand k0).st = .evicted ∧
    (s0.part 0).move.any (fun m => m.newcomer == some 0) = false ∧
    ((s0.setPart 0 { s0.part 0 with move := some ⟨[], some 0, none⟩ }).part 0).move.any (fun m => m.newcomer == some 0) = true := by
  decide +kernel

/-- A launch record for strand 1 at (16,1) with one tile, one block and one word of text, at offset 0 of td0. -/
def recordState : State :=
  { vcp0 ctx0 with mem := ⟨[(65536, 0xE3), (65537, 0x01), (65544, 0x34), (131080, 0xC1), (131081, 0x80), (131096, 0x41), (131097, 0x40),
    (131104, 4), (131105, 4), (131106, 4), (131107, 4), (131108, 4), (131109, 4), (131110, 4), (131111, 4)], []⟩ }

theorem witness_PlacementPacketsTakeTheirEffect_launch :
    let R := recordState.hostWords [] 0 flat0 0 32
    let w1 := R.1.getD 1 0
    let adm := fun (sc : Nat) => R.2.admission ⟨0, 1⟩ (launchOf R.1 flat0) sc (bits w1 10 7) (w1.getLsbD 11) (w1.getLsbD 12) (w1.getLsbD 13)
      (w1.getLsbD 14) false .absent
    (w1.toNat % 16 = 1 ∧ w1.getLsbD 15 = true ∧ recordState.me_v.skip = [] ∧ recordState.me_v.smask.getLsbD 1 = true ∧
      recordCheck R.1 true = none ∧ bits w1 6 4 = 4 ∧ recordCheck ((R.1.take 5) ++ [(0x100_0000_0000 : Word)]) true = some 5) ∧
    (match adm 4 with | .ok a => decide (a.moves = []) | .error _ => false) = true ∧
    (match adm 5 with | .error c => c == 0x0A | .ok _ => false) = true ∧
    (launchOf R.1 flat0).idAt .job = 0 := by decide +kernel

/-- The same record with a table at offset 2,048, whose addresses for the four rows are aligned, or not; a record of which a word has been read. -/
def tableState (a : Byte) : State :=
  { vcp0 ctx0 with mem := ⟨[(65536, 0xE3), (65537, 0x01), (65544, 0x34), (131080, 0xC1), (131089, 0x08), (131096, 0x41), (131097, 0x40),
    (131104, 4), (131105, 4), (131106, 4), (131107, 4), (131108, 4), (131109, 4), (131110, 4), (131111, 4), (133120, a), (133128, 16),
    (133136, 24), (133144, 32)], []⟩ }

theorem witness_PlacementPacketsTakeTheirEffect_table : ∀ a ∈ [(8 : Byte), 9],
    let R := (tableState a).hostWords [] 0 flat0 0 32
    let R2 := R.2.hostWords [] 0 flat0 (bits (R.1.getD 2 0) 47 0) ((tableState a).rows 0).length
    ((R.1.getD 1 0).getLsbD 15 = false ∧ (R.1.getD 1 0).toNat % 16 = 1 ∧ R2.1 = [bv 64 a.toNat, 16, 24, 32]) ∧
    recordCheck R.1 (R2.1.all (fun a => a.toNat % 8 == 0)) = (if a = 8 then none else some 2) ∧
    (∀ j : Fin 4, ((tableState a).rows 0)[j.val]? = some j.val) ∧ (launchOf R.1 flat0).tlen = 1 ∧
    (R2.2.td0Addr 0 flat0 ((R2.1.getD 3 0).toNat + 8 * 0)).1 = some 131104 ∧
    (workOn (some ⟨.launch 0, true, [5], [], 0⟩) (.launch 0)).got = [5] ∧ (workOn none (.launch 0)).got = [] := by decide +kernel

/-- A launch that makes others move. -/
theorem witness_PlacementPacketsTakeTheirEffect_moves :
    let x := fun (p : BitVec 4) => { x0 with scode := 2, phase := p, mat := false, l := { Launch.zero with nrows := 32, tlen := 1 } }
    let s := { s0 with strands := [(k0, x 0), (⟨0, 1⟩, x 1)] }
    (match s.admission ⟨0, 2⟩ { Launch.zero with nrows := 32, tlen := 1 } 1 1 false true false false false .absent with
      | .ok a => decide (a.moves ≠ []) | .error _ => false) = true := by decide +kernel

theorem witness_PlacementPacketsTakeTheirEffect :
    ((vcp0 { ctx0 with smask := 0xFFFE }).me_v.smask.getLsbD 0 = false ∧ (vcp0 ctx0).me_v.smask.getLsbD 0 = true) ∧
    (let s := vcp0 ctx0
     let others := (s.heldStrands 0).filter (fun h => h.1 ≠ 0)
     (s.strand k0).st = .running ∧ s.moving 0 = false ∧ (s.strand k0).rpp = false ∧ (s.strand k0).sp = (2 ^ (4 : BitVec 3).toNat, (0 : BitVec 4).toNat) ∧
       (s.strand k0).sp ≠ (2 ^ (4 : BitVec 3).toNat, (15 : BitVec 4).toNat) ∧ (4 : BitVec 3).toNat ≤ 4 ∧ (15 : BitVec 4).toNat < 2 ^ (4 : BitVec 3).toNat ∧
       (∀ h ∈ others, collide (16, 15) h.2.sp = false) ∧ s.stopped k0 = false ∧ (s.strand k0).freeze = none) ∧
    (let s := { vcp0 ctx0 with strands := [(k0, x0), (⟨0, 1⟩, { x0 with phase := 15 })] }
     placeNew ((s.heldStrands 0).filter (fun h => h.1 ≠ 0)) (16, 15) false false = none) ∧
    ((str (fun x => { x with rpp := true })).strand k0).rpp = true ∧ (s0.setPart 0 { s0.part 0 with move := some ⟨[], none, none⟩ }).moving 0 = true ∧
    (4 < (5 : BitVec 3).toNat ∧ 2 ^ (1 : BitVec 3).toNat ≤ (2 : BitVec 4).toNat) ∧
    (SState.absent ∉ [SState.running, .stalled, .frozen]) ∧ (modeOk (0 : BitVec 2).toNat (1, 5) = true ∧ modeOk (2 : BitVec 2).toNat (1, 5) = false) ∧
    (let r := { FaultRec.zero with kind := 1, stc := bv 64 x0.stime, tidx := 7 }
     let x := { x0 with st := .frozen, freeze := some (1, 5), recs := [r] }
     x.st = .frozen ∧ x.freeze = some (1, 5) ∧ x.recs = [r] ∧ r.kind = 1 ∧ r.stc = bv 64 x.stime ∧ modeOk 1 (1, 5) = true) ∧
    (s0.waits a0 (.filled 0) = true ∧ s0.waits a0 (.open_ 0) = false) := by decide +kernel

/-- A re-phase of strand 2 to (2, 1) beside strands at (4, 0) and (4, 1): one of them must move. A test strand is not moved. -/
theorem witness_PlacementPacketsTakeTheirEffect_rephase :
    (let x := fun (p : BitVec 4) => { x0 with scode := 2, phase := p, mat := false, l := { Launch.zero with nrows := 32, tlen := 1 } }
     let s := { vcp0 ctx0 with strands := [(k0, x 0), (⟨0, 1⟩, x 1), (⟨0, 2⟩, x 2)] }
     let others := (s.heldStrands 0).filter (fun h => h.1 ≠ 2)
     (match placeNew others (2, 1) false true with | some (_, l) => decide (l ≠ []) | none => false) = true ∧
       (s.strand ⟨0, 2⟩).sp ≠ (2, 1) ∧ (s.strand ⟨0, 2⟩).st = .running ∧ (s.strand ⟨0, 2⟩).ist = false ∧ s.moving 0 = false) ∧
    ((str (fun x => { x with ist := true })).strand k0).ist = true := by decide +kernel

/-- A strand with a POPT at its clock, whose queue is empty; one with no word due; one with a PHASE that must wait. -/
theorem witness_PlacementPacketsTakeTheirEffect_resume :
    (let s := (str (fun x => { x with stime := 1 })).setAgent a0 { Agent.init with sqr := { Sqr.init with
       text0 := [(0, (encode 0 (.popt 8 true 0)).headD 0)] } }
     let q := (s.agent a0).sqr
     let w := s.textWord a0 q.bank q.pc
     q.loops = [] ∧ q.halted = false ∧ q.pc < (s.strand k0).l.tlen ∧ engOf w = some .seq ∧
       q.refs.get .seq + 1 + wordIdle w = (s.strand k0).stime ∧ q.skip.contains q.pc = false ∧
       (match decodeWord w [0, 0] with | .ok i => i == .popt 8 true 0 | .error _ => false) = true ∧
       (match q.stallCond (.popt 8 true 0) with | some c => s.waits a0 c | none => false) = true ∧
       ({ s with strands := [(k0, { x0 with stime := 2 })] } : State).rowWaits a0 = false) ∧
    ((waiting (some ⟨false, true, 1, 0⟩) none).phaseReady a0 ⟨false, true, 1, 0⟩ = false) := by decide +kernel

/-- A buffer at offset 1,024 of td0; a word of room and none. -/
theorem witness_PlacementPacketsTakeTheirEffect_resync :
    (let s := vcp0 ctx0
     s.phys = [] ∧ s.mem.wf = true ∧ (1024 : Nat) / 65536 = (1024 + 4096 - 1) / 65536 ∧ 1024 + 4096 ≤ dSize s.me_v.td0 ∧
       (s.td0Addr s.me_v.part.toNat s.me_v.td0 1024).1 = some (2 * 65536 + 1024 % 65536) ∧
       s.stage2 s.me_v.part.toNat ((dTtb s.me_v.td0 * 65536 + 16 * (1024 / 65536)) / 65536) = some (1, true) ∧
       1 * 65536 + (dTtb s.me_v.td0 * 65536 + 16 * (1024 / 65536)) % 65536 + 16 ≤ 2 * 65536 + 1024 % 65536) ∧
    (8 ≤ (8 : Word).toNat ∧ ¬ 8 ≤ (0 : Word).toNat) ∧
    (let w : Work := ⟨.resync 1024 64, true, [], [(1032, 5, false)], 1⟩
     (vcp0 { ctx0 with work := some w }).me_v.work = some w ∧ w.ins = .resync 1024 64 ∧ w.begun = true ∧
       (workOn (vcp0 ctx0).me_v.work (.resync 1024 64)).begun = false) ∧
    (let s := str (fun x => { x with st := .frozen, freeze := some (13, 1) })
     (s.strand k0).st ∈ [SState.running, .stalled, .frozen] ∧ (s.strand k0).st = .frozen ∧ (s.strand k0).freeze = some (13, 1)) := by decide +kernel

/-- A commit in progress, a layout with a bad entry, a strand of a changed partition; a layout that is taken; two entries that share a
quad; a limit at the edge; a flash that holds a layout and one that holds none. -/
theorem witness_ManagementCommandsTakeTheirEffect :
    ({ s0.mgmt with commit := .writing [] } : Mgmt).commit ≠ .idle ∧ layoutBad [{ lay0 with qmask := 0 }] 200 = true ∧
    (0 ∈ s0.changedParts [lay0] ∧ (s0.strand ⟨0, 0⟩).st ≠ .absent) ∧
    (layoutBad [{ lay0 with dstall := 1 }] 100 = false ∧ layoutBad [{ lay0 with dstall := 1 }] 99 = true ∧ State.reset.mgmt.commit = .idle ∧
      (∀ e ∈ State.reset.strands, e.2.st = .absent) ∧ 0 ∈ State.reset.changedParts [{ lay0 with dstall := 1 }] ∧
      (layoutAt [{ lay0 with dstall := 1 }] 0).v = true) ∧
    (∃ u : State, u.mgmt.commit = .written [{ lay0 with dstall := 1 }]) ∧
    (([lay0, lay0].getD 0 LayoutEntry.zero).qmask.getLsbD 0 = true ∧ ([lay0, lay0].getD 1 LayoutEntry.zero).qmask.getLsbD 0 = true ∧
      lay0.v = true ∧ 16 < (([({ lay0 with pshare := 17 } : LayoutEntry)].filter (·.v)).map (fun e => e.pshare.toNat)).sum) ∧
    (200000 ≤ 200000 ∧ 200000 < 200001) ∧
    (State.reset.mgmt.slotOk ≠ (false, false) ∧ State.reset.mgmt.flash = none ∧ (∃ m : Mgmt, m.slotOk = (false, false)) ∧ ∃ m : Mgmt, m.flash ≠ none) :=
  ⟨by decide +kernel, by decide +kernel, by decide +kernel, by decide +kernel,
    ⟨{ s0 with mgmt := { s0.mgmt with commit := .written [{ lay0 with dstall := 1 }] } }, rfl⟩, by decide +kernel, by decide +kernel,
    ⟨by decide +kernel, rfl, ⟨{ Mgmt.init with slotOk := (false, false) }, rfl⟩, ⟨{ Mgmt.init with flash := some [lay0] }, nofun⟩⟩⟩

end Sys2Proof.Tests
end

section
/-! The token words POPT and PUSHT (R74) and QPOP (R75): what a queue word that proceeds or cannot proceed does, and the flag-mode
QPOP words that R75 does not accept. -/

namespace Sys2Proof.Machine

open Sys2Proof

/-! ## Queue words: what proceeds, and what cannot (R25) -/

theorem onlyMe.trans {s t u : State} (h : onlyMe s t) (g : onlyMe t u) : onlyMe s u := by
  obtain ⟨hst, hs⟩ := h
  obtain ⟨htu, ht⟩ := g
  have hc : t.cur = s.cur := by rw [hst]
  rw [hc] at ht
  refine ⟨?_, fun j hj => (ht j hj).trans (hs j hj)⟩
  rw [htu, hst]

/-- The queues of the agent whose word issues become `q`, and results wait to land with L = 1; nothing else differs. With the queues as
they were this is `pends`. -/
def requeues (s t : State) (q : Queues) (ps : List Pend) : Prop :=
  onlyMe s t ∧ t.me = { s.me with q := q, sqr := { s.sqr with pend := s.sqr.pend ++ ps } }

theorem requeues_setMe (s : State) (q : Queues) : requeues s (s.setMe { s.me with q := q }) q [] :=
  ⟨onlyMe_setMe s _, by rw [State.me_setMe, List.append_nil]; rfl⟩

theorem requeues.pend {s t : State} {q : Queues} {ps : List Pend} (h : requeues s t q ps) (p : Pend) :
    requeues s (t.pend p) q (ps ++ [p]) := by
  obtain ⟨ho, hm⟩ := h
  refine ⟨ho.trans (onlyMe_setSqr t _), ?_⟩
  rw [State.pend, State.me_setSqr, State.sqr, hm, List.append_assoc]

/-- A queue word that proceeds writes 0 in flag mode (R25). -/
theorem requeues.proceeded {s t : State} {q : Queues} {ps : List Pend} (h : requeues s t q ps) (stall : Bool) (xd : BitVec 4) :
    requeues s (t.proceeded stall xd) q (ps ++ if stall then [] else [.x xd 0]) := by
  cases stall with
  | false => exact h.pend _
  | true => rw [if_pos rfl, List.append_nil]; exact h

/-- A queue word that cannot proceed stalls the strand in stall mode, and writes 1 in flag mode (R25). -/
theorem goes_blocked {s : State} {xd : BitVec 4} (i : Bool → Instr) (h : ∀ b, exec (i b) s = .next (s.blocked b xd)) :
    (s.myStrand.st ≠ .frozen → goes (i true) s (fun t => stalls s t)) ∧ goes (i false) s (fun t => pends s t [.x xd 1]) :=
  ⟨fun hf => ⟨_, h true, stalls_stall s hf⟩, ⟨_, h false, pends_pend s _⟩⟩

/-- Where no physical error stands, the read of a head entry leaves the state (R216). -/
theorem State.readHead_of_phys_nil (s : State) (k : AgentKey) (n : Nat) (h : s.phys = []) : s.readHead k n = s := by
  simp [State.readHead, h]

/-! ## POPT and PUSHT (R74) -/

/-- The tokens of a queue that POPT takes from: q8, else q10. -/
def Queues.popTokens (q : Queues) (n : BitVec 4) : List Nat := if n = 8 then q.q8 else q.q10

theorem exec_popt_cons (s : State) (q : BitVec 4) (stall : Bool) (xd : BitVec 4) {n : Nat} {l : List Nat}
    (h : s.me.q.popTokens q = n :: l) : exec (.popt q stall xd) s =
      .next (((s.setMe { s.me with q := if q = 8 then { s.me.q with q8 := l } else { s.me.q with q10 := l } }).pend
        (.observe (q ≠ 8) n)).proceeded stall xd) := by
  rw [Queues.popTokens] at h
  show execPopt q stall xd s = _
  simp only [execPopt, h]

theorem exec_popt_nil (s : State) (q : BitVec 4) (stall : Bool) (xd : BitVec 4) (h : s.me.q.popTokens q = []) :
    exec (.popt q stall xd) s = .next (s.blocked stall xd) := by
  rw [Queues.popTokens] at h
  show execPopt q stall xd s = _
  simp only [execPopt, h]

theorem exec_pusht_room (s : State) (q : BitVec 4) (stall : Bool) (xd : BitVec 4) (h : s.me.q.tokens q.toNat ≠ 255) :
    exec (.pusht q stall xd) s = .next ((s.setMe { s.me with q :=
      if q = 9 then { s.me.q with q9 := s.me.q.q9 + 1 } else { s.me.q with q11 := s.me.q.q11 + 1 } }).proceeded stall xd) := by
  show execPusht q stall xd s = _
  simp only [execPusht, if_neg h]

theorem exec_pusht_full (s : State) (q : BitVec 4) (stall : Bool) (xd : BitVec 4) (h : s.me.q.tokens q.toNat = 255) :
    exec (.pusht q stall xd) s = .next (s.blocked stall xd) := by
  show execPusht q stall xd s = _
  simp only [execPusht, if_pos h]

theorem goes_popt (s : State) (q : BitVec 4) (stall : Bool) (xd : BitVec 4) {n : Nat} {l : List Nat}
    (h : s.me.q.popTokens q = n :: l) : goes (.popt q stall xd) s (fun t =>
      requeues s t (if q = 8 then { s.me.q with q8 := l } else { s.me.q with q10 := l })
        ([.observe (q ≠ 8) n] ++ if stall then [] else [.x xd 0])) :=
  ⟨_, exec_popt_cons s q stall xd h, ((requeues_setMe s _).pend _).proceeded stall xd⟩

theorem goes_pusht (s : State) (q : BitVec 4) (stall : Bool) (xd : BitVec 4) (h : s.me.q.tokens q.toNat ≠ 255) :
    goes (.pusht q stall xd) s (fun t =>
      requeues s t (if q = 9 then { s.me.q with q9 := s.me.q.q9 + 1 } else { s.me.q with q11 := s.me.q.q11 + 1 })
        ([] ++ if stall then [] else [.x xd 0])) :=
  ⟨_, exec_pusht_room s q stall xd h, (requeues_setMe s _).proceeded stall xd⟩

/-- Settles O15: a queue that can give or take a token has its one change and the flag pending, one that cannot blocks the word. -/
theorem tokenWordsMoveTokens : Obligations.TokenWordsMoveTokens := by
  unfold Obligations.TokenWordsMoveTokens
  intro s stall xd
  simp only [List.append_assoc]
  exact ⟨fun n l h => goes_popt s 8 stall xd h, fun n l h => goes_popt s 10 stall xd h,
    fun h => goes_pusht s 9 stall xd h, fun h => goes_pusht s 11 stall xd h,
    fun h => goes_blocked (.popt 8 · xd) (fun b => exec_popt_nil s 8 b xd h),
    fun h => goes_blocked (.popt 10 · xd) (fun b => exec_popt_nil s 10 b xd h),
    fun h => goes_blocked (.pusht 9 · xd) (fun b => exec_pusht_full s 9 b xd h),
    fun h => goes_blocked (.pusht 11 · xd) (fun b => exec_pusht_full s 11 b xd h)⟩

/-! ## QPOP (R75) -/

/-- The results of a QPOP that removes an entry: its value, the observation of its command where it is that command's last entry (R205),
and in flag mode 0 in the next register. -/
def ResEntry.popPends (e : ResEntry) (stall : Bool) (xd : BitVec 4) : List Pend :=
  .x xd e.val :: ((if e.last then [.observe false e.seq] else []) ++ (if stall then [] else [.x (xd + 1) 0]))

/-- A QPOP that removes an entry observes its command where it is that command's last entry (R205). -/
theorem requeues.observed {s t : State} {q : Queues} {ps : List Pend} (h : requeues s t q ps) (e : ResEntry) :
    requeues s (if e.last then t.pend (.observe false e.seq) else t) q (ps ++ if e.last then [.observe false e.seq] else []) := by
  cases e.last with
  | false => simpa using h
  | true => exact h.pend _

theorem exec_qpop_cons (s : State) (q : BitVec 4) (stall : Bool) (xd : BitVec 4) {e : ResEntry} {l : List ResEntry}
    (hp : s.phys = []) (h : (s.me.q.res q.toNat).items = e :: l) :
    let a := (s.setMe { s.me with q := s.me.q.setRes q.toNat ((s.me.q.res q.toNat).pop s.me.marked) }).pend (.x xd e.val)
    exec (.qpop q stall xd) s = .next ((if e.last then a.pend (.observe false e.seq) else a).proceeded stall (xd + 1)) := by
  intro a
  show execQpop q stall xd s = _
  simp only [execQpop, State.readHead_of_phys_nil s _ _ hp, h]
  rfl

theorem exec_qpop_nil (s : State) (q : BitVec 4) (stall : Bool) (xd : BitVec 4) (hp : s.phys = [])
    (h : (s.me.q.res q.toNat).items = []) : exec (.qpop q stall xd) s = .next (s.blocked stall (xd + 1)) := by
  show execQpop q stall xd s = _
  simp only [execQpop, State.readHead_of_phys_nil s _ _ hp, h]
  rfl

theorem goes_qpop (s : State) (q : BitVec 4) (stall : Bool) (xd : BitVec 4) {e : ResEntry} {l : List ResEntry}
    (hp : s.phys = []) (h : (s.me.q.res q.toNat).items = e :: l) : goes (.qpop q stall xd) s (fun t =>
      requeues s t (s.me.q.setRes q.toNat ((s.me.q.res q.toNat).pop s.me.marked)) (e.popPends stall xd)) := by
  refine ⟨_, exec_qpop_cons s q stall xd hp h, ?_⟩
  have hq := requeues_setMe s (s.me.q.setRes q.toNat ((s.me.q.res q.toNat).pop s.me.marked))
  have hr := ((hq.pend (.x xd e.val)).observed e).proceeded stall (xd + 1)
  rwa [List.append_assoc] at hr

/-! ## The flag-mode words that R75 does not accept -/

/-- A word that decodes meets the limits of its instruction (R56). -/
theorem check_of_decodeWord {w : Word} {lits : List (BitVec 32)} {i : Instr} (h : decodeWord w lits = .ok i) : i.check = none := by
  simp only [decodeWord, bind, Except.bind] at h
  split at h
  · cases h
  · split at h
    · cases h; assumption
    · cases h

/-- A word that reads as an instruction whose limits it does not meet is an illegal word of that cause (R56). -/
theorem decodeWord_of_check {w : Word} {lits : List (BitVec 32)} {i : Instr} {c : Illegal} (hr : readWord w lits = .ok i)
    (hc : i.check = some c) : decodeWord w lits = .error c := by
  simp only [decodeWord, bind, Except.bind, hr, hc]

/-- A text whose first word is illegal, whatever literals follow, is illegal of that cause (R37, R56). -/
theorem decodeWords_of_decodeWord {w : Word} {ws : List Word} {c : Illegal} (h : ∀ lits, decodeWord w lits = .error c) :
    decodeWords (w :: ws) = .error c := by
  unfold decodeWords
  dsimp only
  rw [h]
  rfl

/-- Where a flag-mode QPOP writes: an even register from x2 to x14 (R75). -/
theorem check_qpop_flag (q xd : BitVec 4) :
    (Instr.qpop q false xd).check = if xd.toNat % 2 = 0 ∧ 2 ≤ xd.toNat then needQ q [6, 7] else some .notAccepted := by
  by_cases h : xd.toNat % 2 = 0 ∧ 2 ≤ xd.toNat
  · simp [Instr.check, need, h]
  · simp only [Instr.check, need, if_neg h]
    simp [h]

/-- The fields of a queue word are read back (R33, R71). -/
theorem unpack_s4 (q : BitVec 4) (s : Bool) (xd : BitVec 4) : unpack layS4 (s4 q s xd).1 = [q.toNat, s.toNat, xd.toNat, 0] := by
  have hq : q.toNat % 2 ^ 4 = q.toNat := Nat.mod_eq_of_lt q.isLt
  have hx : xd.toNat % 2 ^ 4 = xd.toNat := Nat.mod_eq_of_lt xd.isLt
  have hs : s.toNat % 2 ^ 1 = s.toNat := Nat.mod_eq_of_lt s.toNat_lt
  have hu := unpack_body layS4 [q.toNat, s.toNat, xd.toNat, 0] rfl
  rw [s4, hu]
  simp only [layS4, List.zipWith_cons_cons, List.zipWith_nil_left, hq, hx, hs, Nat.zero_mod]

theorem readS4_qpop (q : BitVec 4) (s : Bool) (xd : BitVec 4) : readS4 0x34 (s4 q s xd).1 = .ok (.qpop q s xd) := by
  rw [readS4, unpack_s4]
  have hb : bit s.toNat = s := by cases s <;> rfl
  show Except.ok (Instr.qpop (bv 4 q.toNat) (bit s.toNat) (bv 4 xd.toNat)) = _
  rw [bv, bv, BitVec.ofNat_toNat, BitVec.ofNat_toNat, BitVec.setWidth_eq, BitVec.setWidth_eq, hb]

theorem readWord_qpop (idle : BitVec 10) (q : BitVec 4) (s : Bool) (xd : BitVec 4) (lits : List (BitVec 32)) :
    readWord (mkWord 0 idle.toNat 0x34 (s4 q s xd).1) lits = .ok (.qpop q s xd) := by
  have hb : (s4 q s xd).1 < 2 ^ 43 := body_lt layS4 _ rfl
  unfold readWord
  rw [wordEng_mkWord 0 _ 0x34 _ (by decide) idle.isLt (by decide) hb, wordOp_mkWord 0 _ 0x34 _ (by decide) idle.isLt (by decide) hb,
    wordBody_mkWord 0 _ 0x34 _ (by decide) idle.isLt (by decide) hb]
  exact readS4_qpop q s xd

/-- A flag-mode QPOP whose xd is odd or x0 is no accepted word, at every idle count (R56, R75). -/
theorem decodeWords_encode_qpop_flag (idle : BitVec 10) (q xd : BitVec 4) (h : ¬ (xd.toNat % 2 = 0 ∧ 2 ≤ xd.toNat)) :
    decodeWords (encode idle (.qpop q false xd)) = .error .notAccepted :=
  decodeWords_of_decodeWord (fun lits =>
    decodeWord_of_check (readWord_qpop idle q false xd lits) (by rw [check_qpop_flag, if_neg h]))

/-- Settles O16: an entry that is removed has its results pending, an empty queue blocks the word, and the registers that flag mode may
write are a limit of the decoder. -/
theorem qpopRemovesTheHead : Obligations.QpopRemovesTheHead := by
  unfold Obligations.QpopRemovesTheHead
  intro s q stall xd hp _ Q
  refine ⟨fun e l h => ?_, fun h => ?_, fun w lits h => ?_, fun idle h => ?_⟩
  · have hpop : Q.pop s.me.marked =
        { Q with items := l, kept := if s.me.marked then Q.kept + 1 else Q.kept, rd := (Q.rd + 1) % 16 } := by rw [ResQ.pop, h]; rfl
    rw [← hpop]
    exact goes_qpop s q stall xd hp h
  · exact goes_blocked (.qpop q · xd) (fun b => exec_qpop_nil s q b xd hp h)
  · have hc := check_of_decodeWord h
    rw [check_qpop_flag] at hc
    split at hc
    · assumption
    · cases hc
  · refine decodeWords_encode_qpop_flag idle q xd ?_
    rintro ⟨heven, hpos⟩
    rcases h with hodd | rfl
    · omega
    · exact absurd hpos (by decide)

end Sys2Proof.Machine
end

section
/-! The beats of a matrix product (R101, R105, R141, R142, R146): the lanes of a row, the elements of a chunk, what one beat leaves in
every accumulator, the exact chunk sum with its NaNs and infinities (R91), and the four beats of an I8 product. -/

namespace Sys2Proof.Machine

open Sys2Proof

/-! ## Lanes of a row and signed numbers (R15, R100) -/

theorem packN_div_mod (w : Nat) (l : List Nat) (i : Nat) : packN w l / 2 ^ (w * i) % 2 ^ w = l.getD i 0 % 2 ^ w := by
  have hpos : 0 < 2 ^ w := Nat.two_pow_pos w
  induction l generalizing i with
  | nil => simp [packN]
  | cons v l ih =>
    have hcons : packN w (v :: l) = v % 2 ^ w + packN w l * 2 ^ w := rfl
    cases i with
    | zero => simp [hcons]
    | succ i =>
      rw [hcons, Nat.mul_succ, Nat.add_comm (w * i), Nat.pow_add, ← Nat.div_div_eq_div_mul, Nat.add_mul_div_right _ _ hpos,
        Nat.div_eq_of_lt (Nat.mod_lt _ hpos), Nat.zero_add, ih, List.getD_cons_succ]

/-- A field of a word that lies within the word is that field of the number it was made from. -/
theorem toNat_ofNat_field (x : Nat) {n lo w : Nat} (h : lo + w ≤ n) : (BitVec.ofNat n x).toNat / 2 ^ lo % 2 ^ w = x / 2 ^ lo % 2 ^ w := by
  obtain ⟨d, rfl⟩ := Nat.le.dest h
  rw [BitVec.toNat_ofNat, Nat.pow_add, Nat.pow_add, Nat.mul_assoc, Nat.mod_mul_right_div_self, Nat.mod_mul_right_mod]

/-- A lane of a packed row is its element cut to the lane's width. -/
theorem lane_packRow (w : Nat) (l : List Nat) (i : Nat) (h : w * i + w ≤ 1024) : lane w (packRow w l) i = l.getD i 0 % 2 ^ w :=
  (toNat_ofNat_field _ h).trans (packN_div_mod w l i)

theorem lanesOf_eq (w : Nat) (d : BitVec 1024) : lanesOf w d = (List.range (1024 / w)).map (lane w d) := by
  simp only [lanesOf, Nat.shiftRight_eq_div_pow]
  rfl

theorem lane_lt (w : Nat) (d : BitVec 1024) (i : Nat) : lane w d i < 2 ^ w := Nat.mod_lt _ (Nat.two_pow_pos w)

/-- The model's signed number is the signed lane (R100). -/
theorem sgn_eq_slane (w : Nat) {x : Nat} (h : x < 2 ^ (w + 1)) : sgn (w + 1) x = slane (w + 1) x := by
  rw [sgn, slane, BitVec.toInt_eq_toNat_cond, BitVec.toNat_ofNat, Nat.mod_eq_of_lt h, Nat.add_sub_cancel]
  have hp : 2 ^ (w + 1) = 2 * 2 ^ w := Nat.pow_succ'
  by_cases hx : x < 2 ^ w
  · rw [if_pos (by omega), if_pos hx]
  · rw [if_neg (by omega), if_neg hx]
    norm_cast

/-- Adding to a signed lane and wrapping is adding modulo the lane's range (R100, R101). -/
theorem wrapInt_sgn_add (w x : Nat) (s : Int) : (wrapInt w (sgn w x + s) : Int) = (x + s) % 2 ^ w := by
  have hpos : (0 : Int) < 2 ^ w := Int.pow_pos (by decide)
  rw [wrapInt, BitVec.toNat_ofInt, sgn, BitVec.toInt_ofNat']
  rw [Int.toNat_of_nonneg (Int.emod_nonneg _ (by exact_mod_cast Int.ne_of_gt hpos)), Int.add_emod, Int.bmod_emod, ← Int.add_emod]
  norm_cast

theorem wrapInt_lt (w : Nat) (v : Int) : wrapInt w v < 2 ^ w := (BitVec.ofInt w v).isLt

theorem fpInt_intFp (v : Int) : fpInt (intFp v) = v := by
  simp only [intFp, fpInt, decide_eq_true_eq]
  split <;> omega

/-! ## Elements of a chunk (R96, R105, R141, R142) -/

theorem blockByte_eq (u : BitVec 256) (i : Nat) : blockByte u i = u.toNat / 2 ^ (8 * i) % 256 := by
  rw [blockByte, Nat.shiftRight_eq_div_pow]

theorem blockOf_eq_elemAt (fmt : MFmt) (us : List (BitVec 256)) (k i : Nat) :
    blockOf fmt us k i = elemAt fmt (fun u => us.getD u 0) k i := by
  cases fmt with
  | m8 => exact blockByte_eq _ i
  | i8 => exact blockByte_eq _ i
  | bf16 => simp only [blockOf, elemAt, Nat.shiftRight_eq_div_pow]

/-- An element's value is that of its bits under the scale of its block, which only M8 has (R96, R97). -/
theorem mmaValue_blockOf (fmt : MFmt) (us : List (BitVec 256)) (k i : Nat) {scale : Int} {sc : Byte} (h : fmt = .m8 → scale = sc.toInt) :
    mmaValue fmt (blockOf fmt us k i) scale = elemFp fmt (elemAt fmt (fun u => us.getD u 0) k i) sc := by
  rw [blockOf_eq_elemAt]
  cases fmt with
  | m8 => rw [h rfl]; rfl
  | bf16 => rfl
  | i8 => exact congrArg intFp (sgn_eq_slane 7 (Nat.mod_lt _ (by decide)))

/-- Element (i, k) of A in the next chunk of a product, k counted within the chunk (R141, R142). -/
def MmaRun.elemA (r : MmaRun) (fmt : MFmt) (bt : Beat) (i k : Nat) : Fp :=
  match r.a with
  | some o => elemFp fmt (elemAt fmt (fun u => o.1.getD u 0) (chunkLen fmt * r.n + k) i) (o.2.getD (chunkLen fmt * r.n + k) 0)
  | none => elemFp fmt (elemAt fmt bt.slot k i) (bt.scaleOf k)

/-- The scale byte of block k of B (R142). -/
def MmaRun.scaleB (r : MmaRun) (k : Nat) : Byte := bv 8 ((r.b.getD 32 0).toNat / 2 ^ (8 * k) % 256)

/-- Element (k, j) of B in the next chunk of a product, k counted within the chunk (R142). -/
def MmaRun.elemB (r : MmaRun) (fmt : MFmt) (tb : Bool) (k j : Nat) : Fp :=
  let e := elemAt fmt (fun u => r.b.getD u 0)
  if tb then elemFp fmt (e j (chunkLen fmt * r.n + k)) (r.scaleB j)
  else elemFp fmt (e (chunkLen fmt * r.n + k) j) (r.scaleB (chunkLen fmt * r.n + k))

/-- The chunk of A that the next beat takes. -/
def MmaRun.chunk (r : MmaRun) (fmt : MFmt) (bt : Beat) : AChunk :=
  match r.a with
  | some o => fixedChunk fmt r.n o.1 o.2
  | none => laneChunk fmt bt

/-- The products of the next chunk for the accumulator (i, j), as pairs of factors. -/
def MmaRun.products (r : MmaRun) (fmt : MFmt) (tb : Bool) (bt : Beat) (i j : Nat) : List (Fp × Fp) :=
  (List.range (chunkLen fmt)).map (fun k => (r.elemA fmt bt i k, r.elemB fmt tb k j))

/-- A chunk reads slots of its beat only (R141). -/
theorem elemAt_slots (fmt : MFmt) (bt : Beat) {k i : Nat} (hk : k < chunkLen fmt) (hi : i < 32) :
    elemAt fmt (fun u => ((List.range 8).map bt.slot).getD u 0) k i = elemAt fmt bt.slot k i := by
  have hslot : ∀ u, u < 8 → ((List.range 8).map bt.slot).getD u 0 = bt.slot u := fun u hu => by simp [hu]
  cases fmt with
  | m8 => simp only [elemAt, hslot k hk]
  | i8 => simp only [elemAt, hslot k hk]
  | bf16 =>
    have hu : 2 * k + i / 16 < 8 := by
      have : k < 2 := hk
      omega
    simp only [elemAt, hslot _ hu]

theorem chunk_value (r : MmaRun) (fmt : MFmt) (bt : Beat) {i k : Nat} (hi : i < 32) (hk : k < chunkLen fmt) :
    mmaValue fmt ((r.chunk fmt bt).elem i k) ((r.chunk fmt bt).scale k) = r.elemA fmt bt i k := by
  rw [MmaRun.chunk, MmaRun.elemA]
  cases r.a with
  | some o => exact mmaValue_blockOf fmt o.1 _ i (by rintro rfl; rfl)
  | none =>
    refine (mmaValue_blockOf fmt _ k i (sc := bt.scaleOf k) (by rintro rfl; rfl)).trans ?_
    rw [elemAt_slots fmt bt hk hi]

theorem scaleAt_m8 (r : MmaRun) (k : Nat) : scaleAt .m8 r.b k = (r.scaleB k).toInt := by
  rw [scaleAt, sgn, blockByte_eq, MmaRun.scaleB]

theorem blockB_value (r : MmaRun) (fmt : MFmt) (tb : Bool) (k j : Nat) :
    (if tb then mmaValue fmt (blockOf fmt r.b j (chunkLen fmt * r.n + k)) (scaleAt fmt r.b j)
      else mmaValue fmt (blockOf fmt r.b (chunkLen fmt * r.n + k) j) (scaleAt fmt r.b (chunkLen fmt * r.n + k))) = r.elemB fmt tb k j := by
  have hscale : ∀ m, fmt = .m8 → scaleAt fmt r.b m = (r.scaleB m).toInt := by
    rintro m rfl
    exact scaleAt_m8 r m
  rw [MmaRun.elemB, mmaValue_blockOf fmt r.b _ _ (hscale _), mmaValue_blockOf fmt r.b _ _ (hscale _)]

/-! ## One beat, accumulator by accumulator (R101, R105, R146) -/

/-- What a beat makes of one accumulator: an I8 sum wraps, any other is added with one rounding. -/
def mmaCell (fmt : MFmt) (sub : Bool) (ent : OvE) (acc : Nat) (ps : List (Fp × Fp)) : Res :=
  match fmt with
  | .i8 =>
    let s := ps.foldl (fun (s : Int) q => s + fpInt q.1 * fpInt q.2) 0
    .exact (wrapInt 32 (sgn 32 acc + (if sub then -s else s)))
  | _ => accStep sub ent acc (chunkSum ps)

theorem map_zipIdx_eq {α β : Type} (l : List α) (d : α) (f : α × Nat → β) :
    l.zipIdx.map f = (List.range l.length).map (fun i => f (l.getD i d, i)) := by
  refine List.ext_getElem (by simp) (fun i h₁ h₂ => ?_)
  have hi : i < l.length := by simpa using h₁
  simp [hi]

/-- The accumulator (i, j) after the next beat. -/
def MmaRun.cell (r : MmaRun) (fmt : MFmt) (sub tb : Bool) (ent : OvE) (bt : Beat) (i j : Nat) : Res :=
  mmaCell fmt sub ent (lane 32 (r.acc.getD i 0) j) (r.products fmt tb bt i j)

/-- The accumulators after the next beat, 32 rows of 32. -/
def MmaRun.cells (r : MmaRun) (fmt : MFmt) (sub tb : Bool) (ent : OvE) (bt : Beat) : List (List Res) :=
  (List.range 32).map (fun i => (List.range 32).map (r.cell fmt sub tb ent bt i))

theorem mmaChunk_eq_cells (r : MmaRun) (fmt : MFmt) (sub tb : Bool) (ent : OvE) (bt : Beat) (h : r.acc.length = 32) :
    mmaChunk fmt sub tb ent r.n (r.chunk fmt bt) r.b r.acc =
      ((r.cells fmt sub tb ent bt).map (fun rs => packRow 32 (rs.map (·.bits))),
        (r.cells fmt sub tb ent bt).foldl (fun f rs => f ||| orFlags rs) 0, (r.cells fmt sub tb ent bt).any resPois) := by
  have hrows : r.acc.zipIdx.map (fun x =>
      ((lanesOf 32 x.1).zip ((List.range 32).map (fun j => (List.range (chunkLen fmt)).map (fun k => r.elemB fmt tb k j)))).map (fun p =>
        mmaCell fmt sub ent p.1 (((List.range (chunkLen fmt)).map (fun k =>
          mmaValue fmt ((r.chunk fmt bt).elem x.2 k) ((r.chunk fmt bt).scale k))).zip p.2))) = r.cells fmt sub tb ent bt := by
    rw [map_zipIdx_eq r.acc 0, h]
    refine List.map_congr_left (fun i hi => ?_)
    rw [lanesOf_eq, List.zip_map', List.map_map]
    refine List.map_congr_left (fun j _ => ?_)
    have hprod : r.products fmt tb bt i j = ((List.range (chunkLen fmt)).map (fun k =>
        mmaValue fmt ((r.chunk fmt bt).elem i k) ((r.chunk fmt bt).scale k))).zip
          ((List.range (chunkLen fmt)).map (fun k => r.elemB fmt tb k j)) := by
      rw [List.zip_map']
      exact List.map_congr_left (fun k hk => by rw [chunk_value r fmt bt (List.mem_range.mp hi) (List.mem_range.mp hk)])
    rw [MmaRun.cell, hprod]
    rfl
  rw [← hrows]
  simp only [mmaChunk, blockB_value]
  cases fmt <;> rfl

/-- A beat of a product puts its cells in the place of the accumulators, adds their flags and counts itself (R146). -/
theorem advance_eq (r : MmaRun) (bt : Beat) {g : Guard} {fmt : MFmt} {mode : MMode} {tb : Bool} {ovr : MOvr} {md : BitVec 5} {a : MmaA}
    {sb : BitVec 4} {bd : BitVec 10} (hi : r.ins = .mma g fmt mode tb ovr md a sb bd) (hl : r.acc.length = 32) :
    let cs := r.cells fmt (mode == .sub) tb (ovrEntry ovr (ovF32 r.ovf)) bt
    let p := match r.a with | some _ => false | none => lanePois fmt bt
    (r.advance bt).1 = { r with
      n := r.n + 1, acc := cs.map (fun rs => packRow 32 (rs.map (·.bits))), fl := r.fl ||| cs.foldl (fun f rs => f ||| orFlags rs) 0
      pois := r.pois || p || cs.any resPois } := by
  intro cs p
  have hc := mmaChunk_eq_cells r fmt (mode == .sub) tb (ovrEntry ovr (ovF32 r.ovf)) bt hl
  rw [MmaRun.chunk] at hc
  rw [MmaRun.advance, hi]
  cases ha : r.a with
  | some o =>
    simp only [ha] at hc
    simp only [hc, cs, p, ha]
  | none =>
    simp only [ha] at hc
    simp only [hc, cs, p, ha]

theorem lane_cells (r : MmaRun) (fmt : MFmt) (sub tb : Bool) (ent : OvE) (bt : Beat) {i j : Nat} (hi : i < 32) (hj : j < 32) :
    lane 32 (((r.cells fmt sub tb ent bt).map (fun rs => packRow 32 (rs.map (·.bits)))).getD i 0) j =
      (r.cell fmt sub tb ent bt i j).bits % 2 ^ 32 := by
  have hrow : ((r.cells fmt sub tb ent bt).map (fun rs => packRow 32 (rs.map (·.bits)))).getD i 0 =
      packRow 32 ((List.range 32).map (fun j => (r.cell fmt sub tb ent bt i j).bits)) := by
    simp [MmaRun.cells, hi, Function.comp_def]
  rw [hrow, lane_packRow 32 _ j (by omega)]
  simp [hj]

theorem or_and_eq_zero_iff (x y f : BitVec 5) : (x ||| y) &&& f = 0 ↔ x &&& f = 0 ∧ y &&& f = 0 := by
  rw [BitVec.and_comm, BitVec.and_or_distrib_left, BitVec.and_comm f, BitVec.and_comm f]
  exact BitVec.or_eq_zero_iff

/-- The OR of flags has none of a set exactly if no part of it has. -/
theorem foldl_or_and_eq_zero_iff {α : Type} (l : List α) (g : α → BitVec 5) (m f : BitVec 5) :
    l.foldl (fun m x => m ||| g x) m &&& f = 0 ↔ m &&& f = 0 ∧ ∀ x ∈ l, g x &&& f = 0 := by
  induction l generalizing m with
  | nil => simp
  | cons x l ih => rw [List.foldl_cons, ih, or_and_eq_zero_iff, List.forall_mem_cons, and_assoc]

theorem cells_flags_iff (r : MmaRun) (fmt : MFmt) (sub tb : Bool) (ent : OvE) (bt : Beat) (f : BitVec 5) :
    (r.cells fmt sub tb ent bt).foldl (fun f rs => f ||| orFlags rs) 0 &&& f = 0 ↔
      ∀ i, i < 32 → ∀ j, j < 32 → (r.cell fmt sub tb ent bt i j).fl &&& f = 0 := by
  have hz : (0 : BitVec 5) &&& f = 0 := BitVec.zero_and
  simp only [orFlags, foldl_or_and_eq_zero_iff, MmaRun.cells, List.forall_mem_map, List.mem_range, hz, true_and]

/-! ## The exact chunk sum (R91, R105) -/

/-- Whether a value is an infinity. -/
def Fp.IsInf (v : Fp) : Prop := ∃ n, v = .inf n

/-- Whether a value is a zero. -/
def Fp.IsZero (v : Fp) : Prop := v.isFin = true ∧ v.scaled v.low = 0

/-- The factors are 0 and ∞. -/
def zeroTimesInf (p : Fp × Fp) : Prop := p.1.IsInf ∧ p.2.IsZero ∨ p.1.IsZero ∧ p.2.IsInf

/-- The factors have no product that is a number or an infinity (R91). -/
def noProduct (p : Fp × Fp) : Prop := p.1.isNan = true ∨ p.2.isNan = true ∨ zeroTimesInf p

/-- The product is an infinity of a sign. -/
def infProduct (n : Bool) (p : Fp × Fp) : Prop := ¬ noProduct p ∧ (p.1.IsInf ∨ p.2.IsInf) ∧ n = (p.1.minus ^^ p.2.minus)

/-- The factors raise invalid: one is a signalling NaN, or they are 0 and ∞ (R91). -/
def badProduct (p : Fp × Fp) : Prop := p.1.isSig = true ∨ p.2.isSig = true ∨ zeroTimesInf p

/-- The product of a pair, where it has one. -/
def exactProd (p : Fp × Fp) : Option Fp := if p.1.isNan || p.2.isNan then none else fpProd p.1 p.2

/-- Whether the chunk has infinite products of a sign. -/
def hasInf (ps : List (Fp × Fp)) (n : Bool) : Prop := ∃ p ∈ ps, infProduct n p

theorem Fp.eq_fin_of_isFin {v : Fp} (h : v.isFin = true) : ∃ n m e, v = .fin n m e := by
  cases v with
  | nan s => cases h
  | inf n => cases h
  | fin n m e => exact ⟨n, m, e, rfl⟩

@[simp] theorem Fp.isInf_nan (s : Bool) : ¬ (Fp.nan s).IsInf := nofun
@[simp] theorem Fp.isInf_inf (n : Bool) : (Fp.inf n).IsInf := ⟨n, rfl⟩
@[simp] theorem Fp.isInf_fin (n : Bool) (m : Nat) (e : Int) : ¬ (Fp.fin n m e).IsInf := nofun
@[simp] theorem Fp.isZero_nan (s : Bool) : ¬ (Fp.nan s).IsZero := nofun
@[simp] theorem Fp.isZero_inf (n : Bool) : ¬ (Fp.inf n).IsZero := nofun
theorem Fp.scaled_fin_eq_zero (n : Bool) (m : Nat) (e lo : Int) : (Fp.fin n m e).scaled lo = 0 ↔ m = 0 := by
  have hsign : (if n then -1 else 1 : Int) ≠ 0 := by cases n <;> decide
  have hunit : 2 ^ (e - lo).toNat ≠ 0 := Nat.ne_of_gt (Nat.two_pow_pos _)
  rw [Fp.scaled, Int.mul_eq_zero, Int.natCast_eq_zero, Nat.mul_eq_zero, or_iff_right hsign, or_iff_left hunit]
@[simp] theorem Fp.isZero_fin (n : Bool) (m : Nat) (e : Int) : (Fp.fin n m e).IsZero ↔ m = 0 := by
  simp [Fp.IsZero, Fp.scaled_fin_eq_zero, Fp.isFin]

theorem exactProd_eq_none_iff (p : Fp × Fp) : exactProd p = none ↔ noProduct p := by
  obtain ⟨a, b⟩ := p
  cases a <;> cases b <;> simp [exactProd, noProduct, zeroTimesInf, Fp.isNan, fpProd]

theorem exactProd_eq_inf_iff (n : Bool) (p : Fp × Fp) : exactProd p = some (.inf n) ↔ infProduct n p := by
  obtain ⟨a, b⟩ := p
  cases a <;> cases b <;> simp [exactProd, infProduct, noProduct, zeroTimesInf, Fp.isNan, fpProd, Fp.minus, eq_comm, Bool.xor_comm]

theorem badProduct_iff (p : Fp × Fp) :
    (p.1.isSig || p.2.isSig || (!p.1.isNan && !p.2.isNan && (fpProd p.1 p.2).isNone)) = true ↔ badProduct p := by
  obtain ⟨a, b⟩ := p
  cases a <;> cases b <;> simp [badProduct, zeroTimesInf, Fp.isNan, Fp.isSig, fpProd]

/-- The lowest exponent of the products so far, zeros left out. -/
def lowAcc (l : Int) : Fp → Int
  | .fin _ m e => if m = 0 then l else min l e
  | _ => l

/-- The sum so far in units of 2^lo, zeros left out. -/
def sumAcc (lo a : Int) : Fp → Int
  | .fin n m e => if m = 0 then a else a + signedAt n m e lo
  | _ => a

/-- Whether a value is −0. -/
def negZero : Fp → Bool
  | .fin n m _ => n && m == 0
  | _ => false

/-- The exact sum of products that are numbers; a zero sum is −0 only where every product is (R105). -/
def numberSum (vs : List Fp) : Fp :=
  let lo := vs.foldl lowAcc 0
  let s := vs.foldl (sumAcc lo) 0
  .fin (if s = 0 then vs.all negZero else decide (s < 0)) s.natAbs lo

theorem chunkSum_eq (ps : List (Fp × Fp)) :
    let nan := ps.any (fun p => (exactProd p).isNone)
    let sig := ps.any (fun p => p.1.isSig || p.2.isSig || (!p.1.isNan && !p.2.isNan && (fpProd p.1 p.2).isNone))
    let inf := fun n => (ps.filterMap exactProd).any (· == .inf n)
    chunkSum ps =
      if nan || (inf false && inf true) then (.nan false, fIf (sig || (inf false && inf true)) fNv)
      else if inf false || inf true then (.inf (inf true), 0)
      else (numberSum (ps.filterMap exactProd), 0) := rfl

theorem any_isNone_iff (ps : List (Fp × Fp)) : ps.any (fun p => (exactProd p).isNone) = true ↔ ∃ p ∈ ps, noProduct p := by
  simp [List.any_eq_true, exactProd_eq_none_iff]

theorem any_badProduct_iff (ps : List (Fp × Fp)) :
    ps.any (fun p => p.1.isSig || p.2.isSig || (!p.1.isNan && !p.2.isNan && (fpProd p.1 p.2).isNone)) = true ↔ ∃ p ∈ ps, badProduct p := by
  simp only [List.any_eq_true, badProduct_iff]

theorem any_inf_iff (ps : List (Fp × Fp)) (n : Bool) : (ps.filterMap exactProd).any (· == .inf n) = true ↔ hasInf ps n := by
  simp only [List.any_eq_true, List.mem_filterMap, beq_iff_eq, exists_eq_right, exactProd_eq_inf_iff, hasInf]

theorem Fp.isNan_of_isSig {v : Fp} (h : v.isSig = true) : v.isNan = true := by
  cases v with
  | nan s => rfl
  | inf n => cases h
  | fin n m e => cases h

theorem noProduct_of_bad {p : Fp × Fp} (h : badProduct p) : noProduct p := by
  rcases h with ha | hb | hz
  · exact .inl (Fp.isNan_of_isSig ha)
  · exact .inr (.inl (Fp.isNan_of_isSig hb))
  · exact .inr (.inr hz)

/-- A pair without a product, or infinities of both signs, leave a NaN (R91). -/
theorem chunkSum_nan {ps : List (Fp × Fp)} (h : (∃ p ∈ ps, noProduct p) ∨ hasInf ps true ∧ hasInf ps false) :
    (chunkSum ps).1 = .nan false := by
  rw [chunkSum_eq, if_pos]
  rw [Bool.or_eq_true, Bool.and_eq_true, any_isNone_iff, any_inf_iff, any_inf_iff, and_comm]
  exact h

/-- A signalling NaN, 0 × ∞ or infinities of both signs are invalid (R91). -/
theorem chunkSum_invalid {ps : List (Fp × Fp)} (h : (∃ p ∈ ps, badProduct p) ∨ hasInf ps true ∧ hasInf ps false) :
    (chunkSum ps).2 = fNv := by
  rw [chunkSum_eq, if_pos]
  · rw [fIf, if_pos]
    rw [Bool.or_eq_true, Bool.and_eq_true, any_badProduct_iff, any_inf_iff, any_inf_iff, and_comm]
    exact h
  · rw [Bool.or_eq_true, Bool.and_eq_true, any_isNone_iff, any_inf_iff, any_inf_iff, and_comm]
    exact h.imp_left fun ⟨p, hp, hb⟩ => ⟨p, hp, noProduct_of_bad hb⟩

/-- Infinite products of one sign are their sum (R91). -/
theorem chunkSum_inf {ps : List (Fp × Fp)} {n : Bool} (h : ∀ p ∈ ps, ¬ noProduct p) (hn : hasInf ps n) (hn' : ¬ hasInf ps (!n)) :
    (chunkSum ps).1 = .inf n := by
  have hnone := mt (any_isNone_iff ps).mp (fun ⟨p, hp, hb⟩ => h p hp hb)
  have hinf := (any_inf_iff ps n).mpr hn
  have hinf' := mt (any_inf_iff ps (!n)).mp hn'
  rw [Bool.not_eq_true] at hnone hinf'
  rw [chunkSum_eq]
  cases n with
  | false =>
    rw [Bool.not_false] at hinf'
    simp [hnone, hinf, hinf']
  | true =>
    rw [Bool.not_true] at hinf'
    simp [hnone, hinf, hinf']

theorem not_noProduct_of_fin {p : Fp × Fp} (h : p.1.isFin = true ∧ p.2.isFin = true) : ¬ noProduct p ∧ ∀ n, ¬ infProduct n p := by
  obtain ⟨a, b⟩ := p
  obtain ⟨⟨n₁, m₁, e₁, rfl⟩, n₂, m₂, e₂, rfl⟩ := And.imp Fp.eq_fin_of_isFin Fp.eq_fin_of_isFin h
  simp [noProduct, infProduct, zeroTimesInf, Fp.isNan]

theorem chunkSum_of_fin {ps : List (Fp × Fp)} (h : ∀ p ∈ ps, p.1.isFin = true ∧ p.2.isFin = true) :
    (chunkSum ps).1 = numberSum (ps.filterMap exactProd) := by
  have hnone := mt (any_isNone_iff ps).mp (fun ⟨p, hp, hb⟩ => (not_noProduct_of_fin (h p hp)).1 hb)
  have hinf := fun n => mt (any_inf_iff ps n).mp (fun ⟨p, hp, hb⟩ => (not_noProduct_of_fin (h p hp)).2 n hb)
  rw [chunkSum_eq]
  simp only [Bool.not_eq_true] at hnone hinf
  simp [hnone, hinf]

/-! ## The sum of a chunk's numbers (R105) -/

theorem signedAt_eq_scaled (n : Bool) (m : Nat) (e lo : Int) : signedAt n m e lo = (Fp.fin n m e).scaled lo := by
  cases n <;> simp [signedAt, Fp.scaled, Nat.shiftLeft_eq]

/-- The common exponent is at most that of every product that is not zero. -/
theorem foldl_lowAcc_le (vs : List Fp) (l : Int) :
    vs.foldl lowAcc l ≤ l ∧ ∀ v ∈ vs, v.scaled v.low ≠ 0 → vs.foldl lowAcc l ≤ v.low := by
  induction vs generalizing l with
  | nil => simp
  | cons v vs ih =>
    obtain ⟨hl, hvs⟩ := ih (lowAcc l v)
    have hstep : lowAcc l v ≤ l ∧ (v.scaled v.low ≠ 0 → lowAcc l v ≤ v.low) := by
      cases v with
      | nan s => simp [lowAcc, Fp.scaled]
      | inf n => simp [lowAcc, Fp.scaled]
      | fin n m e =>
        by_cases hm : m = 0
        · simp [lowAcc, hm, Fp.scaled]
        · rw [lowAcc, if_neg hm]
          exact ⟨Int.min_le_left .., fun _ => Int.min_le_right ..⟩
    rw [List.foldl_cons, List.forall_mem_cons]
    exact ⟨Int.le_trans hl hstep.1, fun hv => Int.le_trans hl (hstep.2 hv), hvs⟩

theorem foldl_sumAcc (lo : Int) (vs : List Fp) (a : Int) : vs.foldl (sumAcc lo) a = a + (vs.map (Fp.scaled lo)).sum := by
  induction vs generalizing a with
  | nil => simp
  | cons v vs ih =>
    have hstep : sumAcc lo a v = a + v.scaled lo := by
      cases v with
      | nan s => simp [sumAcc, Fp.scaled]
      | inf n => simp [sumAcc, Fp.scaled]
      | fin n m e =>
        by_cases hm : m = 0
        · simp [sumAcc, hm, Fp.scaled]
        · simp [sumAcc, hm, signedAt_eq_scaled]
    rw [List.foldl_cons, ih, hstep, List.map_cons, List.sum_cons, Int.add_assoc]

theorem all_negZero_iff {vs : List Fp} (h : ∀ v ∈ vs, v.isFin = true) :
    vs.all negZero = true ↔ ∀ v ∈ vs, v.minus = true ∧ v.scaled v.low = 0 := by
  rw [List.all_eq_true]
  refine forall₂_congr (fun v hv => ?_)
  obtain ⟨n, m, e, rfl⟩ := Fp.eq_fin_of_isFin (h v hv)
  simp [negZero, Fp.minus, Fp.scaled_fin_eq_zero]

theorem Fp.scaled_self (n : Bool) (m : Nat) (e : Int) : (Fp.fin n m e).scaled e = if n then -(m : Int) else m := by
  cases n <;> simp [Fp.scaled]

theorem Fp.scaled_eq_self_mul (n : Bool) (m : Nat) (e lo : Int) :
    (Fp.fin n m e).scaled lo = (Fp.fin n m e).scaled e * ((2 ^ (e - lo).toNat : Nat) : Int) := by
  rw [Fp.scaled_self, Fp.scaled, Int.natCast_mul, ← Int.mul_assoc]
  cases n with
  | false => rw [if_neg Bool.false_ne_true, if_neg Bool.false_ne_true, Int.one_mul]
  | true => rw [if_pos rfl, if_pos rfl, Int.neg_one_mul]

/-- Signs and magnitudes multiply apart. -/
theorem ite_neg_mul (n₁ n₂ : Bool) (m₁ m₂ : Nat) : (if n₁ != n₂ then -((m₁ * m₂ : Nat) : Int) else (m₁ * m₂ : Nat)) =
    (if n₁ then -(m₁ : Int) else m₁) * (if n₂ then -(m₂ : Int) else m₂) := by
  rw [Int.natCast_mul]
  cases n₁ with
  | false =>
    cases n₂ with
    | false => rfl
    | true => exact (Int.mul_neg ..).symm
  | true =>
    cases n₂ with
    | false => exact (Int.neg_mul ..).symm
    | true => exact (Int.neg_mul_neg ..).symm

theorem scaled_sign_natAbs (s lo : Int) (z : Bool) : (Fp.fin (if s = 0 then z else decide (s < 0)) s.natAbs lo).scaled lo = s := by
  rw [Fp.scaled_self]
  by_cases hs : s = 0
  · subst hs
    cases z <;> rfl
  · rw [if_neg hs]
    simp only [decide_eq_true_eq]
    split <;> omega

/-- The sum of numbers is exact, at an exponent at most that of each that is not zero; a zero sum is −0 only where each is −0. -/
theorem numberSum_spec {vs : List Fp} (h : ∀ v ∈ vs, v.isFin = true) : ∃ (n : Bool) (m : Nat) (lo : Int), numberSum vs = .fin n m lo ∧
    (∀ v ∈ vs, v.scaled v.low ≠ 0 → lo ≤ v.low) ∧ (Fp.fin n m lo).scaled lo = (vs.map (Fp.scaled lo)).sum ∧
    (m = 0 → (n = true ↔ ∀ v ∈ vs, v.minus = true ∧ v.scaled v.low = 0)) := by
  refine ⟨_, _, _, rfl, (foldl_lowAcc_le vs 0).2, ?_, fun hm => ?_⟩
  · rw [scaled_sign_natAbs, foldl_sumAcc, Int.zero_add]
  · rw [if_pos (Int.natAbs_eq_zero.mp hm), all_negZero_iff h]

/-! ## Products of numbers -/

/-- The product of a pair of numbers. -/
def finProd (p : Fp × Fp) : Fp := (exactProd p).getD (.nan false)

theorem finProd_spec {p : Fp × Fp} (h : p.1.isFin = true ∧ p.2.isFin = true) :
    exactProd p = some (finProd p) ∧ (finProd p).isFin = true ∧ (finProd p).low = p.1.low + p.2.low ∧
      (finProd p).minus = (p.1.minus ^^ p.2.minus) ∧ ∀ lo, (finProd p).scaled lo = p.1.times lo p.2 := by
  obtain ⟨a, b⟩ := p
  obtain ⟨⟨n₁, m₁, e₁, rfl⟩, n₂, m₂, e₂, rfl⟩ := And.imp Fp.eq_fin_of_isFin Fp.eq_fin_of_isFin h
  refine ⟨rfl, rfl, rfl, rfl, fun lo => ?_⟩
  show (Fp.fin (n₁ != n₂) (m₁ * m₂) (e₁ + e₂)).scaled lo = _
  rw [Fp.scaled_eq_self_mul, Fp.times, Fp.low, Fp.low, Fp.scaled_self, Fp.scaled_self, Fp.scaled_self, ite_neg_mul]

theorem times_low (a b : Fp) : a.times (a.low + b.low) b = a.scaled a.low * b.scaled b.low := by
  simp [Fp.times]

theorem filterMap_exactProd {ps : List (Fp × Fp)} (h : ∀ p ∈ ps, p.1.isFin = true ∧ p.2.isFin = true) :
    ps.filterMap exactProd = ps.map finProd := by
  induction ps with
  | nil => rfl
  | cons p ps ih =>
    obtain ⟨hp, hps⟩ := List.forall_mem_cons.mp h
    rw [List.filterMap_cons_some (finProd_spec hp).1, ih hps, List.map_cons]

/-- THE CHUNK SUM OF NUMBERS IS EXACT (R105). -/
theorem chunkSum_fin {ps : List (Fp × Fp)} (h : ∀ p ∈ ps, p.1.isFin = true ∧ p.2.isFin = true) :
    ∃ (n : Bool) (m : Nat) (lo : Int), (chunkSum ps).1 = .fin n m lo ∧
      (∀ p ∈ ps, p.1.scaled p.1.low * p.2.scaled p.2.low ≠ 0 → lo ≤ p.1.low + p.2.low) ∧
      (Fp.fin n m lo).scaled lo = (ps.map (fun p => p.1.times lo p.2)).sum ∧
      (m = 0 → (n = true ↔ ∀ p ∈ ps, p.1.minus ≠ p.2.minus ∧ p.1.scaled p.1.low * p.2.scaled p.2.low = 0)) := by
  have hprod : ∀ p ∈ ps, (finProd p).scaled (finProd p).low = p.1.scaled p.1.low * p.2.scaled p.2.low := fun p hp => by
    obtain ⟨-, -, hlow, -, hscaled⟩ := finProd_spec (h p hp)
    rw [hscaled, hlow, times_low]
  have hfin : ∀ v ∈ ps.map finProd, v.isFin = true := List.forall_mem_map.mpr (fun p hp => (finProd_spec (h p hp)).2.1)
  obtain ⟨n, m, lo, hsum, hlo, hval, hzero⟩ := numberSum_spec hfin
  refine ⟨n, m, lo, ?_, fun p hp hne => ?_, ?_, fun hm => (hzero hm).trans ?_⟩
  · rw [chunkSum_of_fin h, filterMap_exactProd h, hsum]
  · rw [← (finProd_spec (h p hp)).2.2.1]
    exact hlo _ (List.mem_map_of_mem hp) (by rwa [hprod p hp])
  · rw [hval, List.map_map]
    exact congrArg List.sum (List.map_congr_left (fun p hp => (finProd_spec (h p hp)).2.2.2.2 lo))
  · rw [List.forall_mem_map]
    refine forall₂_congr (fun p hp => ?_)
    rw [hprod p hp, (finProd_spec (h p hp)).2.2.2.1]
    simp

/-! ## The accumulators after a beat -/

section
variable {r : MmaRun} {g : Guard} {fmt : MFmt} {mode : MMode} {tb : Bool} {ovr : MOvr} {md : BitVec 5} {a : MmaA} {sb : BitVec 4}
  {bd : BitVec 10}

theorem advance_lane (bt : Beat) (hi : r.ins = .mma g fmt mode tb ovr md a sb bd) (hl : r.acc.length = 32) {i j : Nat} (h : i < 32)
    (h' : j < 32) : lane 32 ((r.advance bt).1.acc.getD i 0) j =
      (r.cell fmt (mode == .sub) tb (ovrEntry ovr (ovF32 r.ovf)) bt i j).bits % 2 ^ 32 := by
  rw [advance_eq r bt hi hl]
  exact lane_cells r fmt _ tb _ bt h h'

theorem advance_flags_iff (bt : Beat) (hi : r.ins = .mma g fmt mode tb ovr md a sb bd) (hl : r.acc.length = 32) (f : BitVec 5) :
    (r.advance bt).1.fl &&& f = 0 ↔ r.fl &&& f = 0 ∧
      ∀ i, i < 32 → ∀ j, j < 32 → (r.cell fmt (mode == .sub) tb (ovrEntry ovr (ovF32 r.ovf)) bt i j).fl &&& f = 0 := by
  rw [advance_eq r bt hi hl, ← cells_flags_iff, or_and_eq_zero_iff]

/-- A beat keeps the word and the operands of its product, and the number of its rows (R146). -/
theorem advance_keeps (bt : Beat) (hi : r.ins = .mma g fmt mode tb ovr md a sb bd) (hl : r.acc.length = 32) :
    (r.advance bt).1.ins = r.ins ∧ (r.advance bt).1.n = r.n + 1 ∧ (r.advance bt).1.b = r.b ∧ (r.advance bt).1.a = r.a ∧
      (r.advance bt).1.acc.length = 32 ∧ (r.pois = true → (r.advance bt).1.pois = true) := by
  rw [advance_eq r bt hi hl]
  refine ⟨rfl, rfl, rfl, rfl, ?_, fun hp => ?_⟩
  · simp [MmaRun.cells]
  · simp [hp]

theorem exists_mem_products (r : MmaRun) (fmt : MFmt) (tb : Bool) (bt : Beat) (i j : Nat) (P : Fp × Fp → Prop) :
    (∃ p ∈ r.products fmt tb bt i j, P p) ↔ ∃ k, k < chunkLen fmt ∧ P (r.elemA fmt bt i k, r.elemB fmt tb k j) := by
  constructor
  · rintro ⟨p, hp, hP⟩
    obtain ⟨k, hk, rfl⟩ := List.mem_map.mp hp
    exact ⟨k, List.mem_range.mp hk, hP⟩
  · rintro ⟨k, hk, hP⟩
    exact ⟨_, List.mem_map_of_mem (List.mem_range.mpr hk), hP⟩

theorem forall_mem_products (r : MmaRun) (fmt : MFmt) (tb : Bool) (bt : Beat) (i j : Nat) (P : Fp × Fp → Prop) :
    (∀ p ∈ r.products fmt tb bt i j, P p) ↔ ∀ k, k < chunkLen fmt → P (r.elemA fmt bt i k, r.elemB fmt tb k j) := by
  simp only [MmaRun.products, List.forall_mem_map, List.mem_range]

/-! ## M8 and BF16: one rounding for each beat (R91, R105) -/

theorem cell_of_ne_i8 (hne : fmt ≠ .i8) (r : MmaRun) (sub tb : Bool) (ent : OvE) (bt : Beat) (i j : Nat) :
    r.cell fmt sub tb ent bt i j = accStep sub ent (lane 32 (r.acc.getD i 0) j) (chunkSum (r.products fmt tb bt i j)) := by
  cases fmt with
  | m8 => rfl
  | i8 => exact absurd rfl hne
  | bf16 => rfl

theorem accStep_nan_bits (sub : Bool) (ent : OvE) (acc : Nat) {s : Fp × BitVec 5} (h : s.1 = .nan false) :
    (accStep sub ent acc s).bits = fpNan 23 := by
  simp [accStep, h, Fp.negate, fpAdd, Fp.isNan]

theorem accStep_flags (sub : Bool) (ent : OvE) (acc : Nat) {s : Fp × BitVec 5} (h : s.2 = fNv) :
    (accStep sub ent acc s).fl &&& fNv ≠ 0 := by
  intro hz
  have hfl : (accStep sub ent acc s).fl =
      (fpAdd 23 ⟨.rne, false, ent⟩ (fpUnpack 23 acc) (if sub then s.1.negate else s.1)).fl ||| fNv := by rw [← h]; rfl
  rw [hfl, or_and_eq_zero_iff] at hz
  exact absurd hz.2 (by decide)

theorem negate_inf_if (sub n : Bool) : (if sub then (Fp.inf n).negate else .inf n) = .inf (n ^^ sub) := by
  cases sub <;> simp [Fp.negate]

theorem negate_fin_if (sub n : Bool) (m : Nat) (e : Int) :
    (if sub then (Fp.fin n m e).negate else .fin n m e) = .fin (n ^^ sub) m e := by
  cases sub <;> simp [Fp.negate]

/-- A BEAT OF M8 OR BF16 (R91, R105): a chunk with a NaN, 0 × ∞ or infinities of both signs leaves the canonical NaN, invalid where it
must be; infinities of one sign are added as such, numbers as their exact sum with one rounding. -/
theorem advance_rounds_once (bt : Beat) (hi : r.ins = .mma g fmt mode tb ovr md a sb bd) (hl : r.acc.length = 32) (hne : fmt ≠ .i8)
    {i j : Nat} (h : i < 32) (h' : j < 32) :
    let ps := r.products fmt tb bt i j
    let r' := (r.advance bt).1
    let add := fpAdd 23 ⟨.rne, false, ovrEntry ovr (ovF32 r.ovf)⟩ (fpUnpack 23 (lane 32 (r.acc.getD i 0) j))
    ((∃ p ∈ ps, noProduct p) ∨ hasInf ps true ∧ hasInf ps false → lane 32 (r'.acc.getD i 0) j = fpNan 23) ∧
    ((∃ p ∈ ps, badProduct p) ∨ hasInf ps true ∧ hasInf ps false → r'.fl &&& fNv ≠ 0) ∧
    (∀ n, (∀ p ∈ ps, ¬ noProduct p) → hasInf ps n → ¬ hasInf ps (!n) →
      lane 32 (r'.acc.getD i 0) j = (add (.inf (n ^^ decide (mode = .sub)))).bits % 2 ^ 32) ∧
    ((∀ p ∈ ps, p.1.isFin = true ∧ p.2.isFin = true) → ∃ (n : Bool) (m : Nat) (lo : Int),
      (∀ p ∈ ps, p.1.scaled p.1.low * p.2.scaled p.2.low ≠ 0 → lo ≤ p.1.low + p.2.low) ∧
      (Fp.fin n m lo).scaled lo = (ps.map (fun p => p.1.times lo p.2)).sum ∧
      (m = 0 → (n = true ↔ ∀ p ∈ ps, p.1.minus ≠ p.2.minus ∧ p.1.scaled p.1.low * p.2.scaled p.2.low = 0)) ∧
      lane 32 (r'.acc.getD i 0) j = (add (.fin (n ^^ decide (mode = .sub)) m lo)).bits % 2 ^ 32) := by
  intro ps r' add
  have hlane : lane 32 (r'.acc.getD i 0) j =
      (add (if mode == .sub then (chunkSum ps).1.negate else (chunkSum ps).1)).bits % 2 ^ 32 := by
    rw [advance_lane bt hi hl h h', cell_of_ne_i8 hne]
    rfl
  refine ⟨fun hn => ?_, fun hn hz => ?_, fun n hnone hn hn' => ?_, fun hf => ?_⟩
  · rw [advance_lane bt hi hl h h', cell_of_ne_i8 hne, accStep_nan_bits _ _ _ (chunkSum_nan hn)]
    rfl
  · have hcell := ((advance_flags_iff bt hi hl fNv).mp hz).2 i h j h'
    rw [cell_of_ne_i8 hne] at hcell
    exact accStep_flags _ _ _ (chunkSum_invalid hn) hcell
  · rw [hlane, chunkSum_inf hnone hn hn', negate_inf_if]
    rfl
  · obtain ⟨n, m, lo, hsum, hlo, hval, hzero⟩ := chunkSum_fin hf
    refine ⟨n, m, lo, hlo, hval, hzero, ?_⟩
    rw [hlane, hsum, negate_fin_if]
    rfl

/-! ## I8: exact sums that wrap (R101) -/

theorem sumTo_add (m n : Nat) (f : Nat → Int) : sumTo (m + n) f = sumTo m f + sumTo n (fun k => f (m + k)) := by
  simp [sumTo, List.range_add, Function.comp_def]

theorem sumTo_congr {n : Nat} {f f' : Nat → Int} (h : ∀ k, k < n → f k = f' k) : sumTo n f = sumTo n f' :=
  congrArg List.sum (List.map_congr_left (fun k hk => h k (List.mem_range.mp hk)))

theorem foldl_products_eq_sumTo (r : MmaRun) (tb : Bool) (bt : Beat) (i j : Nat) :
    (r.products .i8 tb bt i j).foldl (fun (s : Int) q => s + fpInt q.1 * fpInt q.2) 0 =
      sumTo 8 (fun k => fpInt (r.elemA .i8 bt i k) * fpInt (r.elemB .i8 tb k j)) := by
  rw [sumTo, MmaRun.products, List.foldl_map, List.sum_eq_foldl, List.foldl_map]
  rfl

/-- What a product of bytes adds to an accumulator: its sum, or its sum subtracted. -/
def signedSum (mode : MMode) (s : Int) : Int := if mode = .sub then -s else s

theorem signedSum_add (mode : MMode) (s s' : Int) : signedSum mode (s + s') = signedSum mode s + signedSum mode s' := by
  rw [signedSum, signedSum, signedSum]
  split <;> omega

theorem cell_i8 (r : MmaRun) (mode : MMode) (tb : Bool) (ent : OvE) (bt : Beat) (i j : Nat) :
    r.cell .i8 (mode == .sub) tb ent bt i j = .exact (wrapInt 32 (sgn 32 (lane 32 (r.acc.getD i 0) j) +
      signedSum mode (sumTo 8 (fun k => fpInt (r.elemA .i8 bt i k) * fpInt (r.elemB .i8 tb k j))))) := by
  rw [← foldl_products_eq_sumTo, signedSum]
  simp only [MmaRun.cell, mmaCell, beq_iff_eq]

/-- A beat of I8 adds its 8 products, wrapped to 32 bits, or subtracts them (R101). -/
theorem advance_lane_i8 (bt : Beat) (hi : r.ins = .mma g .i8 mode tb ovr md a sb bd) (hl : r.acc.length = 32) {i j : Nat} (h : i < 32)
    (h' : j < 32) : (lane 32 ((r.advance bt).1.acc.getD i 0) j : Int) = (lane 32 (r.acc.getD i 0) j +
      signedSum mode (sumTo 8 (fun k => fpInt (r.elemA .i8 bt i k) * fpInt (r.elemB .i8 tb k j)))) % 2 ^ 32 := by
  rw [advance_lane bt hi hl h h', cell_i8, Res.exact, Nat.mod_eq_of_lt (wrapInt_lt 32 _), wrapInt_sgn_add]

/-- A beat of I8 raises no flag (R101). -/
theorem advance_flags_i8 (bt : Beat) (hi : r.ins = .mma g .i8 mode tb ovr md a sb bd) (hl : r.acc.length = 32) :
    (r.advance bt).1.fl = r.fl := by
  have hcells : (r.cells .i8 (mode == .sub) tb (ovrEntry ovr (ovF32 r.ovf)) bt).foldl (fun f rs => f ||| orFlags rs) 0 &&&
      BitVec.allOnes 5 = 0 := (cells_flags_iff ..).mpr (fun i _ j _ => by rw [cell_i8]; exact BitVec.zero_and)
  rw [BitVec.and_allOnes] at hcells
  rw [advance_eq r bt hi hl]
  simp only [hcells]
  exact BitVec.or_zero

/-- A byte of a unit as a signed number. -/
def signedByte (u : BitVec 256) (i : Nat) : Int := slane 8 (u.toNat / 2 ^ (8 * i) % 256)

/-- Element (i, k) of A of an I8 product, from the operand fixed at its start or from the beats it takes (R141, R142). -/
def MmaRun.byteA (r : MmaRun) (bt : Nat → Beat) (i k : Nat) : Int :=
  match r.a with
  | some o => signedByte (o.1.getD k 0) i
  | none => signedByte ((bt (k / 8)).slot (k % 8)) i

/-- Element (k, j) of B of an I8 product (R142). -/
def MmaRun.byteB (r : MmaRun) (tb : Bool) (k j : Nat) : Int :=
  if tb then signedByte (r.b.getD j 0) k else signedByte (r.b.getD k 0) j

theorem fpInt_elemFp_i8 (us : Nat → BitVec 256) (k i : Nat) (sc : Byte) :
    fpInt (elemFp .i8 (elemAt .i8 us k i) sc) = signedByte (us k) i := fpInt_intFp _

theorem fpInt_elemA_i8 (r : MmaRun) (bt : Nat → Beat) (i : Nat) {k : Nat} (hk : k < 8) :
    fpInt (r.elemA .i8 (bt r.n) i k) = r.byteA bt i (8 * r.n + k) := by
  rw [MmaRun.elemA, MmaRun.byteA]
  cases r.a with
  | some o => exact fpInt_elemFp_i8 ..
  | none =>
    dsimp only
    rw [fpInt_elemFp_i8, show (8 * r.n + k) / 8 = r.n by omega, show (8 * r.n + k) % 8 = k by omega]

theorem fpInt_elemB_i8 (r : MmaRun) (tb : Bool) (k j : Nat) : fpInt (r.elemB .i8 tb k j) = r.byteB tb (8 * r.n + k) j := by
  cases tb with
  | false => exact fpInt_elemFp_i8 _ _ _ (r.scaleB (chunkLen .i8 * r.n + k))
  | true => exact fpInt_elemFp_i8 _ _ _ (r.scaleB j)

/-- A product after its first c beats (R146). -/
def MmaRun.after (r : MmaRun) (bt : Nat → Beat) (c : Nat) : MmaRun :=
  (List.range c).foldl (fun (q : MmaRun) b => (q.advance (bt b)).1) r

theorem MmaRun.after_succ (r : MmaRun) (bt : Nat → Beat) (c : Nat) : r.after bt (c + 1) = ((r.after bt c).advance (bt c)).1 := by
  simp [MmaRun.after, List.range_succ]

/-- After c beats of I8 every accumulator holds its start value plus or minus the sum of 8c products, wrapped to 32 bits (R101). -/
theorem after_i8 (bt : Nat → Beat) (hi : r.ins = .mma g .i8 mode tb ovr md a sb bd) (hn : r.n = 0) (hl : r.acc.length = 32) (c : Nat) :
    let q := r.after bt c
    q.ins = r.ins ∧ q.a = r.a ∧ q.b = r.b ∧ q.acc.length = 32 ∧ q.n = c ∧ q.fl = r.fl ∧ ∀ i j, i < 32 → j < 32 →
      (lane 32 (q.acc.getD i 0) j : Int) =
        (lane 32 (r.acc.getD i 0) j + signedSum mode (sumTo (8 * c) (fun k => r.byteA bt i k * r.byteB tb k j))) % 2 ^ 32 := by
  induction c with
  | zero =>
    refine ⟨rfl, rfl, rfl, hl, hn, rfl, fun i j _ _ => ?_⟩
    have hz : signedSum mode (sumTo (8 * 0) (fun k => r.byteA bt i k * r.byteB tb k j)) = 0 := by simp [signedSum, sumTo]
    rw [hz, Int.add_zero]
    have := lane_lt 32 (r.acc.getD i 0) j
    exact (Int.emod_eq_of_lt (by omega) (by exact_mod_cast this)).symm
  | succ c ih =>
    rw [MmaRun.after_succ]
    obtain ⟨hins, ha, hb, hlen, hcount, hfl, hlane⟩ := ih
    have hmma := hins.trans hi
    obtain ⟨hins', hcount', hb', ha', hlen', -⟩ := advance_keeps (bt c) hmma hlen
    refine ⟨hins'.trans hins, ha'.trans ha, hb'.trans hb, hlen', by rw [hcount', hcount],
      (advance_flags_i8 (bt c) hmma hlen).trans hfl, fun i j h h' => ?_⟩
    have hchunk : sumTo 8 (fun k => fpInt ((r.after bt c).elemA .i8 (bt c) i k) * fpInt ((r.after bt c).elemB .i8 tb k j)) =
        sumTo 8 (fun k => r.byteA bt i (8 * c + k) * r.byteB tb (8 * c + k) j) := sumTo_congr (fun k hk => by
      have hA := fpInt_elemA_i8 (r.after bt c) bt i hk
      have hB := fpInt_elemB_i8 (r.after bt c) tb k j
      rw [MmaRun.byteA, ha, hcount] at hA
      rw [MmaRun.byteB, hb, hcount] at hB
      rw [hA, hB]
      rfl)
    rw [advance_lane_i8 (bt c) hmma hlen h h', hlane i j h h', hchunk, Int.emod_add_emod, Int.add_assoc, ← signedSum_add, ← sumTo_add,
      Nat.mul_succ]

end

/-- Settles O31: four beats of I8 are an induction over the beats; a beat of M8 or BF16 is the exact sum of its chunk, added with one
rounding. -/
theorem integerProductsAreExact : Obligations.IntegerProductsAreExact := by
  unfold Obligations.IntegerProductsAreExact
  refine ⟨fun r g mode tb ovr md a sb bd bt hi hn hl => ?_, fun r g fmt mode tb ovr md a sb bd bt hi hne hl => ?_⟩
  · obtain ⟨-, -, -, -, hcount, hfl, hlane⟩ := after_i8 bt hi hn hl 4
    exact ⟨hcount, hfl, hlane⟩
  · obtain ⟨-, hkeeps⟩ := advance_keeps bt hi hl
    obtain ⟨hcount, hb, ha, hlen, hpois⟩ := hkeeps
    intro C scaleB A B r'
    refine ⟨hcount, hb, ha, hlen, hpois, ?_⟩
    intro env i j h h'
    have hbeat := advance_rounds_once bt hi hl hne h h'
    simp only [hasInf, exists_mem_products, forall_mem_products] at hbeat
    rw [MmaRun.products] at hbeat
    cases fmt with
    | i8 => exact absurd rfl hne
    | m8 => exact hbeat
    | bf16 => exact hbeat

end Sys2Proof.Machine
end

section
/-! PROOFS. A write step into the buffer of an agent (R200): what reads of the state return after it. -/

namespace Sys2Proof.Machine

open Sys2Proof

/-! ## Write steps of agents -/

/-- The log of writes and the agents stand in separate fields, so a write step shows its agent the state that `setAgent` made. -/
theorem State.agent_memWrite (s : State) (k : AgentKey) (a : Nat) (w : Word) (p : Bool) (seen : Nat) :
    (s.memWrite k a w p seen).agent k =
      { s.agent k with b := KV.put (s.agent k).b a (w, p), bseen := KV.put (s.agent k).bseen a seen } :=
  State.agent_setAgent ..

theorem State.agent_memWrite_ne (s : State) {k j : AgentKey} (a : Nat) (w : Word) (p : Bool) (seen : Nat) (h : j ≠ k) :
    (s.memWrite k a w p seen).agent j = s.agent j :=
  State.agent_setAgent_ne _ _ h

@[simp] theorem State.mem_memWrite (s : State) (k : AgentKey) (a : Nat) (w : Word) (p : Bool) (seen : Nat) :
    (s.memWrite k a w p seen).mem = s.mem := rfl

theorem State.buffer_memWrite_self (s : State) (k : AgentKey) (a : Nat) (w : Word) (p : Bool) (seen : Nat) :
    KV.get? ((s.memWrite k a w p seen).agent k).b a = some (w, p) := by
  rw [State.agent_memWrite]
  exact KV.get?_put_self ..

theorem State.buffer_memWrite_ne (s : State) (k : AgentKey) {a x : Nat} (w : Word) (p : Bool) (seen : Nat) (h : x ≠ a) :
    KV.get? ((s.memWrite k a w p seen).agent k).b x = KV.get? (s.agent k).b x := by
  rw [State.agent_memWrite]
  exact KV.get?_put_ne _ _ h

@[simp] theorem State.view_memWrite (s : State) (k j : AgentKey) (a : Nat) (w : Word) (p : Bool) (seen : Nat) :
    ((s.memWrite k a w p seen).agent j).v = (s.agent j).v := by
  by_cases h : j = k
  · subst h
    rw [State.agent_memWrite]
  · rw [State.agent_memWrite_ne s a w p seen h]

/-- Settles O36: a write step sets one entry of the writer's buffer, and the later write is again a write step. -/
theorem writeStepsGoToTheBuffer : Obligations.WriteStepsGoToTheBuffer := by
  unfold Obligations.WriteStepsGoToTheBuffer
  intro s k a w w' p p' n n' t
  exact ⟨s.buffer_memWrite_self k a w p n, fun x hx => s.buffer_memWrite_ne k w p n hx, s.mem_memWrite k a w p n,
    fun j => s.view_memWrite k j a w p n, fun j hj => s.agent_memWrite_ne a w p n hj, t.buffer_memWrite_self k a w' p' n'⟩

end Sys2Proof.Machine
end
